-- ==== Sys2Proof/Word.lean ====
section
/-! DEFINITION. The word types of the model: bytes, slot words, slices and link words (spec/00_scope.md R3, R4). -/

namespace Sys2Proof

/-- One byte of memory. -/
abbrev Byte := BitVec 8

/-- One 32-bit slot word or system register. -/
abbrev Word32 := BitVec 32

/-- One 64-bit FIFO word, datapath value or launch-record word. -/
abbrev Word64 := BitVec 64

/-- The 128 data bits of a link word, a move word or a setup word (R242, R245, R248). -/
abbrev Word128 := BitVec 128

/-- One 256-bit handle register (R61). -/
abbrev Handle := BitVec 256

/-- One task's slice file: 128 slices of 4 bits, slice n in bits [4n+3:4n] (R59). -/
abbrev SliceFile := BitVec 512

end Sys2Proof
end

