-- ==== Sys2Proof/Syntax.lean ====
section
/-! DEFINITION. The instructions and machine events of the QVS-4800, one constructor per row of the opcode table.
Slot operations carry their operands as the slot formats and lend values give them (spec/03_cw_bundles_encoding.md R87-R95,
R99-R103; spec/07_cw_engine_isa.md R199, R229); an event carries the names of the agents it happens to. -/

namespace Sys2Proof

/-- The FIRST, LAST and LVL fields of a LOOPFLAGS group (R90, R92). Without flags the slot is not governed by a loop. -/
structure LoopCond where
  first : Bool
  last : Bool
  lvl : Nat
  deriving DecidableEq, Repr

/-- No loop condition. -/
def LoopCond.none : LoopCond := ⟨false, false, 0⟩

/-- A predicate: gate index and inversion; g0 uninverted means always (R89, R93). -/
structure Pred where
  neg : Bool
  gate : Nat
  deriving DecidableEq, Repr

/-- The predicate that always holds. -/
def Pred.always : Pred := ⟨false, 0⟩

/-- Operands of an A slot of lend kind P, or of kind S, where the predicate is SEL's selector (R87, R93). -/
structure OpP where
  lc : LoopCond
  p : Pred
  w : Nat
  d : Nat
  a : Nat
  b : Nat
  x : Bool
  deriving DecidableEq, Repr

/-- Operands of an A slot of lend kind W: a predicate, or a destination-width code (R93). -/
structure OpW where
  lc : LoopCond
  p : Pred
  c : Option Nat
  w : Nat
  d : Nat
  a : Nat
  b : Nat
  x : Bool
  deriving DecidableEq, Repr

/-- Operands of an A slot of lend kind I: a 7-bit immediate with a predicate, or a 13-bit immediate (R93). -/
structure OpI where
  lc : LoopCond
  p : Pred
  long : Bool
  imm : Int
  w : Nat
  d : Nat
  a : Nat
  x : Bool
  deriving DecidableEq, Repr

/-- Operands of an A slot of lend kind K: k list entries and tag width 4 (t + 1) (R93, R144). -/
structure OpK where
  lc : LoopCond
  k : Nat
  t : Nat
  w : Nat
  d : Nat
  a : Nat
  b : Nat
  x : Bool
  deriving DecidableEq, Repr

/-- Operands of MOVI, lend kind M (R93, R99). -/
structure OpM where
  lc : LoopCond
  imm : Int
  w : Nat
  d : Nat
  deriving DecidableEq, Repr

/-- Operands of a stream command: handles h and H2, port code, slice operand s and the stream mod fields (R199). -/
structure OpStr where
  lc : LoopCond
  h : Nat
  h2 : Nat
  nt : Nat
  port : Nat
  s : Nat
  ls : Bool
  pk : Bool
  cls : Nat
  nk : Bool
  deriving DecidableEq, Repr

/-- Operands of an atomic: handle, slice operand, log2 of the size, order, scope and ACAS failure order (R229). -/
structure OpAt where
  lc : LoopCond
  h : Nat
  s : Nat
  size : Nat
  ord : Nat
  scope : Nat
  ford : Nat
  deriving DecidableEq, Repr

/-- Operands of an E command with a handle and a slice operand only (R199). -/
structure OpHS where
  lc : LoopCond
  h : Nat
  s : Nat
  deriving DecidableEq, Repr

/-- Operands of an E command with a slice operand only (R199). -/
structure OpS where
  lc : LoopCond
  s : Nat
  deriving DecidableEq, Repr

/-- The control fields of a C slot: loop condition and predicate (R89, R157). -/
structure Ctl where
  lc : LoopCond
  p : Pred
  deriving DecidableEq, Repr

/-- One row of the opcode table: a slot operation or a machine event. Events of tasks, cells, locks and commands name them
by the keys of State: task = core * 8 + context, cell = core * 256 + index, lock = core * 1024 + bank * 64 + bit,
command = task * 16 + entry, where core = die * 256 + tile and tile 255 is the die's management core. -/
inductive Instr where
  -- A class, X = 0 (R99)
  | add (o : OpP) | sub (o : OpP) | addi (o : OpI) | mul (o : OpW)
  | logAnd (o : OpP) | logOr (o : OpP) | logXor (o : OpP) | shl (o : OpP) | shr (o : OpP)
  | mov (o : OpW) | sel (o : OpP) | cmp (o : OpP) | minS (o : OpP) | maxS (o : OpP)
  | ld (o : OpI) | st (o : OpI)
  -- A class, X = 1
  | mulh (o : OpP) | mulhu (o : OpP) | adds (o : OpP) | subs (o : OpP) | addsu (o : OpP) | subsu (o : OpP)
  | neg (o : OpP) | abs (o : OpP) | andn (o : OpP) | logNot (o : OpP) | rol (o : OpP) | ror (o : OpP)
  | clz (o : OpW) | ctz (o : OpW) | popc (o : OpW) | brev (o : OpP)
  -- A class, X = 2
  | ext (o : OpW) | bfx (o : OpW) | bfi (o : OpP) | pack (o : OpW) | movi (o : OpM) | tst (o : OpP)
  | fadd (o : OpP) | fsub (o : OpP) | fmul (o : OpP) | fma (o : OpP) | fmin (o : OpP) | fmax (o : OpP)
  | fsgn (o : OpP) | fcmp (o : OpP) | fcvt (o : OpW) | frcp (o : OpP)
  -- A class, X = 3
  | frsq (o : OpP) | topk (o : OpK) | topkc (o : OpK) | ldl (o : OpI) | stu (o : OpI)
  | spill (o : OpI) | fill (o : OpI) | push (o : OpP) | pop (o : OpP) | hfld (o : OpP) | hfset (o : OpP)
  -- E class (R100)
  | sld (o : OpStr) | sst (o : OpStr) | scp (o : OpStr) | sga (o : OpStr) | ssc (o : OpStr) | srec (o : OpStr)
  | smc (o : OpStr) | sfil (o : OpStr) | scfg (lc : LoopCond) (h nt : Nat) (nk : Bool)
  | sbar (lc : LoopCond) (mask nt : Nat) (nk : Bool)
  | skil (lc : LoopCond) (all : Bool) (entry : Nat) | ssta (lc : LoopCond) (s entry : Nat)
  | sig (lc : LoopCond) (vc s scope : Nat) | sigm (lc : LoopCond) (vc s scope : Nat)
  | bind (lc : LoopCond) (vc ctx : Nat) | unbind (lc : LoopCond) (vc : Nat)
  | dcset (lc : LoopCond) (s dc : Nat) | dcdec (lc : LoopCond) (dc : Nat)
  | draw (o : OpHS) | fput (o : OpHS) | resv (o : OpHS) | publ (o : OpHS) | rtake (o : OpHS) (maxm1 : Nat)
  | aadd (o : OpAt) | amin (o : OpAt) | amax (o : OpAt) | aminu (o : OpAt) | amaxu (o : OpAt) | aand (o : OpAt)
  | aor (o : OpAt) | axor (o : OpAt) | aswp (o : OpAt) | acas (o : OpAt) | ald (o : OpAt) | ast (o : OpAt)
  | mpost (o : OpHS) | msend (o : OpHS) | mprobe (o : OpS) | mcancel (o : OpS) | mtest (o : OpS)
  | hld (o : OpHS) | hst (o : OpHS) | hmov (lc : LoopCond) (h h2 : Nat) | rsyn (o : OpS)
  | tinv (lc : LoopCond) (s : Nat) (all : Bool)
  -- C class (R102) and SYS sub-operations (R103)
  | nop (c : Ctl) | br (c : Ctl) (off : Int) | brl (c : Ctl) (link : Nat) (off : Int) | jmp (c : Ctl) (t : Nat)
  | loop (c : Ctl) (cnt fin : Nat) | loopi (c : Ctl) (count fin : Nat)
  | lind (c : Ctl) (i lvl w : Nat) (stride : Int) | lbrk (c : Ctl) (lvl : Nat)
  | endTask (c : Ctl) | yield (c : Ctl) | waitc (c : Ctl) (dc : Nat) | waitf (c : Ctl) (a v g : Nat)
  | fence (c : Ctl) (kind scope : Nat) | trap (c : Ctl) (code : Nat) | bkpt (c : Ctl) (code : Nat)
  | prio (c : Ctl) (p : Nat) | mfs (c : Ctl) (d r : Nat) | mts (c : Ctl) (r s : Nat)
  | eret (c : Ctl) (t : Nat) (skip : Bool) | ipage (c : Ctl) (p : Nat) | hold (c : Ctl) (t : Nat)
  -- Events of tasks and their returns
  | illegalBundle (task : Nat) | ifetchMiss (task : Nat) | fixedLatencyLanding (task : Nat)
  | landingBufferWrite (task ret : Nat) | replayEntryLanding (task : Nat) | asyncTaskFault (task : Nat)
  | taskMarkedDead (task : Nat) | vcWordArrival (i : Nat)
  | lockBitGrant (lk : Nat) | lockHeldTimeout (lk : Nat) | cellLockHeldTimeout (lk : Nat)
  -- Events of the pump and of remote requests
  | queueCommandStart (cmd : Nat) | streamBeat (cmd : Nat) | translationWalk (cmd : Nat) | streamComplete (cmd : Nat)
  | sbarComplete (cmd : Nat) | fqRequestSend (task : Nat) | fqResponse (task : Nat)
  -- Events of the receive engine
  | messageArrival (i : Nat) | matchEligibleMessage (i : Nat) | matchPost (i : Nat) | matchProbe (i : Nat)
  | matchCancel (i : Nat) | matchTest (i : Nat) | receiveComplete (entry : Nat) | msendComplete (cmd : Nat)
  -- Events of the array and of configuration
  | cellLoad (cell : Nat) | imageReadComplete (fld : Nat) | configCompleteWave (fld : Nat) | cellFire (cell : Nat)
  | cellResultLanding (cell : Nat) | linkWordArrival (link : Nat) | binPortPerform (cell i : Nat) | twinCompare (cell : Nat)
  -- Events of the host and of the intake
  | notify (slot : Nat) (v : Nat) | hostApertureAccess (off : Nat) (bytes : Nat) (wr : Option (List Byte))
  | registerWrite (off : Nat) (v : Nat) | queueMap (q slot : Nat) | queueUnmap (slot : Nat) | intakeDecision
  | intakeAging (slot : Nat) | launch (i : Nat) | unload (i : Nat) | launchNop (i : Nat) | seedInject (i : Nat)
  | launchComplete (i : Nat) | pcieLinkDown
  -- Events of the package
  | powerOn | ready (die : Nat) | halt (die : Nat) | attreq (die addr : Nat) | attestationComplete (die : Nat)
  | stepselCeiling (die v : Nat) | junction100C (die : Nat) | powerCapExceeded | stepRecovery | junction110C
  -- Events of the management registers
  | faultRecordWrite (die : Nat) | preempt (die fld : Nat) | evict (die fld : Nat) | resume (die fld : Nat)
  | restore (die fld : Nat) | teardown (die fld : Nat) | attach (die fld : Nat) | detach (die fld : Nat)
  | arm (die fld : Nat) | disarm (die fld : Nat) | dumpLimitExpiry (fld : Nat) | debugStop (fld : Nat)
  | strctlResume (die v : Nat) | strctlKill (die v : Nat) | dwdataAccess (die : Nat) (wr : Option Nat)
  | migrelh (die v : Nat) | cycleRead (task : Nat) | hctlSnap | hctlClr
  -- Events of the fabric
  | applyTable | key | lock | openFabric | drain | dark | lockComplete | rotorSlot (fibre slot : Nat)
  | rotorCycleBoundary | flitReceive (fibre slot : Nat) (bytes : List Byte) | packetResendTimeout (dest psn : Nat)
  | memberUnreachable (m : Nat) | keyActivation | oldKeyErase | wavelengthDegrade (fibre : Nat) | pcieLinkRetrain
  | fibreGoesDead (fibre : Nat)
  deriving DecidableEq, Repr

end Sys2Proof
end

