-- ==== Sys2Proof/WellFormed.lean ====
section
/-! DEFINITION. Which terms of Instr the encodings allow: field ranges, the codes the opcode map accepts (a violation is
ILLEGAL_OP) and slice ranges that end within s127 (a violation is ILLEGAL_SLICE) (spec/03_cw_bundles_encoding.md R91-R104,
spec/07_cw_engine_isa.md R199-R200, R229). -/

namespace Sys2Proof

/-- Operand width in bits of a W code (R63). -/
def wBits (w : Nat) : Nat :=
  match w with
  | 0 => 4 | 1 => 8 | 2 => 12 | 3 => 16 | 4 => 20 | 5 => 24 | 6 => 32 | _ => 64

/-- A slice range of the given width ends within s127 (R66). -/
def rangeOk (start width : Nat) : Bool := decide (start + width / 4 ≤ 128)

/-- A loop condition as a LOOPFLAGS group admits it: level 0-5, and level 0 without flags (R91). -/
def LoopCond.ok (lc : LoopCond) : Bool :=
  decide (lc.lvl ≤ 5) && (lc.first || lc.last || decide (lc.lvl = 0))

/-- The slot has a loop flag, so that its lend value has four bits (R90, R95). -/
def LoopCond.flagged (lc : LoopCond) : Bool := lc.first || lc.last

/-- A predicate's gate index is below 16. -/
def Pred.ok (p : Pred) : Bool := decide (p.gate < 16)

/-- Destination width of a W-kind slot (R63, R93). -/
def OpW.wd (o : OpW) : Nat := match o.c with | some c => 4 * (c + 1) | none => wBits o.w

/-- The lend bits L of a predicate (R93). -/
def predBits (p : Pred) : Nat := (if p.neg then 16 else 0) + p.gate

/-- The lend bits L of a W-kind slot (R93). -/
def OpW.lbits (o : OpW) : Nat := match o.c with | some c => 64 + c | none => predBits o.p

/-- The immediate's bits, in the width its form has (R93). -/
def OpI.bitsImm (o : OpI) : Nat := (o.imm % (if o.long then 8192 else 128)).toNat

/-- The lend bits L of an I-kind slot (R93). -/
def OpI.lbits (o : OpI) : Nat := if o.long then 64 + o.bitsImm / 128 else predBits o.p

/-- Under a loop flag the lend value is LX, so L has two bits and X is as it stands (R90, R95). -/
def lendFits (lc : LoopCond) (l : Nat) : Bool := !lc.flagged || decide (l < 4)

def OpP.base (o : OpP) : Bool :=
  o.lc.ok && o.p.ok && decide (o.w < 8) && decide (o.d < 128) && decide (o.a < 128) && decide (o.b < 128) &&
    lendFits o.lc (predBits o.p)

def OpW.base (o : OpW) : Bool :=
  o.lc.ok && o.p.ok && decide (o.w < 8) && decide (o.d < 128) && decide (o.a < 128) && decide (o.b < 128) &&
    (match o.c with | some c => decide (c < 16) && decide (o.p = Pred.always) | none => true) && lendFits o.lc o.lbits

def OpI.base (o : OpI) : Bool :=
  o.lc.ok && o.p.ok && decide (o.w < 8) && decide (o.d < 128) && decide (o.a < 128) &&
    (if o.long then decide (-4096 ≤ o.imm ∧ o.imm ≤ 4095) && decide (o.p = Pred.always)
     else decide (-64 ≤ o.imm ∧ o.imm ≤ 63)) && lendFits o.lc o.lbits

def OpK.base (o : OpK) : Bool :=
  o.lc.ok && decide (1 ≤ o.k ∧ o.k ≤ 8) && decide (o.t < 16) && decide (o.w < 8) && decide (o.d < 128) &&
    decide (o.a < 128) && decide (o.b < 128) && lendFits o.lc ((o.k - 1) * 16 + o.t)

def OpM.base (o : OpM) : Bool :=
  o.lc.ok && decide (-1048576 ≤ o.imm ∧ o.imm ≤ 1048575) && decide (o.w < 8) && decide (o.d < 128) &&
    lendFits o.lc ((o.imm % 2097152).toNat / 16384)

def OpStr.base (o : OpStr) : Bool :=
  o.lc.ok && decide (o.h < 16) && decide (o.h2 < 16) && decide (o.nt < 32) && decide (o.port < 128) &&
    decide (o.s < 128) && decide (o.cls < 4) && (o.nk || decide (o.nt = 0)) && lendFits o.lc (o.nt * 4)

def OpAt.base (o : OpAt) : Bool :=
  o.lc.ok && decide (o.h < 16) && decide (o.s < 128) && decide (o.size < 4) && decide (o.ord ≤ 4) && decide (o.scope ≤ 5)

def OpHS.base (o : OpHS) : Bool := o.lc.ok && decide (o.h < 16) && decide (o.s < 128)

def OpS.base (o : OpS) : Bool := o.lc.ok && decide (o.s < 128)

def Ctl.base (c : Ctl) : Bool := c.lc.ok && c.p.ok

/-- Ranges of the three slice operands of a register-form slot. -/
def OpP.ranges3 (o : OpP) : Bool := rangeOk o.d (wBits o.w) && rangeOk o.a (wBits o.w) && rangeOk o.b (wBits o.w)
def OpP.ranges2 (o : OpP) : Bool := rangeOk o.d (wBits o.w) && rangeOk o.a (wBits o.w)
def OpP.rangesAB (o : OpP) : Bool := rangeOk o.a (wBits o.w) && rangeOk o.b (wBits o.w)
def OpW.ranges3 (o : OpW) : Bool := rangeOk o.d o.wd && rangeOk o.a (wBits o.w) && rangeOk o.b (wBits o.w)
def OpW.ranges2 (o : OpW) : Bool := rangeOk o.d o.wd && rangeOk o.a (wBits o.w)
def OpI.rangesMem (o : OpI) : Bool := rangeOk o.d (wBits o.w) && rangeOk o.a 32
/-- Width in bits of a top-k list (R144). -/
def OpK.listBits (o : OpK) : Nat := o.k * (wBits o.w + 4 * (o.t + 1))

/-- Width codes of LD, ST, LDL and STU: whole bytes of a power of two (R149). -/
def memW (w : Nat) : Bool := decide (w = 1 ∨ w = 3 ∨ w = 5 ∨ w = 6 ∨ w = 7)

/-- Width of a floating-point or D8 format code of FCVT; integers take any width (R97, R143). -/
def cvtWidthOk (fmt bits : Nat) : Bool :=
  match fmt with
  | 0 => decide (bits = 32) | 1 | 2 => decide (bits = 16) | 3 | 4 | 5 => decide (bits = 8) | _ => true

/-- Condition d[6:4] of a gate-writing slot is below n (R97). -/
def condOk (d n : Nat) : Bool := decide (d / 16 < n)

/-- The system-register numbers that are assigned (R168, R358, R382, R427). -/
def sysregAssigned (r : Nat) : Bool :=
  decide (r ≤ 5) || decide (r = 0x10) ||
  [0x40, 0x41, 0x48, 0x49, 0x4A, 0x4B, 0x4C, 0x50, 0x51, 0x58, 0x59, 0x5A, 0x5B, 0x5C, 0x5D, 0x5E, 0x5F].contains r ||
  (decide (0x80 ≤ r) && decide (r ≤ 0x85)) ||
  [0x100, 0x101, 0x108, 0x109, 0x10A, 0x10B, 0x10C, 0x110, 0x111, 0x112, 0x113, 0x114, 0x118, 0x120, 0x121, 0x128, 0x129].contains r ||
  (decide (0x130 ≤ r) && decide (r < 0x150) && decide (r % 4 ≠ 3)) ||
  [0x150, 0x151, 0x152, 0x153, 0x154, 0x155, 0x160, 0x161, 0x162, 0x168, 0x169, 0x16A].contains r

/-- The system registers that MTS may not write: an MTS to a read-only register raises ILLEGAL_OP (R168, R427). -/
def sysregReadOnly (r : Nat) : Bool :=
  decide (r ≤ 4) || (decide (0x40 ≤ r) && decide (r ≤ 0x7F)) || [0x81, 0x85, 0x10A, 0x111, 0x153, 0x162].contains r

/-- The supervisor-only registers (R168). -/
def sysregSupervisor (r : Nat) : Bool := decide (r = 0x10) || decide (0x80 ≤ r)

/-- Port codes by class (R101, R198). -/
def portWi (p : Nat) : Bool := decide (p < 0x20)
def portNi (p : Nat) : Bool := decide (0x20 ≤ p ∧ p < 0x40)
def portVc (p : Nat) : Bool := decide (0x40 ≤ p ∧ p < 0x60)
def portOut (p : Nat) : Bool := decide (0x60 ≤ p ∧ p < 0x80)

/-- What the opcode map admits in the fields of an instruction, the slice ranges apart: otherwise ILLEGAL_OP (R96, R97, R102,
R103, R199, R200, R229). Events are judged on the ranges of their keys. -/
def Instr.formOk : Instr → Bool
  | .add o | .sub o | .logAnd o | .logOr o | .logXor o | .shl o | .shr o | .minS o | .maxS o | .mulh o | .mulhu o
  | .adds o | .subs o | .addsu o | .subsu o | .andn o | .rol o | .ror o | .bfi o => o.base
  | .sel o => o.base && !o.x
  | .neg o | .abs o | .logNot o | .brev o => o.base && decide (o.b = 0)
  | .mul o | .bfx o | .pack o => o.base
  | .mov o | .clz o | .ctz o | .popc o | .ext o => o.base && decide (o.b = 0)
  | .addi o => o.base
  | .cmp o => o.base && condOk o.d 6
  | .tst o => o.base && condOk o.d 2
  | .fcmp o => o.base && condOk o.d 5 && decide (o.w = 6) && !o.x
  | .ld o | .st o | .ldl o | .stu o => o.base && memW o.w
  | .spill o | .fill o => o.base
  | .movi o => o.base
  | .fadd o | .fsub o | .fmul o | .fma o | .fmin o | .fmax o | .fsgn o => o.base && decide (o.w = 6) && !o.x
  | .frcp o | .frsq o => o.base && decide (o.w = 6) && !o.x && decide (o.b = 0)
  | .fcvt o => o.base && cvtWidthOk (o.b % 8) (wBits o.w) && cvtWidthOk (o.b / 8 % 8) o.wd
  | .topk o => o.base
  | .topkc o => o.base && decide (o.b = 0)
  | .push o => o.base && !o.x && decide (o.d = 0) && decide (o.b = 1 ∨ o.b = 2)
  | .pop o => o.base && !o.x && decide (o.a = 0) && decide (o.b = 0 ∨ o.b = 3)
  | .hfld o => o.base && !o.x && decide (o.a < 16) && decide (o.b ≤ 17)
  | .hfset o => o.base && !o.x && decide (o.d < 16) && decide (o.b ≤ 17)
  | .sld o => o.base && (portWi o.port || portNi o.port || (portVc o.port && !o.pk && !o.ls))
  | .sst o => o.base && portOut o.port && !o.ls
  | .scp o => o.base && decide (o.port = 0) && !o.ls && !o.pk
  | .sga o => o.base && !o.ls &&
      ((decide (o.h2 = 0) && (portWi o.port || portNi o.port || (portVc o.port && !o.pk))) || decide (o.port = 0x7F))
  | .ssc o => o.base && portOut o.port && !o.ls && decide (o.h2 = 0)
  | .srec o | .smc o => o.base && (portWi o.port || portNi o.port) && !o.ls
  | .sfil o => o.base && decide (o.port = 0) && !o.ls && !o.pk
  | .scfg lc h nt nk => lc.ok && decide (h < 16) && decide (nt < 32) && (nk || decide (nt = 0)) && lendFits lc (nt * 4)
  | .sbar lc mask nt nk => lc.ok && decide (mask < 16) && decide (nt < 32) && (nk || decide (nt = 0)) && lendFits lc (nt * 4)
  | .skil lc _ entry => lc.ok && decide (entry < 16)
  | .ssta lc s entry => lc.ok && decide (s < 128) && decide (entry < 16)
  | .sig lc vc s scope | .sigm lc vc s scope => lc.ok && decide (vc < 32) && decide (s < 128) && decide (scope ≤ 4)
  | .bind lc vc ctx => lc.ok && decide (vc < 32) && decide (ctx < 8)
  | .unbind lc vc => lc.ok && decide (vc < 32)
  | .dcset lc s dc => lc.ok && decide (s < 128) && decide (dc < 32)
  | .dcdec lc dc => lc.ok && decide (dc < 32)
  | .draw o | .fput o | .resv o | .publ o | .mpost o | .msend o | .hld o | .hst o => o.base
  | .rtake o m => o.base && decide (m < 32)
  | .aadd o | .amin o | .amax o | .aminu o | .amaxu o | .aand o | .aor o | .axor o | .aswp o =>
      o.base && decide (o.ford = 0)
  | .acas o => o.base && decide (o.ford ≤ 1) && decide (o.size ≤ 2)
  | .ald o => o.base && decide (o.ford = 0) && decide (o.ord = 0 ∨ o.ord = 1 ∨ o.ord = 4)
  | .ast o => o.base && decide (o.ford = 0) && decide (o.ord = 0 ∨ o.ord = 2 ∨ o.ord = 4)
  | .mprobe o | .mcancel o | .mtest o | .rsyn o => o.base
  | .hmov lc h h2 => lc.ok && decide (h < 16) && decide (h2 < 16)
  | .tinv lc s _ => lc.ok && decide (s < 128)
  | .nop c | .endTask c | .yield c => c.base
  | .br c off => c.base && decide (-524288 ≤ off ∧ off ≤ 524287)
  | .brl c link off => c.base && decide (1 ≤ link ∧ link < 128) && decide (-524288 ≤ off ∧ off ≤ 524287) &&
      (!c.lc.flagged || decide (link < 16))
  | .jmp c t => c.base && decide (t < 128)
  | .loop c cnt fin => c.base && decide (cnt < 128) && decide (fin < 8192)
  | .loopi c count fin => c.base && decide (count < 65536) && decide (fin < 8192) &&
      (!c.lc.flagged || decide (count < 2048))
  | .lind c i lvl w stride => c.base && decide (i < 128) && decide (lvl ≤ 5) && decide (w < 8) &&
      decide (-32768 ≤ stride ∧ stride ≤ 32767) && (!c.lc.flagged || decide (-1024 ≤ stride ∧ stride ≤ 1023))
  | .lbrk c lvl => c.base && decide (lvl ≤ 5)
  | .waitc c dc => c.base && decide (dc < 32)
  | .waitf c a v g => c.base && decide (a < 128) && decide (v < 128) && decide (1 ≤ g ∧ g < 16)
  | .fence c kind scope => c.base && decide (kind ≤ 2) && decide (scope ≤ 5)
  | .trap c code | .bkpt c code => c.base && decide (code < 65536)
  | .prio c p => c.base && decide (p < 4)
  | .mfs c d r => c.base && decide (d < 128) && decide (r < 512) && sysregAssigned r
  | .mts c r s => c.base && decide (s < 128) && decide (r < 512) && sysregAssigned r && !sysregReadOnly r
  | .eret c t _ | .hold c t => c.base && decide (t < 128)
  | .ipage c p => c.base && decide (p < 128)
  | .faultRecordWrite d | .ready d | .halt d | .attestationComplete d | .junction100C d => decide (d < 4)
  | .attreq d _ | .stepselCeiling d _ | .strctlResume d _ | .strctlKill d _ | .dwdataAccess d _ | .migrelh d _ => decide (d < 4)
  | .preempt d f | .evict d f | .resume d f | .restore d f | .teardown d f | .attach d f | .detach d f | .arm d f
  | .disarm d f => decide (d < 4) && decide (f < 256)
  | .rotorSlot f s => decide (f < 64) && decide (s < 16)
  | .flitReceive f s b => decide (f < 64) && decide (s < 16) && decide (b.length = 256)
  | .wavelengthDegrade f | .fibreGoesDead f => decide (f < 64)
  | .queueMap q s => decide (q < 4096) && decide (s < 64)
  | .queueUnmap s | .intakeAging s => decide (s < 64)
  | .notify s v => decide (s < 64) && decide (v < 2 ^ 64)
  | .illegalBundle _ | .ifetchMiss _ | .fixedLatencyLanding _ | .landingBufferWrite _ _ | .replayEntryLanding _
  | .asyncTaskFault _ | .taskMarkedDead _ | .vcWordArrival _ | .lockBitGrant _ | .lockHeldTimeout _ | .cellLockHeldTimeout _
  | .queueCommandStart _ | .streamBeat _ | .translationWalk _ | .streamComplete _ | .sbarComplete _ | .fqRequestSend _
  | .fqResponse _ | .messageArrival _ | .matchEligibleMessage _ | .matchPost _ | .matchProbe _ | .matchCancel _
  | .matchTest _ | .receiveComplete _ | .msendComplete _ | .cellLoad _ | .imageReadComplete _ | .configCompleteWave _
  | .cellFire _ | .cellResultLanding _ | .linkWordArrival _ | .binPortPerform _ _ | .twinCompare _
  | .hostApertureAccess _ _ _ | .registerWrite _ _ | .intakeDecision | .launch _ | .unload _ | .launchNop _
  | .seedInject _ | .launchComplete _ | .pcieLinkDown | .powerOn | .powerCapExceeded | .stepRecovery | .junction110C
  | .dumpLimitExpiry _ | .debugStop _ | .cycleRead _ | .hctlSnap | .hctlClr | .applyTable | .key | .lock | .openFabric
  | .drain | .dark | .lockComplete | .rotorCycleBoundary | .packetResendTimeout _ _ | .memberUnreachable _
  | .keyActivation | .oldKeyErase | .pcieLinkRetrain => true

/-- Every slice operand ends within s127: otherwise ILLEGAL_SLICE (R66, R96, R101, R102). -/
def Instr.slicesOk : Instr → Bool
  | .add o | .sub o | .logAnd o | .logOr o | .logXor o | .shl o | .shr o | .minS o | .maxS o | .mulh o | .mulhu o
  | .adds o | .subs o | .addsu o | .subsu o | .andn o | .rol o | .ror o | .bfi o | .sel o
  | .fadd o | .fsub o | .fmul o | .fma o | .fmin o | .fmax o | .fsgn o => o.ranges3
  | .neg o | .abs o | .logNot o | .brev o | .frcp o | .frsq o => o.ranges2
  | .mul o | .bfx o | .pack o => o.ranges3
  | .mov o | .clz o | .ctz o | .popc o | .ext o | .fcvt o => o.ranges2
  | .addi o => rangeOk o.d (wBits o.w) && rangeOk o.a (wBits o.w)
  | .cmp o | .tst o | .fcmp o => o.rangesAB
  | .ld o | .st o | .ldl o | .stu o | .spill o | .fill o => o.rangesMem
  | .movi o => rangeOk o.d (wBits o.w)
  | .topk o => rangeOk o.d o.listBits && rangeOk o.a (wBits o.w) && rangeOk o.b (wBits o.w)
  | .topkc o => rangeOk o.d o.listBits && rangeOk o.a (wBits o.w)
  | .push o | .hfset o => rangeOk o.a (wBits o.w)
  | .pop o | .hfld o => rangeOk o.d (wBits o.w)
  | .sld o | .sst o | .scp o | .sga o | .ssc o | .smc o | .sfil o => rangeOk o.s 64
  | .srec o => rangeOk o.s 16
  | .ssta _ s _ | .sig _ _ s _ | .sigm _ _ s _ => rangeOk s 64
  | .dcset _ s _ => rangeOk s 32
  | .draw o | .fput o | .resv o => rangeOk o.s 64
  | .rtake o _ => rangeOk o.s 64
  | .publ o | .mpost o | .msend o | .hld o | .hst o => rangeOk o.s 32
  | .aadd o | .amin o | .amax o | .aminu o | .amaxu o | .aand o | .aor o | .axor o | .aswp o | .acas o | .ald o | .ast o =>
      rangeOk o.s 64
  | .mprobe o | .mcancel o | .mtest o | .rsyn o => rangeOk o.s 32
  | .tinv _ s _ => rangeOk s 64
  | .brl _ link _ => rangeOk link 16
  | .jmp _ t => rangeOk t 16
  | .loop _ cnt _ => rangeOk cnt 24
  | .lind _ i _ w _ => rangeOk i (wBits w)
  | .waitf _ a v _ => rangeOk a 32 && rangeOk v 64
  | .mfs _ d _ => rangeOk d 32
  | .mts _ _ s => rangeOk s 32
  | .eret _ t _ | .hold _ t => rangeOk t 32
  | .ipage _ p => rangeOk p 64
  | _ => true

/-- A well-formed instruction: what decoding can answer. -/
def Instr.wf (i : Instr) : Bool := i.formOk && i.slicesOk

/-- Slot operations have a word; events have none. -/
def Instr.isSlot : Instr → Bool
  | .illegalBundle _ | .ifetchMiss _ | .fixedLatencyLanding _ | .landingBufferWrite _ _ | .replayEntryLanding _
  | .asyncTaskFault _ | .taskMarkedDead _ | .vcWordArrival _ | .lockBitGrant _ | .lockHeldTimeout _ | .cellLockHeldTimeout _
  | .queueCommandStart _ | .streamBeat _ | .translationWalk _ | .streamComplete _ | .sbarComplete _ | .fqRequestSend _
  | .fqResponse _ | .messageArrival _ | .matchEligibleMessage _ | .matchPost _ | .matchProbe _ | .matchCancel _
  | .matchTest _ | .receiveComplete _ | .msendComplete _ | .cellLoad _ | .imageReadComplete _ | .configCompleteWave _
  | .cellFire _ | .cellResultLanding _ | .linkWordArrival _ | .binPortPerform _ _ | .twinCompare _ | .notify _ _
  | .hostApertureAccess _ _ _ | .registerWrite _ _ | .queueMap _ _ | .queueUnmap _ | .intakeDecision | .intakeAging _
  | .launch _ | .unload _ | .launchNop _ | .seedInject _ | .launchComplete _ | .pcieLinkDown | .powerOn | .ready _ | .halt _
  | .attreq _ _ | .attestationComplete _ | .stepselCeiling _ _ | .junction100C _ | .powerCapExceeded | .stepRecovery
  | .junction110C | .faultRecordWrite _ | .preempt _ _ | .evict _ _ | .resume _ _ | .restore _ _ | .teardown _ _
  | .attach _ _ | .detach _ _ | .arm _ _ | .disarm _ _ | .dumpLimitExpiry _ | .debugStop _ | .strctlResume _ _
  | .strctlKill _ _ | .dwdataAccess _ _ | .migrelh _ _ | .cycleRead _ | .hctlSnap | .hctlClr | .applyTable | .key | .lock
  | .openFabric | .drain | .dark | .lockComplete | .rotorSlot _ _ | .rotorCycleBoundary | .flitReceive _ _ _
  | .packetResendTimeout _ _ | .memberUnreachable _ | .keyActivation | .oldKeyErase | .wavelengthDegrade _
  | .pcieLinkRetrain | .fibreGoesDead _ => false
  | _ => true

end Sys2Proof
end

