-- ==== Sys2Proof/Decode.lean ====
section
/-! DEFINITION. Decoding of slot words and bundles, total on any words and rejecting by name, and after it the encoder
(spec/03_cw_bundles_encoding.md R83-R104). Words are Nat values below 2^32. -/

namespace Sys2Proof

/-! ## Bit fields -/

/-- The n bits of w from bit lo up. -/
def bits (w lo n : Nat) : Nat := w / 2 ^ lo % 2 ^ n

/-- Bit i of w. -/
def bitB (w i : Nat) : Bool := decide (w / 2 ^ i % 2 = 1)

/-- Sign extension of an n-bit field (R6). -/
def sextN (v n : Nat) : Int := if v < 2 ^ (n - 1) then (v : Int) else (v : Int) - (2 ^ n : Nat)

/-- A flag as a bit. -/
def b2n (b : Bool) : Nat := if b then 1 else 0

/-- The 32-bit word made of four bytes, little-endian (R4). -/
def wordOfBytes (l : List Byte) : Nat := l.foldr (fun b n => b.toNat + 256 * n) 0

/-- The n bytes of a value, little-endian (R4). -/
def bytesOfNat : Nat → Nat → List Byte
  | 0, _ => []
  | n + 1, v => BitVec.ofNat 8 v :: bytesOfNat n (v / 256)

/-! ## Slots as they stand in a bundle -/

/-- Which header a bundle has (R90). -/
inductive Hdr where
  | none | lend | flags
  deriving DecidableEq, Repr

/-- A slot word with what its header supplies (R90, R93-R95). -/
structure Raw where
  hdr : Hdr
  lc : LoopCond
  lend : Nat
  word : Nat
  deriving DecidableEq, Repr

/-- Why a bundle is not legal, with the slot it is judged on; 255 stands for the bundle as a whole (R104, R368). -/
inductive Reject where
  | illegalBundle (slot : Nat)
  | illegalOp (slot : Nat)
  | illegalSlice (slot : Nat)
  deriving DecidableEq, Repr

/-- The class bits K (R83): 0 A, 1 E, 2 C, 3 H. -/
def classOf (w : Nat) : Nat := bits w 29 2

/-- The (X, op) index X * 16 + op of an A slot (R93, R99). -/
def Raw.aIndex (r : Raw) : Nat := r.lend % 4 * 16 + bits r.word 25 4

/-- The lend bits L of an A slot (R93). -/
def Raw.l (r : Raw) : Nat := r.lend / 4

/-- The predicate in the low five bits of L (R93). -/
def Raw.lPred (r : Raw) : Pred := ⟨bitB r.l 4, r.l % 16⟩

def Raw.opP (r : Raw) : OpP :=
  ⟨r.lc, r.lPred, bits r.word 22 3, bits r.word 15 7, bits r.word 8 7, bits r.word 1 7, bitB r.word 0⟩

def Raw.opW (r : Raw) : OpW :=
  ⟨r.lc, if bitB r.l 6 then Pred.always else r.lPred, if bitB r.l 6 then some (r.l % 16) else none,
    bits r.word 22 3, bits r.word 15 7, bits r.word 8 7, bits r.word 1 7, bitB r.word 0⟩

def Raw.opI (r : Raw) : OpI :=
  ⟨r.lc, if bitB r.l 6 then Pred.always else r.lPred, bitB r.l 6,
    if bitB r.l 6 then sextN (r.l % 64 * 128 + bits r.word 1 7) 13 else sextN (bits r.word 1 7) 7,
    bits r.word 22 3, bits r.word 15 7, bits r.word 8 7, bitB r.word 0⟩

def Raw.opK (r : Raw) : OpK :=
  ⟨r.lc, bits r.l 4 3 + 1, r.l % 16, bits r.word 22 3, bits r.word 15 7, bits r.word 8 7, bits r.word 1 7, bitB r.word 0⟩

def Raw.opM (r : Raw) : OpM :=
  ⟨r.lc, sextN (r.l * 16384 + bits r.word 8 7 * 128 + bits r.word 1 7) 21, bits r.word 22 3, bits r.word 15 7⟩

/-- The reserved lend bits of each kind are zero (R93). -/
def Raw.zeroP (r : Raw) : Bool := decide (r.l / 32 = 0)
def Raw.zeroWI (r : Raw) : Bool := if bitB r.l 6 then true else decide (bits r.l 5 1 = 0)
def Raw.zeroW (r : Raw) : Bool := if bitB r.l 6 then decide (bits r.l 4 2 = 0) else decide (bits r.l 5 1 = 0)

/-- An A slot's instruction, if its reserved bits are zero (R99). -/
def Raw.decodeA (r : Raw) : Option Instr :=
  let p (f : OpP → Instr) : Option Instr := if r.zeroP then some (f r.opP) else none
  let w (f : OpW → Instr) : Option Instr := if r.zeroW then some (f r.opW) else none
  let i (f : OpI → Instr) : Option Instr := if r.zeroWI then some (f r.opI) else none
  match r.aIndex with
  | 0 => p .add | 1 => p .sub | 2 => i .addi | 3 => w .mul | 4 => p .logAnd | 5 => p .logOr | 6 => p .logXor | 7 => p .shl
  | 8 => p .shr | 9 => w .mov | 10 => p .sel | 11 => p .cmp | 12 => p .minS | 13 => p .maxS | 14 => i .ld | 15 => i .st
  | 16 => p .mulh | 17 => p .mulhu | 18 => p .adds | 19 => p .subs | 20 => p .addsu | 21 => p .subsu | 22 => p .neg
  | 23 => p .abs | 24 => p .andn | 25 => p .logNot | 26 => p .rol | 27 => p .ror | 28 => w .clz | 29 => w .ctz
  | 30 => w .popc | 31 => p .brev
  | 32 => w .ext | 33 => w .bfx | 34 => p .bfi | 35 => w .pack
  | 36 => if bitB r.word 0 then none else some (.movi r.opM)
  | 37 => p .tst | 38 => p .fadd | 39 => p .fsub | 40 => p .fmul | 41 => p .fma | 42 => p .fmin | 43 => p .fmax
  | 44 => p .fsgn | 45 => p .fcmp | 46 => w .fcvt | 47 => p .frcp
  | 48 => p .frsq | 49 => some (.topk r.opK) | 50 => some (.topkc r.opK) | 51 => i .ldl | 52 => i .stu | 53 => i .spill
  | 54 => i .fill | 55 => p .push | 56 => p .pop | 57 => p .hfld | 58 => p .hfset
  | _ => none

/-- Fields of an E slot (R88). -/
def Raw.eOp (r : Raw) : Nat := bits r.word 23 6
def Raw.eH (r : Raw) : Nat := bits r.word 19 4
def Raw.ePort (r : Raw) : Nat := bits r.word 12 7
def Raw.eS (r : Raw) : Nat := bits r.word 5 7
def Raw.eMod (r : Raw) : Nat := r.word % 32

def Raw.opStr (r : Raw) : OpStr :=
  ⟨r.lc, r.eH, r.lend % 16, r.lend / 16, r.ePort, r.eS, bitB r.eMod 4, bitB r.eMod 3, bits r.eMod 1 2, bitB r.eMod 0⟩

def Raw.opAt (r : Raw) : OpAt :=
  ⟨r.lc, r.eH, r.eS, r.eMod % 4, r.eMod / 4, r.ePort % 8, bits r.ePort 3 2⟩

def Raw.opHS (r : Raw) : OpHS := ⟨r.lc, r.eH, r.eS⟩
def Raw.opS (r : Raw) : OpS := ⟨r.lc, r.eS⟩

/-- An E slot's instruction, if the fields its command does not use are zero (R94, R100, R199). -/
def Raw.decodeE (r : Raw) : Option Instr :=
  let z (c : Bool) (i : Instr) : Option Instr := if c then some i else none
  let lend0 := decide (r.lend = 0)
  let h0 := decide (r.eH = 0)
  let port0 := decide (r.ePort = 0)
  let s0 := decide (r.eS = 0)
  let mod0 := decide (r.eMod = 0)
  let h2z := decide (r.lend % 16 = 0)
  let vcPort := decide (bits r.ePort 5 2 = 2)
  let vc := r.ePort % 32
  let at_ (f : OpAt → Instr) : Option Instr := z (lend0 && decide (bits r.ePort 5 2 = 3)) (f r.opAt)
  match r.eOp with
  | 0x00 => some (.sld r.opStr) | 0x01 => some (.sst r.opStr) | 0x02 => some (.scp r.opStr) | 0x03 => some (.sga r.opStr)
  | 0x04 => some (.ssc r.opStr) | 0x05 => some (.srec r.opStr) | 0x06 => some (.smc r.opStr) | 0x07 => some (.sfil r.opStr)
  | 0x08 => z (h2z && port0 && s0 && decide (r.eMod / 2 = 0)) (.scfg r.lc r.eH (r.lend / 16) (bitB r.eMod 0))
  | 0x09 => z (h2z && h0 && port0 && s0) (.sbar r.lc (r.eMod / 2) (r.lend / 16) (bitB r.eMod 0))
  | 0x0A => z (lend0 && h0 && port0 && s0) (.skil r.lc (bitB r.eMod 4) (r.eMod % 16))
  | 0x0B => z (lend0 && h0 && port0 && decide (r.eMod < 16)) (.ssta r.lc r.eS r.eMod)
  | 0x10 => z (lend0 && h0 && vcPort && decide (r.eMod < 8)) (.sig r.lc vc r.eS r.eMod)
  | 0x11 => z (lend0 && h0 && vcPort && decide (r.eMod < 8)) (.sigm r.lc vc r.eS r.eMod)
  | 0x12 => z (lend0 && h0 && vcPort && s0 && decide (r.eMod < 8)) (.bind r.lc vc r.eMod)
  | 0x13 => z (lend0 && h0 && vcPort && s0 && mod0) (.unbind r.lc vc)
  | 0x14 => z (lend0 && h0 && port0) (.dcset r.lc r.eS r.eMod)
  | 0x15 => z (lend0 && h0 && port0 && s0) (.dcdec r.lc r.eMod)
  | 0x16 => z (lend0 && port0 && mod0) (.draw r.opHS)
  | 0x17 => z (lend0 && port0 && mod0) (.fput r.opHS)
  | 0x18 => z (lend0 && port0 && mod0) (.resv r.opHS)
  | 0x19 => z (lend0 && port0 && mod0) (.publ r.opHS)
  | 0x1A => z (lend0 && port0) (.rtake r.opHS r.eMod)
  | 0x20 => at_ .aadd | 0x21 => at_ .amin | 0x22 => at_ .amax | 0x23 => at_ .aminu | 0x24 => at_ .amaxu | 0x25 => at_ .aand
  | 0x26 => at_ .aor | 0x27 => at_ .axor | 0x28 => at_ .aswp | 0x29 => at_ .acas | 0x2A => at_ .ald | 0x2B => at_ .ast
  | 0x30 => z (lend0 && port0 && mod0) (.mpost r.opHS)
  | 0x31 => z (lend0 && port0 && mod0) (.msend r.opHS)
  | 0x32 => z (lend0 && h0 && port0 && mod0) (.mprobe r.opS)
  | 0x33 => z (lend0 && h0 && port0 && mod0) (.mcancel r.opS)
  | 0x34 => z (lend0 && h0 && port0 && mod0) (.mtest r.opS)
  | 0x38 => z (lend0 && port0 && mod0) (.hld r.opHS)
  | 0x39 => z (lend0 && port0 && mod0) (.hst r.opHS)
  | 0x3A => z (decide (r.lend / 16 = 0) && port0 && s0 && mod0) (.hmov r.lc r.eH (r.lend % 16))
  | 0x3B => z (lend0 && h0 && port0 && mod0) (.rsyn r.opS)
  | 0x3C => z (lend0 && h0 && port0 && decide (r.eMod < 2)) (.tinv r.lc r.eS (bitB r.eMod 0))
  | _ => none

/-- The signed stride of LIND: 7 bits without a header, 16 with LEND, 11 with LOOPFLAGS (R95, R102). -/
def Raw.stride (r : Raw) : Int :=
  match r.hdr with
  | .none => sextN (r.word % 128) 7
  | .lend => sextN (r.lend * 128 + r.word % 128) 16
  | .flags => sextN (r.lend * 128 + r.word % 128) 11

/-- A C slot's instruction, if the bits marked 0 are zero (R95, R102, R103). -/
def Raw.decodeC (r : Raw) : Option Instr :=
  let z (c : Bool) (i : Instr) : Option Instr := if c then some i else none
  let off := r.word % 1048576
  let c : Ctl := ⟨r.lc, ⟨bitB r.word 24, bits r.word 20 4⟩⟩
  let lend0 := decide (r.lend = 0)
  match bits r.word 25 4 with
  | 0 => z (lend0 && decide (off = 0)) (.nop c)
  | 1 => z lend0 (.br c (sextN off 20))
  | 2 => z (decide (r.lend < 128)) (.brl c r.lend (sextN off 20))
  | 3 => z (lend0 && decide (off % 8192 = 0)) (.jmp c (off / 8192))
  | 4 => z lend0 (.loop c (off / 8192) (off % 8192))
  | 5 => some (.loopi c (r.lend * 128 + off / 8192) (off % 8192))
  | 6 => some (.lind c (off / 8192) (bits off 10 3) (bits off 7 3) r.stride)
  | 7 => z (lend0 && decide (off < 8)) (.lbrk c off)
  | 8 => z (lend0 && decide (off = 0)) (.endTask c)
  | 9 => z (lend0 && decide (off = 0)) (.yield c)
  | 10 => z (lend0 && decide (off < 32)) (.waitc c off)
  | 11 => z (lend0 && decide (off % 4 = 0)) (.waitf c (off / 8192) (bits off 6 7) (bits off 2 4))
  | 12 => z (lend0 && decide (off < 32)) (.fence c (off / 8) (off % 8))
  | 13 => z (lend0 && decide (off < 65536)) (.trap c off)
  | 14 => z (lend0 && decide (off < 65536)) (.bkpt c off)
  | _ =>
    let o := off % 65536
    match off / 65536 with
    | 0 => z (lend0 && decide (o < 4)) (.prio c o)
    | 1 => z lend0 (.mfs c (o / 512) (o % 512))
    | 2 => z lend0 (.mts c (o % 512) (o / 512))
    | 3 => z (lend0 && decide (bits o 1 8 = 0)) (.eret c (o / 512) (bitB o 0))
    | 4 => z (lend0 && decide (o % 512 = 0)) (.ipage c (o / 512))
    | 5 => z (lend0 && decide (o % 512 = 0)) (.hold c (o / 512))
    | _ => none

/-- A slot's instruction, its codes not yet judged. -/
def Raw.decode (r : Raw) : Option Instr :=
  match classOf r.word with
  | 0 => r.decodeA
  | 1 => r.decodeE
  | 2 => r.decodeC
  | _ => none

/-! ## Structure of a bundle: ports, results, destinations (R68, R80, R81, R86) -/

/-- Port demand and destination of an A opcode: read ports, write ports, fixed-latency result, destination kind (R80, R99). -/
inductive ADest where
  | none | range | gate | list
  deriving DecidableEq, Repr

/-- Read ports, write ports, whether the result has a fixed latency, and the kind of destination, by (X, op) (R28, R99). -/
def aDemand (i : Nat) : Nat × Nat × Bool × ADest :=
  match i with
  | 2 | 9 | 22 | 23 | 25 | 28 | 29 | 30 | 31 | 32 | 46 | 47 | 48 | 57 => (1, 1, true, .range)
  | 11 | 37 | 45 => (2, 0, true, .gate)
  | 14 | 51 | 54 | 56 => (1, 1, false, .range)
  | 15 | 52 | 53 => (2, 0, false, .none)
  | 34 | 41 => (3, 1, true, .range)
  | 36 => (0, 1, true, .range)
  | 49 => (3, 1, true, .list)
  | 50 => (1, 1, true, .list)
  | 55 | 58 => (1, 0, false, .none)
  | n => if n < 59 then (2, 1, true, .range) else (0, 0, false, .none)

/-- Kind W opcodes, whose destination may have a width code (R99). -/
def aKindW (i : Nat) : Bool := [3, 9, 28, 29, 30, 32, 33, 35, 46].contains i

/-- A destination of a bundle (R68): slices start .. start + n - 1, or one gate. -/
inductive BDest where
  | range (start n : Nat)
  | gate (g : Nat)
  deriving DecidableEq, Repr

/-- Two destinations overlap (R68). -/
def BDest.overlap : BDest → BDest → Bool
  | .range s n, .range t m => decide (s < t + m) && decide (t < s + n)
  | .gate g, .gate k => decide (g = k)
  | .gate g, .range s n => decide (s ≤ g / 4) && decide (g / 4 < s + n)
  | .range s n, .gate g => decide (s ≤ g / 4) && decide (g / 4 < s + n)

/-- Commands whose slice operand is a return's destination, with its width (R199). -/
def eReturn (op : Nat) : Option Nat :=
  match op with
  | 0x0B | 0x16 | 0x18 | 0x1A | 0x3C => some 64
  | 0x34 | 0x3B => some 32
  | _ => if 0x20 ≤ op ∧ op ≤ 0x2A then some 64 else none

/-- Commands without a slice operand (R80). -/
def eNoSlice (op : Nat) : Bool := [0x08, 0x09, 0x0A, 0x12, 0x13, 0x15, 0x3A].contains op

/-- Assigned E opcodes (R100). -/
def eAssigned (op : Nat) : Bool :=
  decide (op ≤ 0x0B) || (decide (0x10 ≤ op) && decide (op ≤ 0x1A)) || (decide (0x20 ≤ op) && decide (op ≤ 0x2B)) ||
  (decide (0x30 ≤ op) && decide (op ≤ 0x34)) || (decide (0x38 ≤ op) && decide (op ≤ 0x3C))

/-- The destinations a slot names, by its opcode alone (R68, R86). -/
def Raw.dests (r : Raw) : List BDest :=
  match classOf r.word with
  | 0 =>
    let d := bits r.word 15 7
    match (aDemand r.aIndex).2.2.2 with
    | .none => []
    | .gate => [.gate (d % 16)]
    | .list => [.range d (r.opK.listBits / 4)]
    | .range => [.range d ((if aKindW r.aIndex then r.opW.wd else wBits (bits r.word 22 3)) / 4)]
  | 1 => match eReturn r.eOp with
    | some w => [.range r.eS (w / 4)]
    | none => []
  | 2 =>
    let off := r.word % 1048576
    match bits r.word 25 4 with
    | 2 => [.range (r.lend % 128) 4]
    | 11 => [.range (bits off 6 7) 16, .gate (bits off 2 4)]
    | 15 => if off / 65536 = 1 then [.range (bits off 9 7) 8] else []
    | _ => []
  | _ => []

/-- Read-port demand (R80). -/
def Raw.reads (r : Raw) : Nat :=
  match classOf r.word with
  | 0 => (aDemand r.aIndex).1
  | 1 => if eAssigned r.eOp && !eNoSlice r.eOp then 1 else 0
  | _ => 0

/-- Issue-write-port demand (R80). -/
def Raw.writes (r : Raw) : Nat := if classOf r.word = 0 then (aDemand r.aIndex).2.1 else 0

/-- Fixed-latency results (R86). -/
def Raw.results (r : Raw) : Nat :=
  match classOf r.word with
  | 0 => b2n (aDemand r.aIndex).2.2.1
  | 2 => if bits r.word 25 4 = 2 then 1 else 0
  | _ => 0

/-- Some two of the listed destinations overlap. -/
def anyOverlap : List BDest → Bool
  | [] => false
  | d :: ds => ds.any d.overlap || anyOverlap ds

/-- The count, port and overlap limits of R81 and R86 hold. -/
def bundleLimits (rs : List Raw) : Bool :=
  decide ((rs.filter fun r => decide (classOf r.word = 2)).length ≤ 1) &&
  decide ((rs.filter fun r => decide (classOf r.word = 1)).length ≤ 2) &&
  decide ((rs.map Raw.writes).sum ≤ 2) && decide ((rs.map Raw.results).sum ≤ 2) && decide ((rs.map Raw.reads).sum ≤ 4) &&
  !anyOverlap (rs.flatMap Raw.dests)

/-- The nine-bit group of word position i after the header (R90). -/
def hdrGroup (h i : Nat) : Nat := bits h (18 - 9 * i) 9

/-- The slot at position i after a header. -/
def rawOf (h : Nat) (i w : Nat) : Raw :=
  let g := hdrGroup h i
  if bits h 27 2 = 0 then ⟨.lend, LoopCond.none, g, w⟩
  else ⟨.flags, ⟨bitB g 8, bitB g 7, bits g 4 3⟩, g % 16, w⟩

/-- Slots of a bundle, numbered, from its words without the header. -/
def rawsFrom (h : Nat) : Nat → List Nat → List Raw
  | _, [] => []
  | i, w :: ws => rawOf h i w :: rawsFrom h (i + 1) ws

/-- The first slot that is not a legal instruction (R104), or the instructions. ILLEGAL_OP is judged on every slot first. -/
def judge (len : Nat) : Nat → List Raw → Except Reject (List Instr)
  | _, [] => .ok []
  | n, r :: rs =>
    match r.decode with
    | none => .error (.illegalOp n)
    | some i =>
      if i.formOk &&
          (match i with
           | .loop _ _ fin | .loopi _ _ fin => decide (len ≤ fin)
           | _ => true) then
        match judge len (n + 1) rs with
        | .ok is => .ok (i :: is)
        | .error e => .error e
      else .error (.illegalOp n)

/-- The earliest slot with a slice range past s127. -/
def judgeSlices : Nat → List Instr → Option Nat
  | _, [] => none
  | n, i :: is => if i.slicesOk then judgeSlices (n + 1) is else some n

/-- Header groups of absent words are zero (R91). A group's violation is the header's, so the record names the bundle as a whole
(notes/assumptions/32.md). -/
def groupsOk (h : Nat) (n : Nat) : Bool :=
  (decide (1 ≤ n) || decide (hdrGroup h 0 = 0)) && (decide (2 ≤ n) || decide (hdrGroup h 1 = 0)) &&
  (decide (3 ≤ n) || decide (hdrGroup h 2 = 0))

/-- Decode the words of one bundle: at most four, the last with S = 1 unless no stop was found (R84-R104). -/
def decodeBundle (ws : List Nat) : Except Reject (List Instr) :=
  match ws with
  | [] => .error (.illegalBundle 255)
  | w :: rest =>
    if !bitB (ws.getLastD 0) 31 then .error (.illegalBundle 255)
    else if rest.any (fun v => decide (classOf v = 3)) then .error (.illegalBundle 255)
    else if classOf w = 3 then
      if bitB w 31 || decide (2 ≤ bits w 27 2) then .error (.illegalBundle 255)
      else
        let rs := rawsFrom w 0 rest
        if !bundleLimits rs then .error (.illegalBundle 255)
        else if !groupsOk w rest.length || rs.any (fun r => !r.lc.ok) then .error (.illegalOp 255)
        else match judge ws.length 0 rs with
          | .error e => .error e
          | .ok is => match judgeSlices 0 is with
            | some n => .error (.illegalSlice n)
            | none => .ok is
    else
      let rs := ws.map fun v => (⟨.none, LoopCond.none, 0, v⟩ : Raw)
      if !bundleLimits rs then .error (.illegalBundle 255)
      else match judge ws.length 0 rs with
        | .error e => .error e
        | .ok is => match judgeSlices 0 is with
          | some n => .error (.illegalSlice n)
          | none => .ok is

/-- Words of a bundle from a list of words: up to the first with S = 1, four at most (R84). -/
def takeBundle : Nat → List Nat → List Nat
  | 0, _ => []
  | _, [] => []
  | n + 1, w :: ws => if bitB w 31 then [w] else w :: takeBundle n ws

/-- The words that bytes hold, four bytes each, little-endian. -/
def wordsOfBytes : List Byte → List Nat
  | a :: b :: c :: d :: l => wordOfBytes [a, b, c, d] :: wordsOfBytes l
  | _ => []

/-- Decode the bundle at the head of a byte list: its instructions and the bytes after it. -/
def decodeBytes (l : List Byte) : Except Reject (List Instr × List Byte) :=
  let ws := takeBundle 4 (wordsOfBytes l)
  match decodeBundle ws with
  | .ok is => .ok (is, l.drop (4 * ws.length))
  | .error e => .error e

/-- A one-slot word that has no effect and ends a bundle: HMOV h0, h0 with S = 1 (R237). -/
def stopWord : Nat := 0xBD000000

/-- The instruction the decoder reads from an opcode-table word: a bundle of that word, and, where its stop bit is clear, of the
stop word after it. The word has no header, so an A-class row is read with X = 0 (R90, R93). -/
def decodeTableWord (nbits w : Nat) : Option Instr :=
  let w0 := w % 2 ^ nbits % 2 ^ 32
  match decodeBundle (if bitB w0 31 then [w0] else [w0, stopWord]) with
  | .ok (i :: _) => some i
  | _ => none

/-! ## The encoder (R87-R103) -/

/-- An A-slot word without its stop bit. -/
def aWord (op w d a b : Nat) (x : Bool) : Nat := op * 2 ^ 25 + w * 2 ^ 22 + d * 2 ^ 15 + a * 2 ^ 8 + b * 2 + b2n x

/-- An E-slot word without its stop bit. -/
def eWord (op h port s m : Nat) : Nat := 2 ^ 29 + op * 2 ^ 23 + h * 2 ^ 19 + port * 2 ^ 12 + s * 2 ^ 5 + m

/-- A C-slot word without its stop bit. -/
def cWord (op : Nat) (c : Ctl) (off : Nat) : Nat := 2 ^ 30 + op * 2 ^ 25 + b2n c.p.neg * 2 ^ 24 + c.p.gate * 2 ^ 20 + off

/-- Lend value and word of a P-kind slot at (X, op). -/
def encP (x op : Nat) (o : OpP) : LoopCond × Nat × Nat := (o.lc, predBits o.p * 4 + x, aWord op o.w o.d o.a o.b o.x)
def encW (x op : Nat) (o : OpW) : LoopCond × Nat × Nat := (o.lc, o.lbits * 4 + x, aWord op o.w o.d o.a o.b o.x)
def encI (x op : Nat) (o : OpI) : LoopCond × Nat × Nat := (o.lc, o.lbits * 4 + x, aWord op o.w o.d o.a (o.bitsImm % 128) o.x)
def encK (x op : Nat) (o : OpK) : LoopCond × Nat × Nat := (o.lc, ((o.k - 1) * 16 + o.t) * 4 + x, aWord op o.w o.d o.a o.b o.x)
def encStr (op : Nat) (o : OpStr) : LoopCond × Nat × Nat :=
  (o.lc, o.nt * 16 + o.h2, eWord op o.h o.port o.s (b2n o.ls * 16 + b2n o.pk * 8 + o.cls * 2 + b2n o.nk))
def encAt (op : Nat) (o : OpAt) : LoopCond × Nat × Nat :=
  (o.lc, 0, eWord op o.h (96 + o.ford * 8 + o.scope) o.s (o.ord * 4 + o.size))
def encHS (op : Nat) (o : OpHS) (m : Nat) : LoopCond × Nat × Nat := (o.lc, 0, eWord op o.h 0 o.s m)
def encS (op : Nat) (o : OpS) : LoopCond × Nat × Nat := (o.lc, 0, eWord op 0 0 o.s 0)

/-- The loop condition, lend value and word (stop bit clear) of a slot operation; none for an event. -/
def encodeSlot : Instr → Option (LoopCond × Nat × Nat)
  | .add o => some (encP 0 0 o) | .sub o => some (encP 0 1 o) | .addi o => some (encI 0 2 o) | .mul o => some (encW 0 3 o)
  | .logAnd o => some (encP 0 4 o) | .logOr o => some (encP 0 5 o) | .logXor o => some (encP 0 6 o)
  | .shl o => some (encP 0 7 o) | .shr o => some (encP 0 8 o) | .mov o => some (encW 0 9 o) | .sel o => some (encP 0 10 o)
  | .cmp o => some (encP 0 11 o) | .minS o => some (encP 0 12 o) | .maxS o => some (encP 0 13 o)
  | .ld o => some (encI 0 14 o) | .st o => some (encI 0 15 o)
  | .mulh o => some (encP 1 0 o) | .mulhu o => some (encP 1 1 o) | .adds o => some (encP 1 2 o) | .subs o => some (encP 1 3 o)
  | .addsu o => some (encP 1 4 o) | .subsu o => some (encP 1 5 o) | .neg o => some (encP 1 6 o) | .abs o => some (encP 1 7 o)
  | .andn o => some (encP 1 8 o) | .logNot o => some (encP 1 9 o) | .rol o => some (encP 1 10 o) | .ror o => some (encP 1 11 o)
  | .clz o => some (encW 1 12 o) | .ctz o => some (encW 1 13 o) | .popc o => some (encW 1 14 o) | .brev o => some (encP 1 15 o)
  | .ext o => some (encW 2 0 o) | .bfx o => some (encW 2 1 o) | .bfi o => some (encP 2 2 o) | .pack o => some (encW 2 3 o)
  | .movi o =>
    let v := (o.imm % 2097152).toNat
    some (o.lc, v / 16384 * 4 + 2, aWord 4 o.w o.d (v / 128 % 128) (v % 128) false)
  | .tst o => some (encP 2 5 o) | .fadd o => some (encP 2 6 o) | .fsub o => some (encP 2 7 o) | .fmul o => some (encP 2 8 o)
  | .fma o => some (encP 2 9 o) | .fmin o => some (encP 2 10 o) | .fmax o => some (encP 2 11 o) | .fsgn o => some (encP 2 12 o)
  | .fcmp o => some (encP 2 13 o) | .fcvt o => some (encW 2 14 o) | .frcp o => some (encP 2 15 o)
  | .frsq o => some (encP 3 0 o) | .topk o => some (encK 3 1 o) | .topkc o => some (encK 3 2 o) | .ldl o => some (encI 3 3 o)
  | .stu o => some (encI 3 4 o) | .spill o => some (encI 3 5 o) | .fill o => some (encI 3 6 o) | .push o => some (encP 3 7 o)
  | .pop o => some (encP 3 8 o) | .hfld o => some (encP 3 9 o) | .hfset o => some (encP 3 10 o)
  | .sld o => some (encStr 0x00 o) | .sst o => some (encStr 0x01 o) | .scp o => some (encStr 0x02 o)
  | .sga o => some (encStr 0x03 o) | .ssc o => some (encStr 0x04 o) | .srec o => some (encStr 0x05 o)
  | .smc o => some (encStr 0x06 o) | .sfil o => some (encStr 0x07 o)
  | .scfg lc h nt nk => some (lc, nt * 16, eWord 0x08 h 0 0 (b2n nk))
  | .sbar lc mask nt nk => some (lc, nt * 16, eWord 0x09 0 0 0 (mask * 2 + b2n nk))
  | .skil lc all e => some (lc, 0, eWord 0x0A 0 0 0 (b2n all * 16 + e))
  | .ssta lc s e => some (lc, 0, eWord 0x0B 0 0 s e)
  | .sig lc vc s scope => some (lc, 0, eWord 0x10 0 (64 + vc) s scope)
  | .sigm lc vc s scope => some (lc, 0, eWord 0x11 0 (64 + vc) s scope)
  | .bind lc vc ctx => some (lc, 0, eWord 0x12 0 (64 + vc) 0 ctx)
  | .unbind lc vc => some (lc, 0, eWord 0x13 0 (64 + vc) 0 0)
  | .dcset lc s dc => some (lc, 0, eWord 0x14 0 0 s dc)
  | .dcdec lc dc => some (lc, 0, eWord 0x15 0 0 0 dc)
  | .draw o => some (encHS 0x16 o 0) | .fput o => some (encHS 0x17 o 0) | .resv o => some (encHS 0x18 o 0)
  | .publ o => some (encHS 0x19 o 0) | .rtake o m => some (encHS 0x1A o m)
  | .aadd o => some (encAt 0x20 o) | .amin o => some (encAt 0x21 o) | .amax o => some (encAt 0x22 o)
  | .aminu o => some (encAt 0x23 o) | .amaxu o => some (encAt 0x24 o) | .aand o => some (encAt 0x25 o)
  | .aor o => some (encAt 0x26 o) | .axor o => some (encAt 0x27 o) | .aswp o => some (encAt 0x28 o)
  | .acas o => some (encAt 0x29 o) | .ald o => some (encAt 0x2A o) | .ast o => some (encAt 0x2B o)
  | .mpost o => some (encHS 0x30 o 0) | .msend o => some (encHS 0x31 o 0) | .mprobe o => some (encS 0x32 o)
  | .mcancel o => some (encS 0x33 o) | .mtest o => some (encS 0x34 o) | .hld o => some (encHS 0x38 o 0)
  | .hst o => some (encHS 0x39 o 0) | .hmov lc h h2 => some (lc, h2, eWord 0x3A h 0 0 0)
  | .rsyn o => some (encS 0x3B o) | .tinv lc s all => some (lc, 0, eWord 0x3C 0 0 s (b2n all))
  | .nop c => some (c.lc, 0, cWord 0 c 0)
  | .br c off => some (c.lc, 0, cWord 1 c (off % 1048576).toNat)
  | .brl c link off => some (c.lc, link, cWord 2 c (off % 1048576).toNat)
  | .jmp c t => some (c.lc, 0, cWord 3 c (t * 8192))
  | .loop c cnt fin => some (c.lc, 0, cWord 4 c (cnt * 8192 + fin))
  | .loopi c count fin => some (c.lc, count / 128, cWord 5 c (count % 128 * 8192 + fin))
  | .lind c i lvl w stride =>
    some (c.lc, (stride % (if c.lc.flagged then 2048 else 65536)).toNat / 128,
      cWord 6 c (i * 8192 + lvl * 1024 + w * 128 + (stride % 128).toNat))
  | .lbrk c lvl => some (c.lc, 0, cWord 7 c lvl)
  | .endTask c => some (c.lc, 0, cWord 8 c 0)
  | .yield c => some (c.lc, 0, cWord 9 c 0)
  | .waitc c dc => some (c.lc, 0, cWord 10 c dc)
  | .waitf c a v g => some (c.lc, 0, cWord 11 c (a * 8192 + v * 64 + g * 4))
  | .fence c kind scope => some (c.lc, 0, cWord 12 c (kind * 8 + scope))
  | .trap c code => some (c.lc, 0, cWord 13 c code)
  | .bkpt c code => some (c.lc, 0, cWord 14 c code)
  | .prio c p => some (c.lc, 0, cWord 15 c p)
  | .mfs c d r => some (c.lc, 0, cWord 15 c (65536 + d * 512 + r))
  | .mts c r s => some (c.lc, 0, cWord 15 c (2 * 65536 + s * 512 + r))
  | .eret c t skip => some (c.lc, 0, cWord 15 c (3 * 65536 + t * 512 + b2n skip))
  | .ipage c p => some (c.lc, 0, cWord 15 c (4 * 65536 + p * 512))
  | .hold c t => some (c.lc, 0, cWord 15 c (5 * 65536 + t * 512))
  | _ => none

/-- The group of a LOOPFLAGS header (R90). -/
def flagGroup (lc : LoopCond) (lend : Nat) : Nat := b2n lc.first * 256 + b2n lc.last * 128 + lc.lvl * 16 + lend

/-- A LEND header word with its first group (R90). -/
def lendHeader (g : Nat) : Nat := 3 * 2 ^ 29 + g * 2 ^ 18

/-- A LOOPFLAGS header word with its first group (R90). -/
def flagsHeader (g : Nat) : Nat := 3 * 2 ^ 29 + 2 ^ 27 + g * 2 ^ 18

/-- LIND needs a header exactly when its stride does not fit seven signed bits (R95, R102). -/
def Instr.longStride : Instr → Bool
  | .lind _ _ _ _ stride => !(decide (-64 ≤ stride) && decide (stride ≤ 63))
  | _ => false

/-- The lend value is needed: nonzero, but for LIND, whose short stride needs none. -/
def Instr.needsLend (i : Instr) (lend : Nat) : Bool :=
  match i with
  | .lind _ _ _ _ _ => i.longStride
  | _ => decide (lend ≠ 0)

/-- The words of a one-slot bundle holding the instruction: a header where one is needed, then the slot with S = 1 (R110). -/
def encode (i : Instr) : List Nat :=
  match encodeSlot i with
  | none => []
  | some (lc, lend, w) =>
    if lc.flagged then [flagsHeader (flagGroup lc lend), 2 ^ 31 + w]
    else if i.needsLend lend then [lendHeader lend, 2 ^ 31 + w]
    else [2 ^ 31 + w]

/-- A bundle of the instruction alone is legal: WAITF's gate lies outside its value (R68), and a loop's end lies beyond its bundle
(R102). -/
def Instr.standsAlone (i : Instr) : Bool :=
  match i with
  | .waitf _ _ v g => !(decide (v ≤ g / 4) && decide (g / 4 < v + 16))
  | .loop _ _ fin | .loopi _ _ fin => decide ((encode i).length ≤ fin)
  | _ => true

end Sys2Proof
end

