-- ==== Sys2Proof/Config.lean ====
section
/-! DEFINITION. What one part or one deployment fixes and the spec does not give, as opaque constants: nothing can be proved of
their values. Each is named in the assumption log. -/

namespace Sys2Proof

/-- What a fabric packet's body carries. The spec names the contents (R154, R172, R189, R393, R402) and gives no layout for
them; `Config.packetBody` is that layout. -/
inductive PacketBody where
  /-- A remote request: PSN, source task, control word, DVA, data words. -/
  | request (psn task ctl addr : Nat) (data : List Nat)
  /-- A stream's access of up to 64 bytes at a DVA: the bytes it writes, or a line read. -/
  | stream (psn cmd addr : Nat) (wr : Option (List (Nat × Byte)))
  /-- The response to the request or stream access with this PSN: status, old value, line read. -/
  | response (psn status : Nat) (old : Option Nat) (line : List Byte)
  /-- A message header, or one part of an eager payload from byte off on. -/
  | message (psn src dtile ctx tag seq len kind cmd off : Nat) (chunk : List Byte)
  /-- A pull's request for the bytes of a sender's queue entry, for an entry of the receiving engine. -/
  | pull (psn cmd entry off len : Nat)
  /-- Bytes of a pull; `ok` false when the source's protection fault ended it. -/
  | pullData (psn entry off : Nat) (ok : Bool) (chunk : List Byte)
  /-- The receiver has read, discarded or ended a request-to-send (R234). -/
  | pullDone (psn cmd : Nat)
  /-- Every packet up to the PSN has been accepted. -/
  | ack (psn : Nat)
  deriving DecidableEq, Repr, Inhabited

/-- The body that packet bytes of a TYPE stand for (body layout not given: R393, R401). -/
opaque Config.packetBody : Nat → List Byte → Option PacketBody

/-- The bytes that carry a body (body layout not given: R393, R401). -/
opaque Config.packetBytes : PacketBody → List Byte

/-- The 64 bytes of a message header that spills to HBM (R181 gives their number and no layout): source word, tag, SEQ. -/
opaque Config.headerImage : Nat → Nat → Nat → Nat

/-- The 64-byte SHA-512 digest of the firmware public key fused at manufacture (R383). -/
opaque Config.keyDigest : List Byte

/-- The module's identity private key, which never leaves the attestation block (R386, R387). -/
opaque Config.identitySecret : Nat

/-- Flits that an intermediate would grant to a source for a destination in a rotor cycle, before R399's bound (the device chooses):
cycle, source, destination. -/
opaque Config.grantWish : Nat → Nat → Nat → Nat

/-- Flits that a source would relay of those it is granted, where it need not (the device chooses, R399): cycle, intermediate,
destination. -/
opaque Config.relayWish : Nat → Nat → Nat → Nat

/-- The number drawn for the signature of the n-th report (R387). -/
opaque Config.signNonce : Nat → Nat

/-- The fused rollback counter's value as the part left the factory (R382, R383). -/
opaque Config.rollback : Nat

/-- A sampled latency in module cycles that the spec leaves to the hardware (R430): the n-th sample drawn. -/
opaque Config.sample : Nat → Nat

/-- The HBM stack, modulo 12, whose controller serves a physical address (R430 counts by stack; no map is given). -/
opaque Config.stack : Nat → Nat

/-- Which entry a full translation cache drops (R362 does not say): the n-th choice drawn. -/
opaque Config.victim : Nat → Nat

/-- The cause-specific word of an ACCESS_PROT record that no address caused (R368 gives none): the n-th record. -/
opaque Config.freeInfo : Nat → Nat

/-- Junction temperature in degrees of the hottest junction in a cycle (R382). -/
opaque Config.junction : Nat → Nat

end Sys2Proof
end

