-- ==== Sys2Proof/Machine/Sparse.lean ====
section
/-! DEFINITION. Sparse maps from Nat keys, in one canonical form: keys strictly rising and no entry equal to the default.
Memory is one (Host.Cell entries); the tables of tasks, tiles, cells, commands, locks and fields are others. -/

namespace Sys2Proof.Machine

/-- A map from keys to values, as the list of its entries that differ from a default. -/
abbrev Sparse (α : Type) := List (Nat × α)

/-- The value at a key, or the default where the key is not listed. -/
def Sparse.get {α : Type} (d : α) : Sparse α → Nat → α
  | [], _ => d
  | (k, v) :: m, i => if k = i then v else if i < k then d else Sparse.get d m i

/-- Put a value at a key, keeping the canonical form: the default is never listed. -/
def Sparse.set {α : Type} [DecidableEq α] (d : α) : Sparse α → Nat → α → Sparse α
  | [], i, v => if v = d then [] else [(i, v)]
  | (k, w) :: m, i, v =>
    if k = i then (if v = d then m else (i, v) :: m)
    else if i < k then (if v = d then (k, w) :: m else (i, v) :: (k, w) :: m)
    else (k, w) :: Sparse.set d m i v

/-- The canonical form from a lower bound: every key is at least lo, keys rise strictly, no entry is the default. -/
def Sparse.wfFrom {α : Type} [DecidableEq α] (d : α) : Nat → Sparse α → Bool
  | _, [] => true
  | lo, (k, v) :: m => decide (lo ≤ k) && !decide (v = d) && Sparse.wfFrom d (k + 1) m

/-- The canonical form. -/
def Sparse.wf {α : Type} [DecidableEq α] (d : α) (m : Sparse α) : Bool := Sparse.wfFrom d 0 m

/-- Change the value at a key by a function. -/
def Sparse.modify {α : Type} [DecidableEq α] (d : α) (m : Sparse α) (i : Nat) (f : α → α) : Sparse α :=
  m.set d i (f (m.get d i))

/-- Change every listed value by a function of its key, and drop those that became the default. -/
def Sparse.mapAll {α : Type} [DecidableEq α] (d : α) (f : Nat → α → α) : Sparse α → Sparse α
  | [] => []
  | (k, v) :: m => if f k v = d then Sparse.mapAll d f m else (k, f k v) :: Sparse.mapAll d f m

/-- Memory: bytes by their place in the module's storage (State.lean says which place is which). -/
abbrev Memory := List Host.Cell

end Sys2Proof.Machine
end

