-- ==== Sys2Proof/Machine/State.lean ====
section
/-! DEFINITION. The state of one QVS-4800 module, as plain data, and its value at power-on. Keys: die 0-3; core = die * 256 +
tile, tile 0-143, or 255 for the die's management core; task = core * 8 + context; command = task * 16 + entry;
cell = core * 256 + y * 16 + x; lock = core * 1024 + bank * 64 + bit; field = die * 256 + field number. -/

namespace Sys2Proof.Machine

/-! ## Names -/

/-- The cause codes of R49. -/
inductive Cause where
  | none | illegalBundle | illegalSlice | illegalOp | ifetchMiss | accessBound | accessProt | priv | queueFull | lockHeld
  | handleBad | streamFault | portOrder | bankConflict | errToken | twinMismatch | configReject | rmtUnknown | rmtUnreach
  | trap | bkpt | watch
  deriving DecidableEq, Repr

/-- Task states (R20). -/
inductive TState where
  | free | parked | runnable | held | faulted
  deriving DecidableEq, Repr

/-- Parking kinds (R20, R374). -/
inductive ParkKind where
  | none | endK | waitc | waitf
  deriving DecidableEq, Repr

/-- Field states (R12). -/
inductive FState where
  | unloaded | loading | live | frozen
  deriving DecidableEq, Repr

/-- States of a queue entry (R203). -/
inductive QState where
  | never | waiting | running | paused | done | killed | faulted
  deriving DecidableEq, Repr

/-- Fabric states (R412, R413). -/
inductive FabState where
  | down | locking | ready | isOpen | draining | drained | dark
  deriving DecidableEq, Repr

/-- The storages whose bytes the one memory holds. -/
inductive Space where
  /-- HBM by physical address (R359). -/
  | hbm
  /-- Host memory by host bus address (R360, TGT 1). -/
  | host
  /-- A die's granary by offset from local address 0x1000_0000 (R147). -/
  | granary (die : Nat)
  /-- A tile's bin by own local address (R77); the argument is the core. -/
  | bin (core : Nat)
  /-- A core's instruction store (R105). -/
  | istore (core : Nat)
  /-- The package flash: slot 0 is A, slot 1 is B (R383). -/
  | flash (slot : Nat)
  deriving DecidableEq, Repr

/-! ## Tasks -/

/-- Where a fixed-latency result goes (R67). -/
inductive Dst where
  /-- Slices start .. start + n - 1. -/
  | range (start n : Nat)
  /-- One gate bit. -/
  | gate (g : Nat)
  /-- A TOPK or TOPKC list, slices start .. start + n - 1. -/
  | list (start n : Nat)
  deriving DecidableEq, Repr

/-- A fixed-latency result in flight: it lands after the task has issued rc more bundles (R27, R74). -/
structure Flight where
  rc : Nat
  dst : Dst
  val : BitVec 512
  deriving DecidableEq, Repr

/-- A variable-latency return outstanding in the landing buffer (R71-R73): its destination, and its value once performed. -/
structure Ret where
  id : Nat
  /-- Destination slices, start and number; none for a handle load. -/
  rng : Option (Nat × Nat)
  gate : Option Nat
  hdl : Option Nat
  /-- The value, once the access has performed. -/
  val : Option Handle
  /-- The gate bit returned. -/
  gval : Bool
  /-- A WAITF under R40: only the gate bit is written. -/
  gateOnly : Bool
  deriving DecidableEq, Repr

/-- What one access of a task port does, with the values read at issue (R288). -/
inductive AccKind where
  | ld (n : Nat) | ldl (n : Nat) | st (n : Nat) (v : Nat) | stu (n : Nat) (v : Nat)
  | spill (nib n v : Nat) | fill (nib n : Nat) | hld | hst (v : Handle)
  | waitf (g : Nat) | fput (v : Nat) | draw | resv | publ (t : Nat) | rtake (max : Nat)
  /-- An atomic operation; `ord` is its order code (R229): 0 .rlx, 1 .acq, 2 .rel, 3 .ar, 4 .sc; `ford` is ACAS's failure order: 0 .rlx,
  1 .acq; `sc` is the wheel cycle at which a .sc one issued, its place in the order S (R47, R304). -/
  | atomic (op size : Nat) (x xe : Nat) (ord ford sc : Nat)
  /-- DCDEC of a counter: a release of the accesses before it (R224). -/
  | dec (dc : Nat)
  /-- No access: later ones wait until every request numbered below `upto` has ended (R166, R305). Its kind, of a fence 0 full, 1 acquire or
  2 release, or 3 for a request of ORD .acq or .ar, and its scope. -/
  | hold (upto kind scope : Nat)
  /-- No access: request n of the task may leave fq once those before have performed that it comes after: all, for one of ORD .rel or .ar
  (`rel`), else acquires and release fences (R166, R295, R298, R305). -/
  | mark (n : Nat) (rel : Bool)
  deriving DecidableEq, Repr

/-- One access of a task port, at a local address of its core. -/
structure Access where
  kind : AccKind
  addr : Nat
  ret : Option Nat
  /-- The single-copy-atomic pieces that have performed apart from the others: offset, and for a load the value read (R148, R235). -/
  did : List (Nat × Nat) := []
  deriving DecidableEq, Repr

/-- An induction binding (R163). -/
structure Bind where
  start : Nat
  wcode : Nat
  stride : BitVec 16
  deriving DecidableEq, Repr

/-- One loop level (R159). Level n is active exactly when its remaining count is not 0. -/
structure Level where
  bs : Nat := 0
  be : Nat := 0
  remaining : Nat := 0
  iter : Nat := 0
  ind : Option Bind := none
  deriving DecidableEq, Repr

/-- A remote request sent from fq, until its response words have entered fr (R155). -/
structure Req where
  /-- Number of the request in its task. -/
  num : Nat
  tag : Nat
  op : Nat
  ord : Nat
  target : Nat
  /-- Request words: control, address, data. -/
  words : List Word64
  /-- PSN of the packet that carries it, when it went to a peer. -/
  psn : Option Nat
  /-- Held at a migrating page of the own module (R365). -/
  heldPage : Bool
  /-- The response, once known: status and old value. -/
  resp : Option (Nat × Option Nat)
  deriving DecidableEq, Repr

/-- An RSYN waiting for its requests (R238): those numbered below `upto`; how many it counts, how many of them were not DONE. -/
structure Rsyn where
  upto : Nat
  total : Nat
  bad : Nat
  ret : Nat
  deriving DecidableEq, Repr

/-- A wait-well entry (R39, R374): the future's address, value slices and gate. -/
structure Well where
  addr : Nat
  start : Nat
  gate : Nat
  ret : Nat
  deriving DecidableEq, Repr

/-- One task context (R8, R16, R61, R159, R374). -/
structure Task where
  st : TState := .free
  /-- The state remembered while HELD. -/
  rem : TState := .free
  kind : ParkKind := .none
  prio : Nat := 0
  /-- Bound virtual channel (R17). -/
  vc : Option Nat := none
  /-- Next-bundle or resume address. -/
  pc : Nat := 0
  entry : Nat := 0
  /-- A taken branch's fetch cycle is due (R23). -/
  fetch : Bool := false
  /-- The fetch buffer: addresses of the lines of 64 bytes it holds, at most two (R106). Their bytes are those of the store. -/
  lines : List Nat := []
  sf : SliceFile := 1#512
  /-- Handle registers h0-h15. -/
  hs : Sparse Handle := []
  pend : BitVec 128 := 0
  hpend : BitVec 16 := 0
  voutdst : Word32 := 0
  latch : Bool := false
  /-- An ERET with skip has passed the BKPT it was stopped by: that slot does not act, once (R167). -/
  skip : Bool := false
  /-- While HELD: it was a BKPT that stopped the task (R167). -/
  atBkpt : Bool := false
  /-- Counter of a WAITC park. -/
  waitDc : Nat := 0
  well : Option Well := none
  /-- Queue commands since the context was declared, q (R202). -/
  q : Nat := 0
  flight : List Flight := []
  /-- Replay buffer, entry n as its 96 bits (R75). -/
  replay : Sparse (BitVec 96) := []
  shadow : BitVec 512 := 0
  levels : Sparse Level := []
  /-- The next bundle is the end bundle of a loop of count 0: none of its slots acts (R160). -/
  noAct : Bool := false
  tcycle : Nat := 0
  cycleh : Word32 := 0
  fq : List Word64 := []
  fr : List Word64 := []
  reqs : List Req := []
  /-- First request of the open RSYN count, how many of that count ended not DONE, and the RSYNs waiting (R238). -/
  rsynFrom : Nat := 65536
  rsynBad : Nat := 0
  rsyns : List Rsyn := []
  rets : List Ret := []
  nextRet : Nat := 0
  /-- Accesses issued and not yet performed, oldest first (R150, R305). -/
  port : List Access := []
  /-- The schedule holds the port: its accesses perform when a turn names them (the model's own field; R292). -/
  lag : Bool := false
  /-- MTSs to device registers that wait for the task's earlier accesses: register and value (R358). -/
  mts : List (Nat × Nat) := []
  /-- TINVs that have not returned: the return, the packets sent under the old translation that it waits for, by module and PSN, and the
  commands whose beat under way it waits for (R239). -/
  tinvs : List (Nat × List (Nat × Nat) × List Nat) := []
  /-- The head of port waits for this lock bit. -/
  waitLock : Option Nat := none
  /-- Complete requests pushed to fq, counted from 65,536 up so that a saved RSYN count never exceeds it (R374). -/
  reqNo : Nat := 65536
  /-- Numbers of requests that ended in fq, as their module became unreachable or left the group (R405, R416). -/
  gone : List Nat := []
  /-- Asynchronous task faults due at the next boundary: cause and cause-specific word, va (R54). -/
  asyncs : List (Cause × Nat × Nat) := []
  qstall : Word32 := 0
  qdone : Word32 := 0
  deriving DecidableEq, Repr

/-- The bundle being issued, while its slots execute one by one (the model's own field): everything a slot reads as it stood
before the bundle (R69, R156, R201), and what the slots decide about the next bundle. -/
structure Issue where
  task : Nat := 0
  /-- The bundle is issuing: its slots execute, or its end is due. -/
  active : Bool := false
  /-- Address of the bundle's first word, and of the bundle after it in address order. -/
  addr : Nat := 0
  next : Nat := 0
  /-- First word of the bundle, for its fault record (R368). -/
  word : Nat := 0
  slot : Nat := 0
  sf : SliceFile := 1#512
  hs : Sparse Handle := []
  levels : Sparse Level := []
  /-- Every slot is treated as not acting: the end bundle of a loop of count 0 (R160). -/
  noAct : Bool := false
  /-- The BKPT slot does not act, once (R167). -/
  skip : Bool := false
  /-- Target of a taken branch of this bundle. -/
  taken : Option Nat := none
  /-- The bundle executed END: no level is left to act on (R164). -/
  ended : Bool := false
  /-- The bundle executed a LOOP or LOOPI of count 0: the bundle at this address issues next with no slot acting. -/
  zeroLoop : Option Nat := none
  /-- Requests pushed before the bundle (R238), VOUTDST (R168) and the binding as they stood before it. -/
  reqNo : Nat := 0
  voutdst : Word32 := 0
  vc : Option Nat := none
  deriving DecidableEq, Repr

/-! ## Tiles -/

/-- A dependence counter (R34). -/
structure Counter where
  val : BitVec 16 := 0
  bound : Option Nat := none
  uf : Bool := false
  deriving DecidableEq, Repr

/-- A cached leaf translation: page base, log2 of the page size, leaf entry (R360, R362). -/
structure Leaf where
  base : Nat
  lg : Nat
  entry : Nat
  deriving DecidableEq, Repr

/-- One link word (R242) with the version of its writer (R285) and the cycle it reached its FIFO (R259). -/
structure LinkWord where
  data : Word128 := 0
  mark : Nat := 0
  err : Bool := false
  valid : Bool := false
  ver : Nat := 0
  time : Nat := 0
  deriving DecidableEq, Repr

/-- What a supervisor task asks of a core (R169, R170): ERET or HOLD of a context, or IPAGE's copy of 4 KiB into a page. -/
inductive SupOp where
  | eret (ctx : Nat) (skip : Bool)
  | hold (ctx : Nat)
  | copy (page src : Nat)
  deriving DecidableEq, Repr

/-- A tile's control core, channels, counters, and what its pump and edge hold. Also a management core, without array or bin. -/
structure Tile where
  /-- Field that holds the tile, by number on its die. -/
  fld : Option Nat := none
  /-- Version the tile runs (R303). -/
  ver : Nat := 0
  /-- The wave in progress has prepared this tile (R355). -/
  declared : Bool := false
  vcs : Sparse (List Word64) := []
  counters : Sparse Counter := []
  pages : BitVec 16 := 0
  pickfloor : Word32 := 0
  /-- Context last issued at each priority (R24). -/
  last : Sparse Nat := []
  corecycle : Nat := 0
  /-- Edge outputs toward the pump: eo0-eo15 at 0-15, so0-so15 at 16-31 (R243). -/
  outq : Sparse (List LinkWord) := []
  tlb : List Leaf := []
  /-- SC wheel positions of the core (R47). -/
  wheel : List Nat := []
  /-- The cycle of the field's clock, plus 1, of the last lockstep beats and the banks that they read; the same for beats and bin operations
  that took a bank after waiting 15 cycles (R216, R388). -/
  lockAt : Nat × List Nat := (0, [])
  takenAt : Nat × List Nat := (0, [])
  /-- IPAGE copies in progress and, behind them, what their issuers asked of this core since: issuing task and operation (R170). -/
  sup : List (Nat × SupOp) := []
  tbeats : Word32 := 0
  txmiss : Word32 := 0
  tgapn : Word32 := 0
  tgapx : Word32 := 0
  /-- In twelfths of a cycle of the field's clock. -/
  tlockw : Nat := 0
  deriving DecidableEq, Repr

/-- A lock bit (R150): its holder (task, or cell when byCell), LIVE cycles held, in twelfths, of the clock of the holder's field (R388), and
requesters waiting in arrival order. -/
structure Lock where
  held : Bool := false
  byCell : Bool := false
  holder : Nat := 0
  cycles : Nat := 0
  /-- Waiting requesters: byCell, and the task, or cell and bin-port operation number. -/
  waiters : List (Bool × Nat × Nat) := []
  deriving DecidableEq, Repr

/-- An access that waits for a walk (R362): address of the byte, whether it writes, and the element it is of: its number in the
walk and its address. -/
structure WalkReq where
  dva : Nat
  wr : Bool
  elem : Nat
  va : Nat
  deriving DecidableEq, Repr

/-- A packet of a command that a peer has not answered (R401, R405): its module and PSN, the line address of a read, and the element it
is of: its number in the walk and its address. -/
structure Owed where
  peer : Nat
  psn : Nat
  line : Option Nat := none
  elem : Nat := 0
  va : Nat := 0
  /-- The device virtual address of the line written. -/
  dva : Nat := 0
  deriving DecidableEq, Repr

/-- A write to a peer that found its page not present there: it is sent again when the command resumes, its line translated anew (R53, R370). -/
structure Redo where
  peer : Nat
  addr : Nat
  bytes : List (Nat × Byte)
  elem : Nat
  va : Nat
  dva : Nat
  deriving DecidableEq, Repr

/-- One entry of a task's pump command queue (R202, R203, R374). -/
structure Cmd where
  st : QState := .never
  op : Nat := 0
  fault : Nat := 0
  count : Nat := 0
  /-- The stop bit of the E slot word (R374). -/
  stop : Bool := false
  /-- The E slot's operands as issued. -/
  o : OpStr := ⟨LoopCond.none, 0, 0, 0, 0, 0, false, false, 0, false⟩
  sop : Word64 := 0
  /-- Units delivered so far: link words, or elements, or payload bytes. -/
  pos : Nat := 0
  h : Handle := 0
  h2 : Handle := 0
  hs : Handle := 0
  h2s : Handle := 0
  /-- Number q of the command in its task (R202) and version it was issued under (R303). -/
  seq : Nat := 0
  ver : Nat := 0
  /-- Task-port accesses that come before the command's own accesses and have not performed (R295, R299): all up to the last acquire,
  release or fence before the command. -/
  behind : Nat := 0
  /-- SCFG and MSEND: all earlier accesses of the task port that have not performed, which the command releases (R303, R306). -/
  rel : Nat := 0
  /-- Translation held (R218), and the access that waits for a walk. -/
  xl : Option Leaf := none
  /-- Translations under which lines of peer memory have been asked for the next beat, which uses them whatever a TINV has named since; whether
  one has (R239). -/
  under : List Leaf := []
  stale : Bool := false
  walk : Option WalkReq := none
  /-- SKIL has come; the command ends KILLED once its packets have ended (R204). -/
  kill : Bool := false
  /-- Packets to peers without a response, and writes to be sent again. -/
  owed : List Owed := []
  redo : List Redo := []
  /-- 64-byte lines of peer memory read for the next beat: module, line address, bytes. -/
  lines : List (Nat × Nat × List Byte) := []
  /-- MSEND: sequence number assigned and KIND, once sent; the address of its send descriptor is in sop. -/
  mseq : Nat := 0
  mkind : Nat := 0
  sent : Bool := false
  /-- MSEND: the send descriptor as read at the start, and payload bytes read and not yet sent or landed. -/
  mdesc : List Byte := []
  buf : List Byte := []
  /-- A pull from another module that this MSEND serves: module, posting entry there, bytes wanted (R189, R234). -/
  pull : Option (Nat × Nat × Nat) := none
  /-- The whole payload has been read, or the message has been read, discarded or ended by its receiver (R234). -/
  mdone : Bool := false
  /-- The SCFG's wave has entered the field (R204), and the outcome of its load. -/
  entered : Bool := false
  /-- Cycle at which the command started running (R430). -/
  start : Nat := 0
  /-- Consecutive cycles of the field's clock, the last of them waitAt, in which its next beat has waited for a bank that lockstep beats read
  (R216, R388). -/
  wait : Nat := 0
  waitAt : Nat := 0
  /-- Cycle of the field's clock, plus 1, of its last lockstep beat: a set makes one beat of each member in a cycle (R216). -/
  beatAt : Nat := 0
  deriving DecidableEq, Repr

/-! ## Cells -/

/-- An accumulator (R240). -/
structure Acc where
  val : Word32 := 0
  poison : Bool := false
  deriving DecidableEq, Repr

/-- What a cell result does when it lands (R256). -/
inductive Landing where
  /-- A word for a result port, by source code. -/
  | port (code : Nat) (w : LinkWord)
  /-- A new accumulator value; sat sets SAT, clr clears it; zero clears the poison bit, which otherwise stays once set. -/
  | acc (k : Nat) (a : Acc) (sat clr zero : Bool)
  deriving DecidableEq, Repr

/-- A cell result in flight: it lands just before the cell's firing after rem more firings. -/
structure CellFlight where
  rem : Nat
  what : Landing
  deriving DecidableEq, Repr

/-- A bin-port operation, in trigger order (R274, R275). -/
structure BinOp where
  num : Nat
  op : Nat
  addr : Nat
  trig : LinkWord
  data : LinkWord
  arc : Bool
  /-- A non-acting trigger: only a hole. -/
  hole : Bool
  /-- Waits for its lock bit. -/
  waiting : Bool
  /-- Waits for the comparison with its twin (R279). -/
  twin : Bool
  /-- Performed; the result, where the operation has one, waits in bp.r. -/
  done : Bool
  res : LinkWord
  /-- Consecutive cycles of the field's clock, the last of them waitAt, in which it has waited for a bank that lockstep beats read (R216). -/
  wait : Nat
  waitAt : Nat
  deriving DecidableEq, Repr

/-- A sink of a twin group waiting for its counterpart (R279): link output code and word, or a bin operation. -/
inductive TwinSink where
  | link (out : Nat) (w : LinkWord)
  | bin (op addr : Nat) (data : Word128) (num : Nat)
  deriving DecidableEq, Repr

/-- A firing-gap record still in its cell (R259, R260). -/
structure Gap where
  merged : Nat
  excess : Nat
  kind : Nat
  port : Nat
  since : Nat
  deriving DecidableEq, Repr

/-- One cell (R240). Program words 0-15 are the moves, 16-19 are SW0-SW3. -/
structure Cell where
  prog : Sparse Word128 := []
  troughs : Sparse LinkWord := []
  /-- Operand latches by destination code. -/
  latches : Sparse LinkWord := []
  /-- Result ports by source code. -/
  ports : Sparse LinkWord := []
  accs : Sparse Acc := []
  sat : Bool := false
  scale : Word64 := 0x3F803F803F803F80
  scaleMark : Nat := 0
  scaleErr : Bool := false
  step : Nat := 0
  /-- Firings since the step was entered; rota pointer; firing count. -/
  fired : Nat := 0
  rota : Nat := 0
  count : Nat := 0
  stopped : Bool := false
  /-- Link input FIFOs, index = input code - 1. -/
  inp : Sparse (List LinkWord) := []
  /-- Words written to link outputs and still on the way, index = output code - 1. -/
  wires : Sparse (List LinkWord) := []
  bin : List BinOp := []
  nextBin : Nat := 0
  flight : List CellFlight := []
  /-- Twin sinks of this cell waiting for the comparison, oldest first. -/
  sinks : List TwinSink := []
  ver : Nat := 0
  /-- The cell has loaded under the wave in progress (R285). -/
  loaded : Bool := false
  /-- Bits [41:40] of the SW0 that it had before that: they route the words it still has on the way from then (R248, R285). -/
  was : Nat := 0
  lastFire : Option Nat := none
  /-- Cycles of its field's clock at its last firing, all of them and those while LIVE (R254, R259). -/
  lastOwn : Nat := 0
  lastLive : Nat := 0
  /-- Cycle at which each link output last gained room; at 8 the bin port did, at 9 the twin comparator admitted (R259). -/
  roomAt : Sparse Nat := []
  gap : Option Gap := none
  deriving DecidableEq, Repr

/-! ## Fields, launches and configuration -/

/-- A word on its way to a virtual channel (R18, R153, R221): sending task, or none for a device; destination core and channel.
`vout` marks a word that still occupies the sender's vout. -/
structure MeshWord where
  src : Option Nat
  core : Nat
  vc : Nat
  word : Word64
  vout : Bool
  /-- Accesses of the sender's port that the word releases and that have not performed: it arrives after them (R153, R221, R295). -/
  behind : Nat := 0
  /-- The scope of the release, coded as FENCE's (R290). -/
  scope : Nat := 4
  deriving DecidableEq, Repr

/-- Who started a wave: a launch (by identifier) or an SCFG command. -/
inductive WaveBy where
  | launch (id : Nat)
  | scfg (cmd : Nat)
  deriving DecidableEq, Repr

/-- A configuration wave in progress (R283): the image as the configuration reader read it. -/
structure Wave where
  bytes : List Byte
  by_ : WaveBy
  cold : Bool
  measured : Bool
  deriving DecidableEq, Repr

/-- A field (R10-R12, R353, R374-R378, R382). -/
structure Field where
  st : FState := .unloaded
  x0 : Nat := 0
  y0 : Nat := 0
  w : Nat := 0
  h : Nat := 0
  ver : Nat := 0
  image : Nat := 0
  imageG : Bool := false
  /-- Image address of the field's cold load (R374). -/
  coldImage : Nat := 0
  coldG : Bool := false
  gwbase : Nat := 0
  gwsize : Nat := 0
  strict : Bool := true
  wave : Option Wave := none
  /-- An SCFG or launch wave waiting behind the stop flag (R378). -/
  held : Option Wave := none
  heldImage : Nat × Bool := (0, false)
  /-- Ended by a protection fault (R53). -/
  ended : Bool := false
  /-- The cause code of the field fault that froze it, if one did. -/
  cause : Option Nat := none
  evicted : Bool := false
  armed : Bool := false
  /-- A PREEMPT or EVICT stops the pickers and waits for what is outstanding (R373). -/
  stopping : Bool := false
  /-- Frozen as a debug stop, with the wave in held due at RESUME. -/
  dstop : Bool := false
  /-- A fault is to freeze the field once its tasks' outstanding returns are written (R73): its cause, and whether it ends the field. -/
  closing : Option (Cause × Bool) := none
  /-- Cycle at which the dump timer last started; none while stopped (R377). -/
  dump : Option Nat := none
  /-- Cycle at which it last froze: cycles since do not count in firing gaps (R259). -/
  frozenAt : Nat := 0
  /-- Cycles of the field's own clock, in twelfths: since its cold load, and those while LIVE (R259, R388). -/
  own : Nat := 0
  live : Nat := 0
  wwlim : Nat := 4096
  disc : Word32 := 0
  /-- Clock step and ceiling (R382, R389). -/
  step : Nat := 0
  ceil : Nat := 0
  /-- While evicted: the vout words of its tasks, with the destinations that travel with them (R153). -/
  kept : List MeshWord := []
  /-- While evicted: the words of its tiles' edge-output FIFOs, by core * 32 + output code; the save image has no place for them. -/
  keptOut : Sparse (List LinkWord) := []
  /-- Dirty granules (R375): granary by granule number, bins by tile * 192 + granule. -/
  dirtyG : Sparse Bool := []
  dirtyB : Sparse Bool := []
  deriving DecidableEq, Repr

/-- States of a launch (R347). -/
inductive LState where
  /-- Taken and not yet started as its row says. -/
  | started
  /-- Waits for a field in LOADING to become LIVE (R346). -/
  | waiting
  /-- A reconfiguration that waits until its field is LIVE and no other wave is held there (R346). -/
  | reconfig
  | loading | seeding | running
  deriving DecidableEq, Repr

/-- A launch record taken by the intake and not yet complete. -/
structure Launch where
  id : Nat
  queue : Nat
  /-- The 128 bytes of the record. -/
  rcd : List Byte
  st : LState
  fld : Option Nat
  nextSeed : Nat
  taken : Nat
  /-- Completion area base and LOC, and vector, as the descriptor had them. -/
  cbase : Nat
  loc : Bool
  vec : Nat
  deriving DecidableEq, Repr

/-- An intake slot (R335, R339, R342). -/
structure Slot where
  mapped : Bool := false
  queue : Nat := 0
  tail : Nat := 0
  /-- Priority raised by aging, and cycle since which the slot has been eligible. -/
  raised : Nat := 0
  since : Nat := 0
  deriving DecidableEq, Repr

/-- The intake (R336-R345). -/
structure Intake where
  slots : Sparse Slot := []
  lastSlot : Sparse Nat := []
  /-- Identifier, plus 1, of the record last taken from each queue (R345). -/
  lastTaken : Sparse Nat := []
  launches : List Launch := []
  nextId : Nat := 0
  qdtbase : Nat := 0
  apbase : Word64 := 0
  aperr : Word64 := 0
  badnotify : Word64 := 0
  linkUp : Bool := true
  /-- MSI-X table and pending-bit array of BAR0, by 64-bit word offset (R334). -/
  msix : Sparse Word64 := []
  deriving DecidableEq, Repr

/-! ## Receive engine -/

/-- A message at the receive engine (R172), with its payload bytes when eager, and its reserved place (R179, R181, R182). -/
structure Msg where
  src : Nat
  dtile : Nat
  ctx : Nat
  tag : Nat
  seq : Nat
  len : Nat
  rts : Bool
  payload : List Byte
  /-- The sender's queue entry: local command key, or the key at the sending module. -/
  cmd : Nat
  /-- Sending module, when the message came over the fabric. -/
  peer : Option Nat
  /-- Header place: on chip (true) or in the HBM part. -/
  onChip : Bool
  /-- Units of 64 bytes of the cistern's HBM part reserved for it: a spilled header's first, then the payload's (R181, R182). -/
  units : List Nat := []
  /-- The message has taken its place: its header stands there where it is spilled, and payload goes there as it arrives (R179). -/
  kept : Bool := false
  /-- Payload bytes that stand in the HBM part; `payload` has those that follow. -/
  stored : Nat := 0
  /-- Cycle in which it became eligible (R184). -/
  cycle : Nat := 0
  deriving DecidableEq, Repr

/-- What a match operation of a task asks (R184). -/
inductive RxOp where
  | post (descr : Nat) (h : Handle)
  | probe (descr : Nat)
  | cancel (rid : Nat)
  | test (rid ret : Nat)
  deriving DecidableEq, Repr

/-- A match operation of a task, waiting for the matching unit: accesses of the task's port that come before it, and the
operation (R184, R193). -/
structure RxReq where
  task : Nat
  behind : Nat
  op : RxOp
  deriving DecidableEq, Repr

/-- Contents of a post descriptor (R175). -/
structure Pattern where
  src : Nat
  srcmask : Nat
  tag : Nat
  tagmask : Nat
  ctx : Nat
  tkind : Nat
  targ : Nat
  stat : Nat
  eoff : Nat
  deriving DecidableEq, Repr

/-- A posting-list entry (R174). -/
structure Entry where
  busy : Bool := false
  /-- DELIVERING rather than POSTED. -/
  delivering : Bool := false
  gen : Nat := 0
  task : Nat := 0
  /-- Field of the posting tile; none for a management core. -/
  fld : Option Nat := none
  /-- Order of posting. -/
  order : Nat := 0
  pat : Pattern := ⟨0, 0, 0, 0, 0, 0, 0, 0, 0⟩
  h : Handle := 0
  msg : Option Msg := none
  /-- Elements landed, and whether a not-present page pauses the landing, or its end is due with this status. -/
  got : Nat := 0
  paused : Bool := false
  fin : Option Nat := none
  deriving DecidableEq, Repr

/-- The receive engine (R171-R197). -/
structure Rx where
  entries : Sparse Entry := []
  nextOrder : Nat := 0
  ops : List RxReq := []
  /-- Messages on their way to the engine. -/
  arrivals : List Msg := []
  eligible : List Msg := []
  hold : List Msg := []
  cistern : List Msg := []
  /-- Cycle and rank of the last match operation (R184). -/
  lastMatch : Option (Nat × Nat) := none
  /-- Sources with a message under refusal, and the refused SEQ (R182). -/
  refusing : List (Nat × Nat) := []
  /-- Sending tiles' message counts: key = module ID * 1024 + tile (R178). -/
  sendSeq : Sparse Nat := []
  deriving DecidableEq, Repr

/-! ## Dies, package, health -/

/-- A fault record waiting to be written (R367, R368). -/
structure FRec where
  kind : Nat
  cause : Cause
  die : Nat
  field : Nat
  ver : Nat
  tile : Nat
  ctx : Nat
  addr : Nat
  group : Nat
  cell : Nat
  info : Nat
  va : Nat
  count : Nat
  time : Nat
  deriving DecidableEq, Repr

/-- A die's management, fault-ring, trace and attestation state (R358-R387). -/
structure Die where
  /-- Plain 32-bit management registers by number (DUMPLIM alone resets to other than 0): FRBASE, FRCTL, FRHEAD, FCTL as last taken, FSAVEL, FSAVEH, DUMPLIM, DWSEL, WADDRL, WADDRH, WCTL,
  TRBASEL, TRBASEH, TRCTL, TRHEAD, WWSEL (R358). -/
  regs : Sparse Word32 := [(0x114, 30000)]
  frtail : Word32 := 0
  frlost : Word32 := 0
  recs : List FRec := []
  fstat : Word32 := 0
  migrell : Word32 := 0
  trtail : Word32 := 0
  trlost : Word32 := 0
  stepField : Nat := 0
  /-- Attestation: BUSY, RESULT, buffer address, reports made. -/
  attBusy : Bool := false
  attResult : Nat := 0
  attAddr : Nat := 0
  /-- Measurement M (64 bytes) and count N (R386). -/
  meas : List Byte := List.replicate 64 0
  measN : Word32 := 0
  ready : Bool := false
  /-- A fault of one of its tasks has halted the management core (R367). -/
  halted : Bool := false
  /-- Non-leaf entries that the die's walker caches: physical address and entry (R362, R363). -/
  walker : Sparse Nat := []
  /-- Commands whose accesses wait for a walk, in arrival order (R362). -/
  misses : List Nat := []
  deriving DecidableEq, Repr

/-- The package management block (R382-R389) and the module-wide registers. -/
structure Pkg where
  /-- FWSTATE: 0 booting, 1 ready, 2 halted (R336). -/
  fwstate : Nat := 0
  /-- The dies are out of reset (R383). -/
  started : Bool := false
  svn : Nat := 0
  /-- The wheel cycle at which a .sc bundle of the module last issued (R47). -/
  scLast : Option Nat := none
  /-- PKGSTAT.TJ (R382). -/
  tj : Nat := 0
  /-- The rollback counter once a COMMIT has raised it above its fused value. -/
  rollbk : Nat := 0
  slot : Nat := 0
  /-- SHA-512 of the booted firmware image (R387). -/
  fwHash : List Byte := []
  pwrcap : Nat := 3200
  /-- The host aperture's translation cache (R363). -/
  aptlb : List Leaf := []
  /-- Die whose turn it is to drop a step under the power cap (R389). -/
  dropDie : Nat := 0
  reports : Nat := 0
  ptrootl : Word32 := 0
  ptrooth : Word32 := 0
  rxrgnl : Word32 := 0
  rxrgnh : Word32 := 0
  rxctl : Word32 := 0
  mrefuse : Word32 := 0
  mmatch : Word32 := 0
  mresend : Word32 := 0
  mfref : Word32 := 0
  deriving DecidableEq, Repr

/-- One monitor (R429). -/
structure Monitor where
  min : Nat := 0xFFFFFFFF
  max : Nat := 0
  buckets : Sparse Nat := []
  deriving DecidableEq, Repr

/-- The monitors: live, snapshot bank, time of the last SNAP (R430-R432). -/
structure Health where
  /-- The live monitors before the current cycle, and the samples of the current cycle: monitor and value (R432). -/
  live : Sparse Monitor := []
  recent : List (Nat × Nat) := []
  snap : Sparse Monitor := []
  snapTime : Nat := 0
  samples : Nat := 0
  deriving DecidableEq, Repr

/-! ## Fabric -/

/-- One fibre pair (R390, R407, R412). -/
structure Fibre where
  /-- Live transmit wavelengths, in eights (0-8), and receive wavelengths as last announced. -/
  txl : Nat := 8
  rxl : Nat := 0
  txdead : Bool := false
  rxdead : Bool := false
  authfail : Nat := 0
  /-- Flit counter under the current key. -/
  ctr : Nat := 0
  /-- Degrades due at the next rotor-cycle boundary (R417). -/
  shed : Nat := 0
  /-- Since LOCK, a control flit has been sent on the fibre, and one has been received (R397). -/
  told : Bool := false
  heard : Bool := false
  /-- Last counter accepted, with its key epoch and sender. -/
  lastCtr : List (Nat × Nat × Nat) := []
  deriving DecidableEq, Repr

/-- A packet queued for, or sent to, a destination (R402, R403). -/
structure Packet where
  psn : Nat
  typ : Nat
  body : PacketBody
  /-- Sends so far, rotor cycles since the last send, whether it was refused, and whether it is to be sent. -/
  sends : Nat
  age : Nat
  refused : Bool
  due : Bool
  /-- The translation under which a stream or a landing sent it (R239). -/
  leaf : Option Leaf := none
  deriving DecidableEq, Repr

/-- Per-peer transaction state (R401-R404, R415, R419). -/
structure Peer where
  nextPsn : Nat := 0
  /-- Packets queued and unacknowledged, oldest first. -/
  out : List Packet := []
  /-- Responses and acknowledgements to send (types without a PSN order). -/
  ctl : List (Nat × PacketBody) := []
  /-- Receive window: next PSN expected, stored packets ahead, and recorded responses. -/
  expect : Nat := 0
  stored : List (Nat × Nat × PacketBody) := []
  answers : List (Nat × Option PacketBody) := []
  /-- PSNs refused for a reason of their own and not yet accepted (R404). -/
  refusing : List Nat := []
  /-- Refusals and held notices to send in control flits: TYPE and PSN. -/
  notices : List (Nat × Nat) := []
  /-- Flits relayed for this member, in arrival order: their places of 256 bytes in the relay region (R399). -/
  relay : List Nat := []
  /-- Grants from this member as intermediate, and grants given to it: fibre * 16 + slot, the rotor cycle they are for, destination,
  flits (R399). -/
  granted : List (Nat × Nat × Nat × Nat) := []
  given : List (Nat × Nat × Nat × Nat) := []
  /-- MARKER sent and received (R415). -/
  marked : Bool := false
  marker : Bool := false
  /-- Rotor cycles since a control flit was accepted (R419). -/
  silent : Nat := 0
  unreachable : Bool := false
  deriving DecidableEq, Repr

/-- A request held at a migrating page (R365): page address, sending module (none: a task of this module), and the request. -/
structure HeldReq where
  page : Nat
  peer : Option Nat
  body : PacketBody
  deriving DecidableEq, Repr

/-- A request that came from a member and has been sent on to a third module (R360): where it came from and its PSN there, and where it
went and its PSN to there. -/
structure Forward where
  src : Nat
  psn : Nat
  to_ : Nat
  toPsn : Nat
  deriving DecidableEq, Repr

/-- A key epoch with its group secret and activation cycle (R409). -/
structure Key where
  epoch : Nat
  secret : List Byte
  act : Nat
  deriving DecidableEq, Repr

/-- The optical rotor fabric (R390-R420). -/
structure Fabric where
  st : FabState := .down
  modid : Nat := 0xFFFF
  group : Nat := 0
  port : Nat := 0
  epoch : Nat := 0
  applied : Bool := false
  err : Bool := false
  /-- ports and sched of the applied table (R395). -/
  ports : List Nat := []
  sched : List Nat := []
  gtaddr : Nat := 0
  keyaddr : Nat := 0
  region : Nat := 0
  cycle : Nat := 0
  /-- While LOCKING: the largest rotor cycle number received (R397). -/
  lockCycle : Option Nat := none
  cur : Option Key := none
  nxt : Option Key := none
  prev : Option Key := none
  keywarn : Bool := false
  fibres : Sparse Fibre := []
  peers : Sparse Peer := []
  heldq : List HeldReq := []
  fwd : List Forward := []
  /-- Rotor cycle at which DRAINING began. -/
  drainFrom : Nat := 0
  deriving DecidableEq, Repr

/-! ## The module -/

/-- What one step of the module does next, when the schedule names it (the model's own type). -/
inductive Turn where
  /-- A core takes one cycle: its picker issues a bundle if one is issuable. -/
  | core (c : Nat)
  /-- An event of the opcode table happens. -/
  | run (i : Instr)
  /-- n module cycles pass. -/
  | tick (n : Nat)
  /-- The copy that a task's IPAGE began at core c ends (R108, R170). -/
  | copied (c t : Nat)
  /-- A task's port begins to wait for the schedule, or no longer does (R292). -/
  | lag (t : Nat) (b : Bool)
  /-- Access i of a task's port performs, where nothing orders it after an earlier one (R292, R293). -/
  | perform (t i : Nat)
  /-- Piece j of access i of a task's port performs alone (R148, R235). -/
  | piece (t i j : Nat)
  deriving DecidableEq, Repr

/-- What the module sends to the outside (the model's own log of outputs). -/
inductive Output where
  | msix (vec : Nat)
  | flit (fibre slot : Nat) (bytes : List Byte)
  | hostRead (off : Nat) (bytes : List Byte)
  deriving DecidableEq, Repr

/-- The module. -/
structure State where
  mem : Memory := []
  tasks : Sparse Task := []
  tiles : Sparse Tile := []
  cells : Sparse Cell := []
  cmds : Sparse Cmd := []
  locks : Sparse Lock := []
  fields : Sparse Field := []
  dies : Sparse Die := []
  mesh : List MeshWord := []
  rx : Rx := {}
  intake : Intake := {}
  fab : Fabric := {}
  pkg : Pkg := {}
  health : Health := {}
  /-- Module cycles at 2.4 GHz since power-on. -/
  cycle : Nat := 0
  /-- The order of events still to come, oldest first: the schedule the spec leaves open. Empty: the core `here` steps. -/
  agenda : List Turn := []
  here : Nat := 255
  issue : Issue := {}
  /-- How many free values have been drawn. -/
  fresh : Nat := 0
  out : List Output := []
  deriving DecidableEq, Repr

/-- Why the machine stops. No path of this model stops on ordinary data: each fault below is a schedule naming no agent. -/
inductive Fault where
  /-- Raised by `step` for an agenda turn naming a core that the module does not have; safe: no such core exists (R16, R385). -/
  | noSuchCore
  deriving DecidableEq, Repr

/-- Why an instruction has no meaning here. -/
inductive Refusal where
  /-- Raised by `exec` for a row that has no meaning in the model; safe: nothing is claimed of it. -/
  | notModelled (mnemonic : String)
  deriving DecidableEq, Repr

/-- The module at power-on: the dies are held in reset and FWSTATE is 0 until POWER_ON (R383). Fields without a stated reset are
the zeros of the structures' defaults (notes/assumptions/2.md). -/
def State.reset : State := {}

end Sys2Proof.Machine
end

