-- ==== Sys2Proof/Machine/Ops.lean ====
section
/-! DEFINITION. The shared operations over the module's state: tables, storage, slices, landings and the replay buffer, returns,
regions, page walks, watchpoints and traces, fault records, taking an exception and resuming from one, wakes and counters. -/

namespace Sys2Proof.Machine

/-! ## Tables -/

def State.task (s : State) (t : Nat) : Task := Sparse.get {} s.tasks t
def State.tile (s : State) (c : Nat) : Tile := Sparse.get {} s.tiles c
def State.cell (s : State) (c : Nat) : Cell := Sparse.get {} s.cells c
def State.cmd (s : State) (c : Nat) : Cmd := Sparse.get {} s.cmds c
def State.lockBit (s : State) (l : Nat) : Lock := Sparse.get {} s.locks l
def State.field (s : State) (f : Nat) : Field := Sparse.get {} s.fields f
def State.die (s : State) (d : Nat) : Die := Sparse.get {} s.dies d

def State.modTask (s : State) (t : Nat) (f : Task → Task) : State := { s with tasks := Sparse.modify {} s.tasks t f }
def State.modTile (s : State) (c : Nat) (f : Tile → Tile) : State := { s with tiles := Sparse.modify {} s.tiles c f }
def State.modCell (s : State) (c : Nat) (f : Cell → Cell) : State := { s with cells := Sparse.modify {} s.cells c f }
def State.modCmd (s : State) (c : Nat) (f : Cmd → Cmd) : State := { s with cmds := Sparse.modify {} s.cmds c f }
def State.modLock (s : State) (l : Nat) (f : Lock → Lock) : State := { s with locks := Sparse.modify {} s.locks l f }
def State.modField (s : State) (k : Nat) (f : Field → Field) : State := { s with fields := Sparse.modify {} s.fields k f }
def State.modDie (s : State) (d : Nat) (f : Die → Die) : State := { s with dies := Sparse.modify {} s.dies d f }

/-- Core and context of a task, die and tile of a core (State.lean). -/
def coreOf (t : Nat) : Nat := t / 8
def ctxOf (t : Nat) : Nat := t % 8
def dieOf (c : Nat) : Nat := c / 256
def tileOf (c : Nat) : Nat := c % 256
def taskAt (c x : Nat) : Nat := c * 8 + x
def cmdAt (t e : Nat) : Nat := t * 16 + e

/-- The core is a die's management core (R385). -/
def isMgmt (c : Nat) : Bool := decide (c % 256 = 255)

/-- The module has the core (R16, R385). -/
def coreExists (c : Nat) : Bool := decide (c / 256 < 4) && (decide (c % 256 < 144) || decide (c % 256 = 255))

/-- Module tile number (R171): die * 144 + tile, or 576 + die. -/
def moduleTile (c : Nat) : Nat := if isMgmt c then 576 + dieOf c else dieOf c * 144 + tileOf c

/-- The core of a module tile number. -/
def coreOfModuleTile (n : Nat) : Nat := if n < 576 then n / 144 * 256 + n % 144 else (n - 576) * 256 + 255

/-- The field that holds a core, by key. -/
def State.fieldOf (s : State) (c : Nat) : Option Nat := (s.tile c).fld.map fun f => dieOf c * 256 + f

/-- Field number that a core's records show: 0xFF for a management core (R168). -/
def State.fieldNum (s : State) (c : Nat) : Nat := ((s.tile c).fld).getD 255

/-- Version a core runs; 0 for a management core (R168). -/
def State.verOf (s : State) (c : Nat) : Nat := if isMgmt c then 0 else (s.tile c).ver

/-- The cores of a field, row by row. -/
def State.fieldCores (s : State) (k : Nat) : List Nat :=
  let f := s.field k
  (List.range f.h).flatMap fun y => (List.range f.w).map fun x => k / 256 * 256 + (f.y0 + y) * 12 + f.x0 + x

/-! ## Storage -/

/-- The place of a byte of a storage in the one memory. -/
def place : Space → Nat → Nat
  | .hbm, a => a
  | .host, a => 2 ^ 64 + a
  | .granary d, o => 2 ^ 50 + d * 2 ^ 32 + o
  | .bin c, o => 2 ^ 52 + c * 2 ^ 20 + o
  | .istore c, o => 2 ^ 54 + c * 2 ^ 16 + o
  | .flash n, o => 2 ^ 56 + n * 2 ^ 32 + o

/-- One byte; an unlisted byte reads zero. -/
def Memory.byte (m : Memory) (p : Nat) : Byte := Sparse.get 0 m p

/-- Put one byte. -/
def Memory.put (m : Memory) (p : Nat) (b : Byte) : Memory := Sparse.set 0 m p b

/-- The canonical form of memory: places strictly rising, no listed byte zero. -/
def Memory.wf (m : Memory) : Bool := Sparse.wf (0 : Byte) m

/-- n bytes from a place up. -/
def Memory.bytes (m : Memory) : Nat → Nat → List Byte
  | _, 0 => []
  | p, n + 1 => m.byte p :: m.bytes (p + 1) n

/-- n bytes as one little-endian value (R4). -/
def Memory.le (m : Memory) : Nat → Nat → Nat
  | _, 0 => 0
  | p, n + 1 => (m.byte p).toNat + 256 * m.le (p + 1) n

/-- Put bytes from a place up. -/
def Memory.putAll (m : Memory) : Nat → List Byte → Memory
  | _, [] => m
  | p, b :: l => (m.put p b).putAll (p + 1) l

/-- Put the n low bytes of a value, little-endian. -/
def Memory.putLE (m : Memory) (p n v : Nat) : Memory := m.putAll p (bytesOfNat n v)

/-- n bytes of a storage. -/
def State.read (s : State) (sp : Space) (o n : Nat) : List Byte := s.mem.bytes (place sp o) n

/-- An n-byte value of a storage. -/
def State.readLE (s : State) (sp : Space) (o n : Nat) : Nat := s.mem.le (place sp o) n

/-- Granules, 4 KiB each, that n bytes from o up touch (R375). -/
def granules (o n : Nat) : List Nat := if n = 0 then [] else (List.range ((o + n - 1) / 4096 - o / 4096 + 1)).map (· + o / 4096)

/-- Mark granules dirty (R375): a bin's in the field that holds its tile, the granary's in the fields whose windows hold them. -/
def State.markDirty (s : State) (sp : Space) (o n : Nat) : State :=
  match sp with
  | .bin c =>
    match s.fieldOf c with
    | none => s
    | some k => s.modField k fun f =>
        { f with dirtyB := (granules o n).foldl (fun m g => Sparse.set false m (tileOf c * 192 + g) true) f.dirtyB }
  | .granary d =>
    { s with fields := Sparse.mapAll {} (fun k f =>
        if k / 256 = d then
          { f with dirtyG := ((granules o n).filter fun g => decide (f.gwbase ≤ 0x10000000 + g * 4096 ∧
              0x10000000 + g * 4096 < f.gwbase + f.gwsize)).foldl (fun m g => Sparse.set false m g true) f.dirtyG }
        else f) s.fields }
  | _ => s

/-- Write bytes to a storage from a port: the dirty bits are set (R375). -/
def State.write (s : State) (sp : Space) (o : Nat) (l : List Byte) : State :=
  { s with mem := s.mem.putAll (place sp o) l }.markDirty sp o l.length

/-- Write the n low bytes of a value. -/
def State.writeLE (s : State) (sp : Space) (o n v : Nat) : State := s.write sp o (bytesOfNat n v)

/-- Write bytes that set no dirty bit (R375, R381). -/
def State.writeQuiet (s : State) (sp : Space) (o : Nat) (l : List Byte) : State :=
  { s with mem := s.mem.putAll (place sp o) l }

/-! ## The slice file (R59, R60) -/

/-- The w-bit operand starting at slice a. -/
def sfRead (sf : SliceFile) (a w : Nat) : Nat := (sf >>> (4 * a)).toNat % 2 ^ w

/-- n slices from slice a up take a value; bit 0 stays 1 (R60). -/
def sfWrite (sf : SliceFile) (a n v : Nat) : SliceFile :=
  (sf &&& ~~~(BitVec.ofNat 512 (2 ^ (4 * n) - 1) <<< (4 * a))) ||| (BitVec.ofNat 512 (v % 2 ^ (4 * n)) <<< (4 * a)) ||| 1#512

/-- Gate g as a bit. -/
def gateRead (sf : SliceFile) (g : Nat) : Bool := sf.getLsbD g

/-- One gate takes a bit; g0 stays 1 (R60). -/
def gateWrite (sf : SliceFile) (g : Nat) (b : Bool) : SliceFile :=
  (sf &&& ~~~(1#512 <<< g)) ||| ((if b then 1#512 else 0#512) <<< g) ||| 1#512

/-- Write a result to its destination. -/
def Dst.write (d : Dst) (sf : SliceFile) (v : BitVec 512) : SliceFile :=
  match d with
  | .range a n => sfWrite sf a n v.toNat
  | .list a n => sfWrite sf a n v.toNat
  | .gate g => gateWrite sf g (v.getLsbD 0)

/-- A destination as the decoder lists it. -/
def Dst.dest : Dst → BDest
  | .range a n => .range a n
  | .list a n => .range a n
  | .gate g => .gate g

/-! ## Handles (R61) -/

def hGet (hs : Sparse Handle) (i : Nat) : Handle := Sparse.get 0 hs i

/-- Low bit and width of handle field b, as HFLD names it (R61, R97). -/
def hField (b : Nat) : Nat × Nat :=
  match b with
  | 0 => (0, 48) | 1 => (48, 3) | 2 => (51, 4) | 3 => (55, 2) | 4 => (57, 2) | 5 => (59, 2) | 6 => (61, 4) | 7 => (65, 1)
  | 8 => (66, 2) | 9 => (72, 20) | 10 => (92, 20) | 11 => (112, 20) | 12 => (132, 20) | 13 => (152, 26) | 14 => (178, 26)
  | 15 => (204, 26) | 16 => (230, 26) | _ => (68, 4)

/-- The value of a handle field. -/
def hBits (h : Handle) (b : Nat) : Nat := bits h.toNat (hField b).1 (hField b).2

def hBase (h : Handle) : Nat := hBits h 0
def hLocal (h : Handle) : Nat := hBits h 0 % 2 ^ 32
def hSpace (h : Handle) : Nat := hBits h 1
def hFmt (h : Handle) : Nat := hBits h 2
def hLayout (h : Handle) : Nat := hBits h 3
def hDims (h : Handle) : Nat := hBits h 4 + 1
def hSpn (h : Handle) : Nat := hBits h 5
def hSch (h : Handle) : Nat := hBits h 6
def hSce (h : Handle) : Bool := decide (hBits h 7 = 1)
def hPlanes (h : Handle) : Nat := hBits h 8 + 1
def hExt (h : Handle) (k : Nat) : Nat := hBits h (9 + k)
def hStr (h : Handle) (k : Nat) : Int := sextN (hBits h (13 + k)) 26

/-! ## Fixed-latency results and the replay buffer (R27, R70, R74-R76) -/

/-- The fields of a replay entry (R75). -/
structure REntry where
  value : Nat
  start : Nat
  nsl : Nat
  rc : Nat
  seq : Nat
  g : Bool
  v : Bool
  lst : Bool
  lw : Nat
  top : Nat
  deriving DecidableEq, Repr

def rEntry (e : BitVec 96) : REntry :=
  let n := e.toNat
  ⟨n % 2 ^ 64, bits n 64 7, bits n 71 4, bits n 75 3, bits n 78 4, bitB n 82, bitB n 83, bitB n 84, bits n 85 7, bits n 92 4⟩

def REntry.bits (e : REntry) : BitVec 96 :=
  BitVec.ofNat 96 (e.value % 2 ^ 64 + e.start % 2 ^ 7 * 2 ^ 64 + e.nsl % 2 ^ 4 * 2 ^ 71 + e.rc % 2 ^ 3 * 2 ^ 75 + e.seq % 2 ^ 4 * 2 ^ 78 +
    b2n e.g * 2 ^ 82 + b2n e.v * 2 ^ 83 + b2n e.lst * 2 ^ 84 + e.lw % 2 ^ 7 * 2 ^ 85 + e.top % 2 ^ 4 * 2 ^ 92)

/-- The destination of an entry. R75 gives a single-gate entry no meaning to START[6:4]: START counts modulo 16 (DESIGN CHOICE, log 45). -/
def REntry.dst (e : REntry) : Dst :=
  if e.g then .gate (e.start % 16) else if e.lst then .list e.start (e.lw + 1) else .range e.start (e.nsl + 1)

/-- The bits an entry lands; a list's are in the shadow (R75). -/
def REntry.val (e : REntry) (shadow : BitVec 512) : BitVec 512 :=
  if e.lst then BitVec.ofNat 512 (sfRead shadow e.start (4 * (e.lw + 1))) else BitVec.ofNat 512 e.value

/-- The entry makes ERET raise ILLEGAL_SLICE (R75). -/
def REntry.bad (e : REntry) : Bool :=
  e.v && (decide (e.start + (if e.lst then e.lw else e.nsl) ≥ 128) || decide (e.top ≠ 0) ||
    (e.lst && (e.g || decide (e.nsl ≠ 0) || decide (e.value ≠ 0))))

/-- The valid entries of the buffer in SEQ order, with their places. -/
def Task.entries (t : Task) : List (Nat × REntry) :=
  let l := (t.replay.map fun p => (p.1, rEntry p.2)).filter fun p => p.2.v
  (List.range 16).flatMap fun q => l.filter fun p => decide (p.2.seq = q)

/-- Land what is due before the task's next bundle: replay entries by SEQ, then results in issue order (R70, R76). -/
def Task.landDue (t : Task) : Task :=
  let es := t.entries.filter fun p => decide (p.2.rc = 0)
  let fs := t.flight.filter fun f => decide (f.rc = 0)
  { t with
    sf := fs.foldl (fun sf f => f.dst.write sf f.val) (es.foldl (fun sf p => p.2.dst.write sf (p.2.val t.shadow)) t.sf)
    replay := t.replay.filter fun p => !((rEntry p.2).v && decide ((rEntry p.2).rc = 0))
    flight := t.flight.filter fun f => decide (f.rc ≠ 0) }

/-- The task issues one bundle: every result is one bundle nearer. -/
def Task.countDown (t : Task) : Task :=
  { t with
    replay := t.replay.map fun p =>
      if (rEntry p.2).v then (p.1, REntry.bits { rEntry p.2 with rc := (rEntry p.2).rc - 1 }) else p
    flight := t.flight.map fun f => { f with rc := f.rc - 1 } }

/-- An entry for a result captured as number q. -/
def captureEntry (q : Nat) (rc : Nat) (d : Dst) (v : BitVec 512) : REntry :=
  match d with
  | .range a n => ⟨v.toNat % 2 ^ (4 * n), a, n - 1, rc, q, false, true, false, 0, 0⟩
  | .gate g => ⟨v.toNat % 2, g, 0, rc, q, true, true, false, 0, 0⟩
  | .list a n => ⟨0, a, 0, rc, q, false, true, true, n - 1, 0⟩

/-- The shadow takes the bits of a captured list (R74). -/
def shadowWrite (sh : BitVec 512) (d : Dst) (v : BitVec 512) : BitVec 512 :=
  match d with
  | .list a n =>
    (sh &&& ~~~(BitVec.ofNat 512 (2 ^ (4 * n) - 1) <<< (4 * a))) ||| (BitVec.ofNat 512 (v.toNat % 2 ^ (4 * n)) <<< (4 * a))
  | _ => sh

/-- Number results from q up as buffer entries. -/
def numberEntries : Nat → List (Nat × Dst × BitVec 512) → Sparse (BitVec 96)
  | _, [] => []
  | q, (rc, d, v) :: l => (q, (captureEntry q rc d v).bits) :: numberEntries (q + 1) l

/-- Capture (R74): what is due lands, the rest goes into the replay buffer, entries still outstanding first. -/
def Task.capture (t : Task) : Task :=
  let t1 := t.landDue
  let old := t1.entries.map fun p => (p.2.rc, p.2.dst, p.2.val t1.shadow)
  let new := t1.flight.map fun f => (f.rc, f.dst, f.val)
  { t1 with
    replay := numberEntries 0 (old ++ new)
    shadow := new.foldl (fun sh x => shadowWrite sh x.2.1 x.2.2) t1.shadow
    flight := [] }

/-! ## Returns and pending bits (R71-R73) -/

def pendMask (a n : Nat) : BitVec 128 := BitVec.ofNat 128 (2 ^ n - 1) <<< a

/-- Slices that a return's destination holds pending. -/
def Ret.mask (r : Ret) : BitVec 128 :=
  (match r.rng with | some (a, n) => pendMask a n | none => 0) ||| (match r.gate with | some g => pendMask (g / 4) 1 | none => 0)

/-- Handle bits that a return holds pending (R236). -/
def Ret.hmask (r : Ret) : BitVec 16 := match r.hdl with | some h => 1#16 <<< h | none => 0

/-- A return is outstanding from issue: its pending bits are set (R71). The answer names it by number. -/
def Task.addRet (t : Task) (rng : Option (Nat × Nat)) (gate hdl : Option Nat) : Task :=
  let r : Ret := ⟨t.nextRet, rng, gate, hdl, none, false, false⟩
  { t with rets := t.rets ++ [r], nextRet := t.nextRet + 1, pend := t.pend ||| r.mask, hpend := t.hpend ||| r.hmask }

/-- The access of return n has performed with a value and a gate bit. -/
def Task.fillRet (t : Task) (n : Nat) (v : Nat) (g : Bool) : Task :=
  { t with rets := t.rets.map fun r => if r.id = n then { r with val := some (BitVec.ofNat 256 v), gval := g } else r }

/-- Destinations of a return, as ranges and gates. -/
def Ret.dests (r : Ret) : List BDest :=
  (match r.rng with | some (a, n) => [.range a n] | none => []) ++ (match r.gate with | some g => [.gate g] | none => [])

/-- No earlier fixed-latency result on the destination is still to land (R72). -/
def Task.retFree (t : Task) (r : Ret) : Bool :=
  !(r.dests.any fun d => t.flight.any (fun f => f.dst.dest.overlap d) || t.entries.any fun p => p.2.dst.dest.overlap d)

/-- The return can be written. -/
def Task.retReady (t : Task) (r : Ret) : Bool := r.val.isSome && t.retFree r

/-- The results in flight in landing order: by bundles to go, replay entries by SEQ before the flights, in issue order (R70, R76). Each with
its place in the replay buffer, or its number among the flights. -/
def Task.inOrder (t : Task) : List ((Bool × Nat) × Dst × BitVec 512) :=
  (List.range 8).flatMap fun n =>
    ((t.entries.filter fun p => decide (p.2.rc = n)).map fun p => ((true, p.1), p.2.dst, p.2.val t.shadow)) ++
    ((t.flight.zipIdx.filter fun p => decide (p.1.rc = n)).map fun p => ((false, p.2), p.1.dst, p.1.val))

/-- Of results in landing order, those that overlap destinations, and those that overlap one of these and land before it. -/
def beneath : List ((Bool × Nat) × Dst × BitVec 512) → List BDest → List ((Bool × Nat) × Dst × BitVec 512)
  | [], _ => []
  | x :: l, ds =>
    let r := beneath l ds
    if (ds ++ r.map fun y => y.2.1.dest).any x.2.1.dest.overlap then x :: r else r

/-- The results that a held return waits for land (R72): the task's next bundle waits for the return, so that no task cycle brings them
(DEDUCED, log 36). -/
def Task.landBeneath (t : Task) (r : Ret) : Task :=
  let l := beneath t.inOrder r.dests
  { t with
    sf := l.foldl (fun sf x => x.2.1.write sf x.2.2) t.sf
    replay := t.replay.filter fun p => !(l.any fun x => decide (x.1 = (true, p.1)))
    flight := (t.flight.zipIdx.filter fun p => !(l.any fun x => decide (x.1 = (false, p.2)))).map (·.1) }

/-- The landing buffer writes a return whole and clears its pending bits (R71, R73). -/
def Task.writeRet (t : Task) (r : Ret) : Task :=
  let v := (r.val.getD 0).toNat
  let sf1 := match r.rng with | some (a, n) => if r.gateOnly then t.sf else sfWrite t.sf a n v | none => t.sf
  let sf2 := match r.gate with | some g => gateWrite sf1 g r.gval | none => sf1
  { t with
    sf := sf2
    hs := match r.hdl with | some h => Sparse.set 0 t.hs h (r.val.getD 0) | none => t.hs
    pend := t.pend &&& ~~~r.mask
    hpend := t.hpend &&& ~~~r.hmask
    rets := t.rets.filter fun x => decide (x.id ≠ r.id) }

/-- Land return n if it can be written. -/
def Task.landRet (t : Task) (n : Nat) : Task :=
  match t.rets.find? (fun r => decide (r.id = n)) with
  | some r => if t.retReady r then t.writeRet r else t
  | none => t

/-- A result in flight, as it lands when later returns have already been written over it (R72). -/
def Dst.patch (d : Dst) (v : BitVec 512) (lay : SliceFile → SliceFile) : BitVec 512 :=
  let sf := lay (d.write 1#512 v)
  match d with
  | .range a n => BitVec.ofNat 512 (sfRead sf a (4 * n))
  | .list a n => BitVec.ofNat 512 (sfRead sf a (4 * n))
  | .gate g => BitVec.ofNat 512 (b2n (gateRead sf g))

/-- Write a return before the results in flight beneath it: they land with its value in their common slices, so that the return
remains (R72, R73). -/
def Task.forceRet (t : Task) (r : Ret) : Task :=
  let lay (sf : SliceFile) : SliceFile := (Task.writeRet { t with sf := sf } r).sf
  let t1 : Task := { t with flight := t.flight.map fun (f : Flight) => { f with val := f.dst.patch f.val lay } }
  let t2 := t1.entries.foldl (fun (t : Task) p =>
    let v := p.2.dst.patch (p.2.val t.shadow) lay
    match p.2.dst with
    | .list a n => { t with shadow := shadowWrite t.shadow (.list a n) v }
    | _ => { t with replay := Sparse.set 0 t.replay p.1 (REntry.bits { p.2 with value := v.toNat }) }) t1
  t2.writeRet r

/-- A WAITF under R40 has ended: its pending bits clear, and only its gate bit is written, at once (R73). -/
def Task.gateRet (t : Task) (n : Nat) : Task :=
  match t.rets.find? fun r => decide (r.id = n) with
  | some r => t.forceRet { r with val := some 0, gval := false, gateOnly := true }
  | none => t

/-- Write every return whose value is known (R73: before a freeze). -/
def Task.forceRets (t : Task) : Task := (t.rets.filter fun r => r.val.isSome).foldl Task.forceRet t

/-- A return is outstanding whose value is not known, but for that of a WAITF that parked (R73). -/
def Task.unwritten (t : Task) : Bool :=
  t.rets.any fun r => r.val.isNone && !(match t.well with | some w => decide (w.ret = r.id) | none => false)

/-- A WAITF of the task has not resolved. -/
def Task.waitfInPort (t : Task) : Bool := t.port.any fun a => match a.kind with | .waitf _ => true | _ => false

/-! ## Regions of the local address map (R147) -/

/-- The granary window of a core: its field's, or the die's whole granary for a management core. -/
def State.window (s : State) (c : Nat) : Nat × Nat :=
  if isMgmt c then (0x10000000, 0x06000000)
  else match s.fieldOf c with
    | some k => ((s.field k).gwbase, (s.field k).gwsize)
    | none => (0, 0)

/-- Tile t of the core's die may be reached: a tile of the same field, or any for a management core. -/
def State.tileReach (s : State) (c t : Nat) : Bool :=
  decide (t < 144) && (isMgmt c || ((s.tile c).fld.isSome && decide ((s.tile (dieOf c * 256 + t)).fld = (s.tile c).fld)))

/-- First and last address of the region that holds byte a. -/
def State.region (s : State) (c a : Nat) : Option (Nat × Nat) :=
  let w := s.window c
  if a < 0xC0000 then (if isMgmt c then none else some (0, 0xBFFFF))
  else if w.1 ≤ a ∧ a < w.1 + w.2 then some (w.1, w.1 + w.2 - 1)
  else if 0x20000000 ≤ a ∧ a < 0x29000000 then
    let t := (a - 0x20000000) / 0x100000
    let b := 0x20000000 + t * 0x100000
    if a - b < 0xC0000 ∧ s.tileReach c t then some (b, b + 0xBFFFF) else none
  else none

/-- The check of n bytes from a up (R147). -/
def State.chk (s : State) (c a n : Nat) : Option Cause :=
  match s.region c a with
  | none => some .accessProt
  | some r => if a + n - 1 > r.2 then some .accessBound else none

/-- The storage and offset of a local address of a core. -/
def localPlace (c a : Nat) : Space × Nat :=
  if a < 0xC0000 then (.bin c, a)
  else if a < 0x20000000 then (.granary (dieOf c), a - 0x10000000)
  else (.bin (dieOf c * 256 + (a - 0x20000000) / 0x100000), (a - 0x20000000) % 0x100000)

def State.readLocal (s : State) (c a n : Nat) : Nat := s.readLE (localPlace c a).1 (localPlace c a).2 n
def State.writeLocal (s : State) (c a n v : Nat) : State := s.writeLE (localPlace c a).1 (localPlace c a).2 n v

/-- The granary window rule of job cards and futures (R38). -/
def State.inWindow (s : State) (c a n : Nat) : Bool :=
  decide ((s.window c).1 ≤ a) && decide (a + n ≤ (s.window c).1 + (s.window c).2)

/-! ## Members (R395) -/

/-- Module IDs of the applied table, by port. -/
def Fabric.members (f : Fabric) : List Nat := f.ports.filter (· ≠ 0xFFFF)

/-- A peer of the group. -/
def Fabric.isPeer (f : Fabric) (m : Nat) : Bool := f.members.contains m && decide (m ≠ f.modid)

def Fabric.peer (f : Fabric) (m : Nat) : Peer := Sparse.get {} f.peers m

def State.modPeer (s : State) (m : Nat) (g : Peer → Peer) : State :=
  { s with fab := { s.fab with peers := Sparse.modify {} s.fab.peers m g } }

/-- A request to the module may end other than RMT_UNREACH at once (R405). -/
def State.reachable (s : State) (m : Nat) : Bool := s.fab.isPeer m && !(s.fab.peer m).unreachable

/-- New traffic to a peer leaves now: the fabric is OPEN and fewer than 1,024 packets wait for an answer (R402, R413). -/
def State.canSend (s : State) (m : Nat) : Bool := decide (s.fab.st = .isOpen) && decide ((s.fab.peer m).out.length < 1024)

/-- A packet of a type with the pair's next PSN (R393). Outside OPEN it is held until OPEN (R413). -/
def State.toPeer (s : State) (m typ : Nat) (body : Nat → PacketBody) (lf : Option Leaf := none) : State :=
  s.modPeer m fun p =>
    { p with out := p.out ++ [⟨p.nextPsn, typ, body p.nextPsn, 0, 0, false, decide (s.fab.st = .isOpen), lf⟩], nextPsn := (p.nextPsn + 1) % 2 ^ 32 }

/-! ## Page walks (R359-R363) -/

/-- How a walk ends (R361). -/
inductive Walk where
  | notPresent | prot | mig (l : Leaf) | ok (l : Leaf)
  deriving DecidableEq, Repr

/-- Who accesses (R361). -/
inductive Via where
  | stream | peer | host
  deriving DecidableEq, Repr

def State.ptroot (s : State) : Nat := s.pkg.ptrooth.toNat % 256 * 2 ^ 32 + s.pkg.ptrootl.toNat / 4096 * 4096

/-- An entry of a table: the walker's copy where it caches one (R362). -/
def State.pte (s : State) (cache : Sparse Nat) (pa : Nat) : Nat :=
  let c := Sparse.get 0 cache pa
  if c = 0 then s.readLE .hbm pa 8 else c

/-- log2 of the span that an entry of level n maps. -/
def levelLg (n : Nat) : Nat := if n = 0 then 16 else 12 + 9 * n

/-- The fixed bits of a leaf of page size 2^lg are legal (R360, R361). -/
def leafLegal (e lg : Nat) : Bool :=
  decide (bits e 8 4 = 0) && decide (bits e 6 2 ≠ 3) && (decide (bits e 6 2 = 2) || decide (bits e 48 16 = 0)) &&
  decide (bits e 12 (lg - 12) = 0) && (decide (bits e 6 2 ≠ 0) || decide (bits e 12 36 * 4096 < 0xC000000000))

/-- Walk the levels from n down; the table starts at tbl. Also the non-leaf entries read. -/
def State.walkFrom (s : State) (cache : Sparse Nat) (dva : Nat) : Nat → Nat → List (Nat × Nat) → Walk × List (Nat × Nat)
  | n, tbl, seen =>
    let idx := if n = 0 then bits dva 16 5 else bits dva (levelLg n) 9
    let pa := tbl + 8 * idx
    let e := s.pte cache pa
    if !bitB e 0 then (.notPresent, seen)
    else if pa ≥ 0xC000000000 then (.prot, seen)
    else if bitB e 1 then
      if n = 3 ∨ !leafLegal e (levelLg n) then (.prot, seen)
      else
        let l : Leaf := ⟨dva / 2 ^ levelLg n * 2 ^ levelLg n, levelLg n, e⟩
        (if bitB e 5 then .mig l else .ok l, seen)
    else match n with
      | 0 => (.prot, seen)
      | m + 1 =>
        if bits e 48 16 ≠ 0 ∨ bits e 2 6 ≠ 0 ∨ (2 ≤ m + 1 ∧ bits e 8 4 ≠ 0) ∨ bits e 8 40 * 256 ≥ 0xC000000000 then (.prot, seen)
        else s.walkFrom cache dva m (bits e 8 40 * 256) (seen ++ [(pa, e)])

/-- What a leaf answers an access (R361): protection is judged before migration. -/
def Leaf.judge (l : Leaf) (wr : Bool) (via : Via) : Walk :=
  if (wr && !bitB l.entry 2) || (decide (via = .peer) && !bitB l.entry 3) || (decide (via = .host) && !bitB l.entry 4) then .prot
  else if bitB l.entry 5 then .mig l else .ok l

/-- A walk with the access's own conditions applied. -/
def Walk.judge (w : Walk) (wr : Bool) (via : Via) : Walk :=
  match w with
  | .mig l => l.judge wr via
  | .ok l => l.judge wr via
  | w => w

/-- A walk from the root in memory. -/
def State.walk (s : State) (cache : Sparse Nat) (dva : Nat) : Walk × List (Nat × Nat) := s.walkFrom cache dva 3 s.ptroot []

/-- The leaf maps the address. -/
def Leaf.covers (l : Leaf) (dva : Nat) : Bool := decide (l.base ≤ dva) && decide (dva < l.base + 2 ^ l.lg)

/-- TGT, and the target address of a device virtual address under a leaf (R360). -/
def Leaf.target (l : Leaf) (dva : Nat) : Nat × Nat := (bits l.entry 6 2, bits l.entry 12 36 * 4096 + dva % 2 ^ l.lg)

/-- Put a leaf into a cache of n entries; a full one drops an entry that the spec does not name (R362). -/
def cachePut (n : Nat) (keep : Leaf → Bool) (pick : Nat) (l : Leaf) (c : List Leaf) : List Leaf :=
  let c1 := c.filter fun x => decide (x ≠ l)
  if c1.length < n then c1 ++ [l]
  else
    let free := c1.filter fun x => !keep x
    match free[pick % free.length]? with
    | some v => (c1.filter fun x => decide (x ≠ v)) ++ [l]
    | none => c1

/-! ## Places of bytes at device virtual addresses (R360, R361, R365, R411) -/

/-- Where a byte is. -/
inductive Spot where
  | here (sp : Space) (o : Nat)
  | peer (m a : Nat)
  deriving DecidableEq, Repr

/-- Why an access cannot be made now. -/
inductive Hitch where
  /-- A fault kind of R203. -/
  | fault (kind : Nat)
  /-- A translation is missing. -/
  | walk (dva : Nat)
  /-- A 64-byte line of a peer's memory, at a device virtual address, is needed first. -/
  | line (m a dva : Nat)
  /-- New traffic to the peer waits. -/
  | wait
  deriving DecidableEq, Repr

/-- Device virtual addresses of the fabric and health registers: the 8 KiB from 0xFFFF_FF00_0000 (R411, R431). -/
def inRegs (a : Nat) : Bool := decide (0xFFFFFF000000 ≤ a) && decide (a < 0xFFFFFF002000)

/-- Device virtual addresses that pages may map (R359, R411). -/
def inMap (dva : Nat) : Bool := decide (dva < 2 ^ 48) && !inRegs dva

/-- Times that a page of the module's own may lead back to the module before an access is taken to have no place (DESIGN CHOICE, log 51:
the spec bounds no such chain). -/
def ownHops : Nat := 8

/-- The place under a leaf, for a read or a write of the module's own: a page of the module's own as a peer is translated again (R360,
R361, R365, R411). -/
def State.leafSpot (s : State) (wr : Bool) : Nat → Via → Leaf → Nat → Except Hitch Spot
  | k, via, l, a =>
    let at_ : Except Hitch Spot :=
      match l.target a with
      | (0, x) => .ok (.here .hbm x)
      | (1, x) => .ok (.here .host x)
      | (_, x) =>
        let m := bits l.entry 48 16
        if s.reachable m then .ok (.peer m x)
        else if m ≠ s.fab.modid then .error (.fault 7)
        else if inRegs x then .error (.fault 2)
        else match k, (s.walk [] x).1 with
          | _, .notPresent => .error (.fault 1)
          | k + 1, .mig l' => s.leafSpot wr k .peer l' x
          | k + 1, .ok l' => s.leafSpot wr k .peer l' x
          | _, _ => .error (.fault 2)
    match l.judge wr via with
    | .prot => .error (.fault 2)
    | .notPresent => .error (.fault 1)
    | .mig _ => if wr then .error (.fault 1) else at_
    | .ok _ => at_

/-- Where the module's own access to a device virtual address goes; none where no page is present and permits it (R359-R361, R411). -/
def State.dvaSpot (s : State) (dva : Nat) (wr : Bool) (via : Via) : Option Spot :=
  let at_ (l : Leaf) : Option Spot :=
    match s.leafSpot wr ownHops via l dva with
    | .ok p => if inMap dva then some p else none
    | .error _ => none
  match (s.walk [] dva).1 with
  | .ok l => at_ l
  | .mig l => at_ l
  | _ => none

/-- The storage place of such an address; none for a peer's memory. -/
def State.dvaPlace (s : State) (dva : Nat) (wr : Bool) (via : Via) : Option (Space × Nat) :=
  match s.dvaSpot dva wr via with
  | some (.here sp o) => some (sp, o)
  | _ => none

/-- The place in the module's own HBM of an address whose page itself is there (TGT 0): one of a record or a region that must lie so (R183,
R396, R409). -/
def State.hbmPlace (s : State) (dva : Nat) (wr : Bool) : Option Nat :=
  let at_ (l : Leaf) : Option Nat := if (l.target dva).1 = 0 ∧ inMap dva then some (l.target dva).2 else none
  match (s.walk [] dva).1.judge wr .stream with
  | .ok l => at_ l
  | .mig l => if wr then none else at_ l
  | _ => none

/-! ## The module's own accesses at device virtual addresses (R360) -/

/-- The command slots under which these accesses reach peers: one for all, and one for each die's EVICT. -/
def dvaKey : Nat := 2 ^ 22 + 1
def evictKey (die : Nat) : Nat := 2 ^ 22 + 2 + die

/-- The byte read there: a peer's comes from a line that has been read before. -/
def State.dvaByte (s : State) (via : Via) (dva : Nat) : Option Byte :=
  match s.dvaSpot dva false via with
  | some (.here sp o) => some (s.mem.byte (place sp o))
  | some (.peer m a) =>
    ((s.cmd dvaKey).lines.find? fun l => decide (l.1 = m) && decide (l.2.1 = a / 64 * 64)).bind fun l => l.2.2[a % 64]?
  | none => none

/-- Bytes read at device virtual addresses; none as soon as one has no place, or is a peer's that has not been read. -/
def State.readDva (s : State) (via : Via) : Nat → Nat → Option (List Byte)
  | _, 0 => some []
  | a, n + 1 =>
    match s.dvaByte via a, s.readDva via (a + 1) n with
    | some b, some l => some (b :: l)
    | _, _ => none

/-- A byte written to a peer's memory: it joins the last packet to the peer, where that writes the same line and has not been sent. -/
def State.peerByte (s : State) (key m a : Nat) (b : Byte) : State :=
  let line := a / 64 * 64
  let fresh : State :=
    (s.toPeer m 1 fun n => .stream n key line (some [(a, b)])).modCmd key fun c =>
      { c with owed := c.owed ++ [{ peer := m, psn := (s.fab.peer m).nextPsn }] }
  match (s.fab.peer m).out.getLast? with
  | some p => match p.body with
    | .stream n k x (some l) =>
      if k = key ∧ x = line ∧ p.sends = 0 then
        s.modPeer m fun q => { q with out := q.out.dropLast ++ [{ p with body := .stream n k x (some (l ++ [(a, b)])) }] }
      else fresh
    | _ => fresh
  | none => fresh

/-- Bytes written at device virtual addresses, those of a peer's memory in packets to it; none as soon as one has no place. -/
def State.writeDva (s : State) (via : Via) (a : Nat) (l : List Byte) (key : Nat := dvaKey) : Option State :=
  match l with
  | [] => some s
  | b :: l =>
    match s.dvaSpot a true via with
    | some (.here sp o) => ({ s with mem := s.mem.put (place sp o) b }).writeDva via (a + 1) l key
    | some (.peer m x) => (s.peerByte key m x b).writeDva via (a + 1) l key
    | none => none

/-! ## Management registers held as plain words (R358) -/

def Die.reg (d : Die) (r : Nat) : Nat := (Sparse.get 0 d.regs r).toNat
def Die.setReg (d : Die) (r v : Nat) : Die := { d with regs := Sparse.set 0 d.regs r (BitVec.ofNat 32 v) }

/-! ## Trace records (R379) -/

/-- The trace buffer takes records. -/
def Die.traceOn (d : Die) : Bool :=
  bitB (d.reg 0x152) 31 && decide (8 ≤ bits (d.reg 0x152) 16 5) && decide (bits (d.reg 0x152) 16 5 ≤ 28)

/-- Write a 16-byte trace record of MASK bit k, or drop and count it. -/
def State.traceWrite (s : State) (dn k : Nat) (rcd : Nat) : State :=
  let d := s.die dn
  if !d.traceOn || !bitB (d.reg 0x152) k then s
  else
    let lg := bits (d.reg 0x152) 16 5
    if (d.trtail.toNat + 2 ^ 32 - d.reg 0x154) % 2 ^ 32 ≥ 2 ^ lg then s.modDie dn fun d => { d with trlost := d.trlost + 1 }
    else
      let a := (d.reg 0x151 % 65536 * 2 ^ 32 + d.reg 0x150) + 16 * (d.trtail.toNat % 2 ^ lg)
      match s.writeDva .stream a (bytesOfNat 16 rcd) with
      | some s1 => s1.modDie dn fun d => { d with trtail := d.trtail + 1 }
      | none => s.modDie dn fun d => { d with trlost := d.trlost + 1 }

/-- An event record of kind k. TILE is 0 for what is of no tile. -/
def State.traceEvent (s : State) (dn k info tile fld ver : Nat) : State :=
  s.traceWrite dn k (k * 2 ^ 120 + info % 2 ^ 56 * 2 ^ 64 + (if tile < 144 then tile else 0) * 2 ^ 26 + dn * 2 ^ 24 + fld % 256 * 2 ^ 16 + ver % 65536)

/-! ## Fault records (R367, R368) -/

def causeCode : Cause → Nat
  | .none => 0 | .illegalBundle => 1 | .illegalSlice => 2 | .illegalOp => 3 | .ifetchMiss => 4 | .accessBound => 5
  | .accessProt => 6 | .priv => 7 | .queueFull => 8 | .lockHeld => 9 | .handleBad => 10 | .streamFault => 11
  | .portOrder => 12 | .bankConflict => 13 | .errToken => 14 | .twinMismatch => 15 | .configReject => 16
  | .rmtUnknown => 17 | .rmtUnreach => 18 | .trap => 19 | .bkpt => 20 | .watch => 21

/-- The ring takes records: EN, LG at least 4, and room (R367). -/
def Die.ringOpen (d : Die) : Bool :=
  bitB (d.reg 0x109) 31 && decide (4 ≤ bits (d.reg 0x109) 12 4) &&
  decide ((d.frtail.toNat + 2 ^ 32 - d.reg 0x10B) % 2 ^ 32 < 2 ^ bits (d.reg 0x109) 12 4)

/-- Send a record toward its die's ring; a watch record past the 64 held on chip is dropped and counted (R367). -/
def State.pushRec (s : State) (r : FRec) : State :=
  s.modDie r.die fun d =>
    if r.kind = 5 ∧ !d.ringOpen ∧ 64 ≤ d.recs.length then { d with frlost := d.frlost + 1 }
    else { d with recs := d.recs ++ [r] }

/-- A task fault's record (R50, R54); a management task's fault halts its core and the module instead (R367). -/
def State.taskRec (s : State) (tk : Nat) (c : Cause) (addr info : Nat) : State :=
  let k := coreOf tk
  if isMgmt k then
    { s with pkg := { s.pkg with fwstate := 2 } }.modDie (dieOf k) fun d => { d with halted := true }
  else
    { s with fresh := s.fresh + 1 }.pushRec ⟨1, c, dieOf k, s.fieldNum k, s.verOf k, tileOf k, ctxOf tk, addr, 255, 255, info, 0, 0, s.cycle⟩

/-! ## Taking an exception and resuming (R50, R54, R56) -/

/-- The task goes HELD, remembering its state, with its results captured (R31). -/
def Task.goHeld (t : Task) (rem : TState) : Task := { t.capture with st := .held, rem := rem, atBkpt := false }

/-- A precise fault of the bundle being issued (R50): no slot takes effect, results in flight are captured, the task goes HELD
remembering RUNNABLE, resumes at its own bundle or, for TRAP, at the next, and a record goes to the management core. -/
def State.precise (s : State) (c : Cause) (info : Nat) : State :=
  let i := s.issue
  (s.modTask i.task fun t =>
    { t.goHeld .runnable with kind := .none, pc := if c = .trap then i.next else i.addr, atBkpt := decide (c = .bkpt) }).taskRec i.task c i.addr info

/-- An asynchronous task fault falls due (R54): at once for a task that is parked, held or faulted, at the next bundle boundary for
a runnable one, or for one that a slot of the bundle now issuing has parked: the bundle's end gives its resume address. -/
def State.raiseAsync (s : State) (tk : Nat) (c : Cause) (info : Nat) : State :=
  match (s.task tk).st with
  | .free => s
  | .runnable => s.modTask tk fun t => { t with asyncs := t.asyncs ++ [(c, info, 0)] }
  | .parked =>
    if s.issue.active && decide (s.issue.task = tk) then s.modTask tk fun t => { t with asyncs := t.asyncs ++ [(c, info, 0)] }
    else (s.modTask tk fun t => t.goHeld .parked).taskRec tk c (s.task tk).pc info
  | _ => s.taskRec tk c (s.task tk).pc info

/-- Take the asynchronous faults that wait for a task's boundary: the first stops it, each writes its record (R54). While a WAITF of its last
bundle has not resolved, the task is at no boundary. -/
def State.takeAsyncs (s : State) (tk : Nat) : State :=
  let t := s.task tk
  if t.waitfInPort then s
  else match t.asyncs with
  | [] => s
  | l =>
    let s1 := s.modTask tk fun t =>
      match t.st with
      | .runnable => { t.goHeld .runnable with asyncs := [] }
      | .parked => { t.goHeld .parked with asyncs := [] }
      | _ => { t with asyncs := [] }
    l.foldl (fun s x => s.taskRec tk x.1 t.pc x.2.1) s1

/-- HOLD of a task (R56, R169): as by an asynchronous fault with cause 0, at its next bundle boundary. -/
def State.holdTask (s : State) (tk : Nat) : State :=
  match (s.task tk).st with
  | .runnable =>
    if (s.task tk).waitfInPort then s.modTask tk fun t => { t with asyncs := t.asyncs ++ [(.none, 0, 0)] }
    else (s.modTask tk fun t => t.goHeld .runnable).taskRec tk .none (s.task tk).pc 0
  | .parked => (s.modTask tk fun t => t.goHeld .parked).taskRec tk .none (s.task tk).pc 0
  | _ => s

/-- A record of the task waits beyond the 64 held on chip, so that the task stays HELD (R367). -/
def State.recWaits (s : State) (tk : Nat) : Bool :=
  let k := coreOf tk
  ((s.die (dieOf k)).recs.drop 64).any fun r => decide (r.kind = 1) && decide (r.tile = tileOf k) && decide (r.ctx = ctxOf tk)

/-- ERET of a HELD task (R56, R75, R167): the remembered state at the resume address, or ILLEGAL_SLICE for a bad replay entry, which no slot
and no bundle causes: the record's word is 255 (no slot) with the first word zero, and the task stays HELD with what it remembered, raising
it at the ERET also when it remembered PARKED (DESIGN CHOICE, log 46: R75 gives neither). -/
def State.eretTask (s : State) (tk : Nat) (skip : Bool) : State :=
  let t := s.task tk
  if t.st ≠ .held ∨ s.recWaits tk then s
  else if t.entries.any (fun p => p.2.bad) then s.taskRec tk .illegalSlice t.pc 255
  else s.modTask tk fun t => { t with st := t.rem, rem := .free, skip := skip && t.atBkpt, atBkpt := false }

/-! ## Wakes (R33, R35, R57) -/

/-- A task waits in a parking kind, or is HELD remembering that it does. -/
def Task.waits (t : Task) (k : ParkKind) : Bool :=
  decide (t.kind = k) && (decide (t.st = .parked) || (decide (t.st = .held) && decide (t.rem = .parked)))

/-- The task, or its remembered state, becomes RUNNABLE at an address. -/
def Task.wake (t : Task) (pc : Nat) : Task :=
  { t with kind := .none, pc := pc, st := if t.st = .held then .held else .runnable, rem := if t.st = .held then .runnable else t.rem }

/-- A virtual-channel word has reached a bound task (R33). -/
def Task.wordWake (t : Task) : Task := if t.waits .endK then t.wake t.entry else t

/-- A counter event reaches its bound task (R35, R57). -/
def Task.counterWake (t : Task) (dc : Nat) : Task :=
  if t.waits .waitc && decide (t.waitDc = dc) then t.wake t.pc
  else if t.waits .endK then t.wake t.entry
  else if t.st = .free ∨ t.st = .faulted then t
  else { t with latch := true }

/-- A counter as it stands. -/
def Tile.counter (t : Tile) (dc : Nat) : Counter := Sparse.get {} t.counters dc

/-- Decrement a counter (R34, R35). -/
def State.decCounter (s : State) (core dc : Nat) : State :=
  let k := (s.tile core).counter dc
  let put (c : Counter) := s.modTile core fun t => { t with counters := Sparse.set {} t.counters dc c }
  if k.val = 0 then put { k with uf := true }
  else
    let s1 := put { k with val := k.val - 1 }
    if k.val = 1 then
      match k.bound with
      | some x => s1.modTask (taskAt core x) fun t => t.counterWake dc
      | none => s1
    else s1

/-! ## Virtual channels (R17, R18) -/

/-- Words waiting in channel n of a core. -/
def Tile.vc (t : Tile) (n : Nat) : List Word64 := Sparse.get [] t.vcs n

/-- The task bound to channel n of a core. -/
def State.boundTo (s : State) (core n : Nat) : Option Nat :=
  ((List.range 8).map (taskAt core)).find? fun t => decide ((s.task t).st ≠ .free) && decide ((s.task t).vc = some n)

/-- The core has a network interface that takes words: it holds a field, or it is a management core (R15). -/
def State.takesWords (s : State) (core : Nat) : Bool := isMgmt core || (s.tile core).fld.isSome

/-- A word enters a channel that has room, and wakes the bound task (R18, R33). -/
def State.vcPut (s : State) (core n : Nat) (w : Word64) : State :=
  let s1 := s.modTile core fun t => { t with vcs := Sparse.set [] t.vcs n (t.vc n ++ [w]) }
  match s.boundTo core n with
  | some t => s1.modTask t Task.wordWake
  | none => s1

/-- A word is on its way to a channel (R18). A task's releases its earlier accesses at a scope: it arrives once they have performed (R153,
R221, R222, R295). -/
def State.send (s : State) (src : Option Nat) (core n : Nat) (w : Word64) (vout : Bool) (scope : Nat := 4) : State :=
  { s with mesh := s.mesh ++ [⟨src, core, n, w, vout, (match src with | some t => (s.task t).port.length | none => 0), scope⟩] }

/-! ## Watchpoints (R380) -/

/-- Watchpoint w is hit by an access of n bytes at address a of a space (0 granary, 1 bin of the tile, 2 device virtual). -/
def Die.watchHit (d : Die) (w fld space tile a n : Nat) (rd wr : Bool) : Bool :=
  let c := d.reg (0x132 + 4 * w)
  let wa := d.reg (0x131 + 4 * w) % 65536 * 2 ^ 32 + d.reg (0x130 + 4 * w)
  let lg := bits c 24 8
  bitB c 0 && ((rd && bitB c 2) || (wr && bitB c 3)) && (decide (bits c 16 8 = 255) || decide (bits c 16 8 = fld)) &&
  decide (bits c 6 2 = space) && (decide (space ≠ 1) || decide (bits c 8 8 = tile)) &&
  decide (a / 2 ^ lg ≤ wa / 2 ^ lg) && decide (wa / 2 ^ lg ≤ (a + n - 1) / 2 ^ lg)

/-- An access by a port of a field hits the lowest-numbered watchpoint of a die, if any: a record, an event, and WATCH in a task when FAULT
is set. `tk` is the issuing task where the access is a task's or its stream's. -/
def State.watchBy (s : State) (dn fld ver who ctx : Nat) (tk : Option Nat) (space tile a n : Nat) (rd wr : Bool) : State :=
  let d := s.die dn
  match (List.range 8).find? fun w => d.watchHit w fld space tile a n rd wr with
  | none => s
  | some w =>
    let info := w + 8 * b2n wr
    let s1 := s.pushRec ⟨5, .watch, dn, fld, ver, who, ctx, 0, 255, 255, info, a, 0, s.cycle⟩
    let s2 := s1.traceEvent dn 5 w who fld ver
    match tk with
    | some t => if bitB (d.reg (0x132 + 4 * w)) 4 then s2.raiseAsync t .watch info else s2
    | none => s2

/-- A watch on an access by a port of a core. -/
def State.watch (s : State) (core ctx : Nat) (tk : Option Nat) (space tile a n : Nat) (rd wr : Bool) : State :=
  s.watchBy (dieOf core) (s.fieldNum core) (s.verOf core) (tileOf core) ctx tk space tile a n rd wr

/-- A watch on n bytes at a local address of a core. -/
def State.watchLocal (s : State) (core ctx : Nat) (tk : Option Nat) (a n : Nat) (rd wr : Bool) : State :=
  match localPlace core a with
  | (.bin c, o) => s.watch core ctx tk 1 (tileOf c) o n rd wr
  | (_, _) => s.watch core ctx tk 0 0 a n rd wr

/-! ## Field faults (R53, R55) -/

/-- Every return of the field's tasks whose value is known is written before it freezes (R73). -/
def State.landField (s : State) (k : Nat) : State :=
  (s.fieldCores k).foldl (fun s c => (List.range 8).foldl (fun s x => s.modTask (taskAt c x) Task.forceRets) s) s

/-- Mark every task of a field that is not FREE as FAULTED (R21, R53). -/
def State.faultTasks (s : State) (k : Nat) : State :=
  (s.fieldCores k).foldl (fun s c => (List.range 8).foldl (fun s x =>
    s.modTask (taskAt c x) fun t => if t.st = .free then t else { t with st := .faulted }) s) s

/-- A return of one of the field's tasks is outstanding whose value is not known (R73). -/
def State.returnsOpen (s : State) (k : Nat) : Bool :=
  (s.fieldCores k).any fun c => (List.range 8).any fun x => (s.task (taskAt c x)).unwritten

/-- The beat under way is over, or is given up: its lines of peer memory and the translations that they were asked under are dropped, and
with them a translation that a TINV has named since (R218, R239). -/
def Cmd.beatOver (c : Cmd) : Cmd :=
  { c with lines := [], owed := c.owed.filter (·.line.isNone), under := [], xl := if c.stale then none else c.xl, stale := false }

/-- The commands of a field that freezes give up the beats that wait for lines of peer memory: these beats begin again when it resumes. -/
def State.dropBeats (s : State) (k : Nat) : State :=
  { s with cmds := Sparse.mapAll {} (fun c (x : Cmd) => if s.fieldOf (c / 128) = some k then x.beatOver else x) s.cmds }

/-- The field freezes, its tasks FAULTED if the fault ends it; its dump timer starts (R22, R53, R377, R379). -/
def State.freezeNow (s : State) (k : Nat) (cause : Cause) (ends : Bool) : State :=
  let f := s.field k
  let s1 := (((s.landField k).dropBeats k).modField k fun f =>
    { f with st := .frozen, stopping := false, closing := none, cause := some (causeCode cause), dump := some s.cycle, frozenAt := s.cycle }).traceEvent
      (k / 256) 2 (causeCode cause) 0 (k % 256) f.ver
  if ends then (s1.faultTasks k).modField k fun f => { f with ended := true } else s1

/-- A fault freezes the field: at once, or, its pickers and pumps stopped, when the last outstanding return has been written (R73). -/
def State.freeze (s : State) (k : Nat) (cause : Cause) (ends : Bool) : State :=
  if s.returnsOpen k then s.modField k fun f => { f with stopping := true, closing := some (cause, ends) } else s.freezeNow k cause ends

/-- A field that a fault is freezing freezes once nothing is outstanding. -/
def State.closeField (s : State) (k : Nat) : State :=
  match (s.field k).closing with
  | some (c, e) => if s.returnsOpen k then s else s.freezeNow k c e
  | none => s

/-- The field is in a state that faults can freeze. -/
def Field.runs (f : Field) : Bool := decide (f.st = .live) || decide (f.st = .loading)

/-- A field fault (R55): freeze, and one record of kind 2. A field that a fault is freezing already takes no second. -/
def State.fieldFault (s : State) (k : Nat) (c : Cause) (tile group cell info : Nat) : State :=
  let f := s.field k
  if f.runs && f.closing.isNone then
    (s.freeze k c false).pushRec ⟨2, c, k / 256, k % 256, f.ver, tile, 255, 0, group, cell, info, 0, 0, s.cycle⟩
  else s

/-! ## Configuration-phase order (R303) -/

/-- Every cell of the field has loaded: its south-east cell, which the wave reaches last, has (R283, R286). -/
def State.allLoaded (s : State) (k : Nat) : Bool := ((s.fieldCores k).getLast?.map fun c => (s.cell (256 * c + 255)).loaded).getD true

/-- A reconfiguration has reached the core's tile and not every cell of its field: the accesses of the new version come after all of the
old, and wait (R303). The old ones include the bin operations of cells that have not loaded, in a tile that the wave has reached (DESIGN
CHOICE, log 72). -/
def State.verHold (s : State) (core : Nat) : Bool :=
  match s.fieldOf core with
  | some k =>
    (match (s.field k).wave with | some w => !w.cold | none => false) && (s.tile core).declared && !s.allLoaded k
  | none => false

/-! ## Banks (R216, R388) -/

/-- The cycle that a core counts: its field's own, or the module's where it has no field. -/
def State.coreCycle (s : State) (core : Nat) : Nat :=
  match s.fieldOf core with
  | some f => (s.field f).own / 12
  | none => s.cycle

/-- Banks of a core noted for its present cycle. -/
def State.banksNow (s : State) (core : Nat) (x : Nat × List Nat) : List Nat := if x.1 = s.coreCycle core + 1 then x.2 else []

/-- An access that has waited 15 cycles on end before the present one takes its banks. -/
def bankDue (wait waitAt now : Nat) : Bool := decide (15 ≤ wait) && decide (waitAt + 1 = now)

/-- Cycles on end that an access has waited for a bank, once it waits in the present one. -/
def bankWaited (wait waitAt now : Nat) : Nat :=
  if waitAt = now ∧ wait ≠ 0 then wait else if waitAt + 1 = now then wait + 1 else 1

/-- Lockstep beats keep off banks of a core in this cycle: an access that has waited 15 cycles on end takes them. -/
def State.takeBanks (s : State) (core : Nat) (l : List Nat) : State :=
  s.modTile core fun t => { t with takenAt := (s.coreCycle core + 1, s.banksNow core t.takenAt ++ l) }

/-! ## Register fields -/

/-- Keep the named bit ranges of a value: low bit and width of each. -/
def keepBits (v : Nat) (l : List (Nat × Nat)) : Nat := (l.map fun x => bits v x.1 x.2 * 2 ^ x.1).sum

/-- The bits that PICKFLOOR and VOUTDST hold; the others read zero (R5, R26, R168). -/
def pickMask : List (Nat × Nat) := [(16, 6), (8, 6), (0, 6)]
def voutMask : List (Nat × Nat) := [(29, 3), (16, 2), (8, 8), (0, 5)]

end Sys2Proof.Machine
end

