-- ==== Sys2Proof/Machine/Crypto.lean ====
section
/-! DEFINITION. The published algorithms that the spec names and does not restate: SHA-512, HMAC and HKDF over it, AES-256-GCM, and
the verification of ECDSA P-521 signatures (spec/16_dw_boot_security_power.md R383-R387; spec/17_fo_rotor_fabric.md R406, R407,
R410). Their definitions are PRESUMED from their public standards. -/

namespace Sys2Proof.Machine

/-! ## SHA-512 -/

/-- Round constants. -/
def shaK : List (BitVec 64) :=
  [0x428A2F98D728AE22, 0x7137449123EF65CD, 0xB5C0FBCFEC4D3B2F, 0xE9B5DBA58189DBBC,
   0x3956C25BF348B538, 0x59F111F1B605D019, 0x923F82A4AF194F9B, 0xAB1C5ED5DA6D8118,
   0xD807AA98A3030242, 0x12835B0145706FBE, 0x243185BE4EE4B28C, 0x550C7DC3D5FFB4E2,
   0x72BE5D74F27B896F, 0x80DEB1FE3B1696B1, 0x9BDC06A725C71235, 0xC19BF174CF692694,
   0xE49B69C19EF14AD2, 0xEFBE4786384F25E3, 0x0FC19DC68B8CD5B5, 0x240CA1CC77AC9C65] ++
  [0x2DE92C6F592B0275, 0x4A7484AA6EA6E483, 0x5CB0A9DCBD41FBD4, 0x76F988DA831153B5,
   0x983E5152EE66DFAB, 0xA831C66D2DB43210, 0xB00327C898FB213F, 0xBF597FC7BEEF0EE4,
   0xC6E00BF33DA88FC2, 0xD5A79147930AA725, 0x06CA6351E003826F, 0x142929670A0E6E70,
   0x27B70A8546D22FFC, 0x2E1B21385C26C926, 0x4D2C6DFC5AC42AED, 0x53380D139D95B3DF,
   0x650A73548BAF63DE, 0x766A0ABB3C77B2A8, 0x81C2C92E47EDAEE6, 0x92722C851482353B] ++
  [0xA2BFE8A14CF10364, 0xA81A664BBC423001, 0xC24B8B70D0F89791, 0xC76C51A30654BE30,
   0xD192E819D6EF5218, 0xD69906245565A910, 0xF40E35855771202A, 0x106AA07032BBD1B8,
   0x19A4C116B8D2D0C8, 0x1E376C085141AB53, 0x2748774CDF8EEB99, 0x34B0BCB5E19B48A8,
   0x391C0CB3C5C95A63, 0x4ED8AA4AE3418ACB, 0x5B9CCA4F7763E373, 0x682E6FF3D6B2B8A3,
   0x748F82EE5DEFB2FC, 0x78A5636F43172F60, 0x84C87814A1F0AB72, 0x8CC702081A6439EC] ++
  [0x90BEFFFA23631E28, 0xA4506CEBDE82BDE9, 0xBEF9A3F7B2C67915, 0xC67178F2E372532B,
   0xCA273ECEEA26619C, 0xD186B8C721C0C207, 0xEADA7DD6CDE0EB1E, 0xF57D4F7FEE6ED178,
   0x06F067AA72176FBA, 0x0A637DC5A2C898A6, 0x113F9804BEF90DAE, 0x1B710B35131C471B,
   0x28DB77F523047D84, 0x32CAAB7B40C72493, 0x3C9EBE0A15C9BEBC, 0x431D67C49C100D4C,
   0x4CC5D4BECB3E42B6, 0x597F299CFC657E2A, 0x5FCB6FAB3AD6FAEC, 0x6C44198C4A475817]

/-- Initial hash value. -/
def shaH : List (BitVec 64) :=
  [0x6A09E667F3BCC908, 0xBB67AE8584CAA73B, 0x3C6EF372FE94F82B, 0xA54FF53A5F1D36F1,
   0x510E527FADE682D1, 0x9B05688C2B3E6C1F, 0x1F83D9ABFB41BD6B, 0x5BE0CD19137E2179]

/-- A big-endian number from bytes. -/
def beNat (l : List Byte) : Nat := l.foldl (fun n b => 256 * n + b.toNat) 0

/-- The n low bytes of a number, big-endian. -/
def beBytes (n v : Nat) : List Byte := (bytesOfNat n v).reverse

def shaS0 (x : BitVec 64) : BitVec 64 := x.rotateRight 28 ^^^ x.rotateRight 34 ^^^ x.rotateRight 39
def shaS1 (x : BitVec 64) : BitVec 64 := x.rotateRight 14 ^^^ x.rotateRight 18 ^^^ x.rotateRight 41
def shas0 (x : BitVec 64) : BitVec 64 := x.rotateRight 1 ^^^ x.rotateRight 8 ^^^ (x >>> 7)
def shas1 (x : BitVec 64) : BitVec 64 := x.rotateRight 19 ^^^ x.rotateRight 61 ^^^ (x >>> 6)

/-- Extend a message schedule, held newest first, by n words. -/
def shaExtend : Nat → List (BitVec 64) → List (BitVec 64)
  | 0, w => w
  | n + 1, w => shaExtend n ((shas1 (w.getD 1 0) + w.getD 6 0 + shas0 (w.getD 14 0) + w.getD 15 0) :: w)

/-- One round on the eight working words. -/
def shaRound (v : List (BitVec 64)) (kw : BitVec 64 × BitVec 64) : List (BitVec 64) :=
  match v with
  | [a, b, c, d, e, f, g, h] =>
    let t1 := h + shaS1 e + ((e &&& f) ^^^ (~~~e &&& g)) + kw.1 + kw.2
    let t2 := shaS0 a + ((a &&& b) ^^^ (a &&& c) ^^^ (b &&& c))
    [t1 + t2, a, b, c, d + t1, e, f, g]
  | _ => v

/-- One block of 128 bytes. -/
def shaBlock (h : List (BitVec 64)) (blk : List Byte) : List (BitVec 64) :=
  let w := (List.range 16).map fun i => BitVec.ofNat 64 (beNat ((blk.drop (8 * i)).take 8))
  let ws := (shaExtend 64 w.reverse).reverse
  List.zipWith (· + ·) h ((shaK.zip ws).foldl shaRound h)

/-- The blocks of a padded message, n of them. -/
def shaBlocks : Nat → List (BitVec 64) → List Byte → List (BitVec 64)
  | 0, h, _ => h
  | n + 1, h, l => shaBlocks n (shaBlock h (l.take 128)) (l.drop 128)

def sha512 (m : List Byte) : List Byte :=
  let z := (239 - m.length % 128) % 128
  let l := m ++ [0x80] ++ List.replicate z 0 ++ beBytes 16 (8 * m.length)
  (shaBlocks (l.length / 128) shaH l).flatMap fun w => beBytes 8 w.toNat

/-! ## HMAC and HKDF (R406) -/

def hmac (key msg : List Byte) : List Byte :=
  let k0 := if 128 < key.length then sha512 key else key
  let k := k0 ++ List.replicate (128 - k0.length) 0
  sha512 (k.map (· ^^^ 0x5C) ++ sha512 (k.map (· ^^^ 0x36) ++ msg))

/-- The first n bytes, at most 64, of HKDF with an empty salt. -/
def hkdf (ikm info : List Byte) (n : Nat) : List Byte :=
  (hmac (hmac (List.replicate 64 0) ikm) (info ++ [1])).take n

/-! ## AES-256 -/

/-- Product in GF(2^8) of b times a, a doubled at each step. -/
def gfMul : Nat → Byte → Byte → Byte
  | 0, _, _ => 0
  | n + 1, a, b => (if b.getLsbD 0 then a else 0) ^^^ gfMul n ((a <<< 1) ^^^ (if a.getLsbD 7 then 0x1B else 0)) (b >>> 1)

/-- a to the power 2 ^ n - 1, times the square of acc: with n = 7 and acc = 1, a ^ 254, the inverse. -/
def gfInv (a : Byte) : Byte :=
  let sq (x : Byte) := gfMul 8 x x
  let a2 := sq a; let a4 := sq a2; let a8 := sq a4; let a16 := sq a8; let a32 := sq a16; let a64 := sq a32; let a128 := sq a64
  gfMul 8 a2 (gfMul 8 a4 (gfMul 8 a8 (gfMul 8 a16 (gfMul 8 a32 (gfMul 8 a64 a128)))))

/-- The S-box. -/
def aesSub (a : Byte) : Byte :=
  let i := gfInv a
  i ^^^ i.rotateLeft 1 ^^^ i.rotateLeft 2 ^^^ i.rotateLeft 3 ^^^ i.rotateLeft 4 ^^^ 0x63

/-- Key schedule: words newest first, from word i on, n more. -/
def aesExpand : Nat → Nat → Byte → List (List Byte) → List (List Byte)
  | 0, _, _, w => w
  | n + 1, i, rc, w =>
    let t := w.headD []
    let t1 :=
      if i % 8 = 0 then
        match t with
        | [a, b, c, d] => [aesSub b ^^^ rc, aesSub c, aesSub d, aesSub a]
        | _ => t
      else if i % 8 = 4 then t.map aesSub else t
    aesExpand n (i + 1) (if i % 8 = 0 then gfMul 8 rc 2 else rc) (List.zipWith (· ^^^ ·) (w.getD 7 []) t1 :: w)

/-- The 15 round keys of a 32-byte key. -/
def aesKeys (key : List Byte) : List (List Byte) :=
  let w := (aesExpand 52 8 1 ((List.range 8).map fun i => (key.drop (4 * i)).take 4).reverse).reverse
  (List.range 15).map fun i => ((w.drop (4 * i)).take 4).flatten

def aesShift (s : List Byte) : List Byte := (List.range 16).map fun i => s.getD ((i + 4 * (i % 4)) % 16) 0

def aesMix (s : List Byte) : List Byte :=
  (List.range 16).map fun i =>
    let c (r : Nat) := s.getD (i / 4 * 4 + (i + r) % 4) 0
    gfMul 8 (c 0) 2 ^^^ gfMul 8 (c 1) 3 ^^^ c 2 ^^^ c 3

/-- Encrypt one block. -/
def aesBlock (key : List Byte) (b : List Byte) : List Byte :=
  let ks := aesKeys key
  let add (s : List Byte) (k : List Byte) := List.zipWith (· ^^^ ·) s k
  let s1 := ((ks.drop 1).take 13).foldl (fun s k => add (aesMix (aesShift (s.map aesSub))) k) (add b (ks.headD []))
  add (aesShift (s1.map aesSub)) (ks.getD 14 [])

/-! ## GCM -/

/-- Product in GF(2^128) with GCM's bit order: bit 127 of the number is the first bit. -/
def gcmMul : Nat → Nat → Nat → Nat → Nat
  | 0, _, _, z => z
  | n + 1, x, v, z =>
    gcmMul n x (if v % 2 = 1 then (v / 2) ^^^ (0xE1 * 2 ^ 120) else v / 2) (if bitB x n then z ^^^ v else z)

/-- GHASH of whole blocks. -/
def ghash (h : Nat) : Nat → Nat → List Byte → Nat
  | 0, y, _ => y
  | n + 1, y, l => ghash h n (gcmMul 128 (y ^^^ beNat (l.take 16)) h 0) (l.drop 16)

def pad16 (l : List Byte) : List Byte := l ++ List.replicate ((16 - l.length % 16) % 16) 0

/-- Counter-mode encryption of n blocks from counter c. -/
def gcmCtr (key iv : List Byte) : Nat → Nat → List Byte → List Byte
  | 0, _, _ => []
  | n + 1, c, l => List.zipWith (· ^^^ ·) l (aesBlock key (iv ++ beBytes 4 c)) ++ gcmCtr key iv n (c + 1) (l.drop 16)

/-- Encrypt or decrypt a text under a 12-byte nonce. -/
def gcmText (key iv l : List Byte) : List Byte := gcmCtr key iv ((l.length + 15) / 16) 2 l

/-- The tag over additional data and ciphertext. -/
def gcmTag (key iv aad ct : List Byte) : List Byte :=
  let h := beNat (aesBlock key (List.replicate 16 0))
  let l := pad16 aad ++ pad16 ct ++ beBytes 8 (8 * aad.length) ++ beBytes 8 (8 * ct.length)
  List.zipWith (· ^^^ ·) (beBytes 16 (ghash h (l.length / 16) 0 l)) (aesBlock key (iv ++ beBytes 4 1))

/-! ## ECDSA P-521 -/

def p521 : Nat := 2 ^ 521 - 1
def p521b : Nat :=
  0x0051953EB9618E1C9A1F929A21A0B68540EEA2DA725B99B315F3B8B489918EF109E156193951EC7E937B1652C0BD3BB1BF073573DF883D2C34F1EF451FD46B503F00
def p521n : Nat :=
  0x01FFFFFFFFFFFFFFFFFFFFFFFFFFFFFFFFFFFFFFFFFFFFFFFFFFFFFFFFFFFFFFFFFA51868783BF2F966B7FCC0148F709A5D03BB5C9B8899C47AEBB6FB71E91386409
def p521g : Nat × Nat :=
  (0x00C6858E06B70404E9CD9E3ECB662395B4429C648139053FB521F828AF606B4D3DBAA14B5E77EFE75928FE1DC127A2FFA8DE3348B3C1856A429BF97E7E31C2E5BD66,
   0x011839296A789A3BC0045C8A5FB42C7D1BD998F54449579B446817AFBD17273E662C97EE72995EF42640C550B9013FAD0761353C7086A272C24088BE94769FD16650)

/-- b to the power e modulo m, over n bits of e. -/
def powMod (m : Nat) : Nat → Nat → Nat → Nat
  | 0, _, _ => 1 % m
  | n + 1, b, e => (if e % 2 = 1 then b else 1) * powMod m n (b * b % m) (e / 2) % m

/-- Inverse modulo a 521-bit prime. -/
def invMod (m a : Nat) : Nat := powMod m 521 (a % m) (m - 2)

/-- Sum of two points; none is the point at infinity. -/
def ecAdd (a b : Option (Nat × Nat)) : Option (Nat × Nat) :=
  match a, b with
  | none, q => q
  | q, none => q
  | some (x, y), some (u, v) =>
    let p := p521
    if x = u ∧ (y + v) % p = 0 then none
    else
      let l := if x = u then (3 * x * x + p - 3) * invMod p (2 * y) % p else (v + p - y) * invMod p (u + p - x) % p
      let z := (l * l + 2 * p - x - u) % p
      some (z, (l * (x + p - z) + p - y) % p)

/-- k times a point, over n bits of k. -/
def ecMul : Nat → Nat → Option (Nat × Nat) → Option (Nat × Nat)
  | 0, _, _ => none
  | n + 1, k, q => ecAdd (if k % 2 = 1 then q else none) (ecMul n (k / 2) (ecAdd q q))

/-- A private key in range, and its public key: X, then Y, 66 bytes each. -/
def ecdsaKey (d : Nat) : Nat := 1 + d % (p521n - 1)
def ecdsaPublic (d : Nat) : List Byte :=
  match ecMul 521 (ecdsaKey d) (some p521g) with
  | some q => beBytes 66 q.1 ++ beBytes 66 q.2
  | none => []

/-- The signature (r, s) of a message under a private key, with a drawn number k. -/
def ecdsaSign (d k : Nat) (msg : List Byte) : List Byte :=
  let n := p521n
  let r := match ecMul 521 (ecdsaKey k) (some p521g) with
    | some q => q.1 % n
    | none => 0
  beBytes 66 r ++ beBytes 66 (invMod n (ecdsaKey k) * (beNat (sha512 msg) + r * ecdsaKey d) % n)

/-- A signature (r, s) over a message verifies under a public key; each number is 66 bytes, big-endian. -/
def ecdsaVerify (x y : List Byte) (msg sig : List Byte) : Bool :=
  let px := beNat x
  let py := beNat y
  let r := beNat (sig.take 66)
  let s := beNat ((sig.drop 66).take 66)
  let p := p521
  let n := p521n
  if decide (p ≤ px) || decide (p ≤ py) || decide (py * py % p ≠ (px * px % p * px + (p - 3) * px + p521b) % p) ||
      decide (r = 0) || decide (n ≤ r) || decide (s = 0) || decide (n ≤ s) then false
  else
    let w := invMod n s
    match ecAdd (ecMul 521 (beNat (sha512 msg) * w % n) (some p521g)) (ecMul 521 (r * w % n) (some (px, py))) with
    | none => false
    | some q => decide (q.1 % n = r)

end Sys2Proof.Machine
end

