-- ==== Sys2Proof/Machine/Operands.lean ====
section
/-! DEFINITION. How a slot reads its operands and lands its result: predicates and loop conditions, extension, the handle checks of
R62 and R206, and what every slot does before its own effect (spec/05_cw_slice_control_isa.md R138; spec/02_cw_slice_file.md). -/

namespace Sys2Proof.Machine

/-! ## Acting (R92, R138, R157) -/

/-- A predicate reads true on a slice file. -/
def predHolds (p : Pred) (sf : SliceFile) : Bool := if p.neg then !gateRead sf p.gate else gateRead sf p.gate

/-- Level n of a loop sequencer; inactive when its remaining count is 0 (R159). -/
def levelOf (l : Sparse Level) (n : Nat) : Level := Sparse.get {} l n

/-- A loop condition holds: the level is active and on the named iteration (R92). -/
def loopHolds (lc : LoopCond) (l : Sparse Level) : Bool :=
  let v := levelOf l lc.lvl
  !lc.flagged || (decide (v.remaining ≠ 0) && (!lc.first || decide (v.iter = 0)) && (!lc.last || decide (v.remaining = 1)))

/-- The slot being executed acts: judged on what stood before its bundle. -/
def State.acts (s : State) (lc : LoopCond) (p : Pred) : Bool :=
  !s.issue.noAct && predHolds p s.issue.sf && loopHolds lc s.issue.levels

/-- The task whose bundle is being issued. -/
def State.me (s : State) : Nat := s.issue.task

/-- Its core. -/
def State.myCore (s : State) : Nat := coreOf s.issue.task

/-- It is a management task, with the supervisor view (R169, R385). -/
def State.supervisor (s : State) : Bool := isMgmt (coreOf s.issue.task)

/-- The slot is the last of its bundle: its word has the stop bit (R84). -/
def Issue.last (i : Issue) : Bool :=
  decide (4 * (i.slot + 1 + (if classOf i.word = 3 then 1 else 0)) = (i.next + 65536 - i.addr) % 65536)

/-! ## Operands -/

/-- A w-bit slice operand as it stood before the bundle, zero-extended (R69). -/
def State.rd (s : State) (a w : Nat) : Nat := sfRead s.issue.sf a w

/-- A source extended under x (R64). -/
def extend (x : Bool) (v w : Nat) : Int := if x then sextN v w else (v : Int)

/-- A source operand of width w, extended under x. -/
def State.src (s : State) (a w : Nat) (x : Bool) : Int := extend x (s.rd a w) w

/-- Handle i as it stood before the bundle (R201). -/
def State.hnd (s : State) (i : Nat) : Handle := hGet s.issue.hs i

/-- The low w bits of an exact result (R65). -/
def lowBits (r : Int) (w : Nat) : Nat := (r % (2 ^ w : Nat)).toNat

/-- A fixed-latency result of latency lat is in flight to a destination (R27). -/
def State.land (s : State) (d : Dst) (v : Nat) (lat : Nat) : State :=
  s.modTask s.me fun t => { t with flight := t.flight ++ [⟨lat - 1, d, BitVec.ofNat 512 v⟩] }

/-- An exact result lands in w bits from slice d. -/
def State.landInt (s : State) (d w : Nat) (r : Int) (lat : Nat) : State := s.land (.range d (w / 4)) (lowBits r w) lat

/-- A gate result lands in one bit (R141). -/
def State.landGate (s : State) (g : Nat) (b : Bool) (lat : Nat) : State := s.land (.gate g) (b2n b) lat

/-! ## Slots -/

/-- A slot without a cause of its own: it has its effect when it acts, and none otherwise (R138). -/
def slot (s : State) (act : Bool) (f : State → State) : Host.Outcome State Fault Refusal := .next (if act then f s else s)

/-- A slot that may raise a precise cause when it acts: the cause is taken in place of the effect (R50, R51). -/
def slotOr (s : State) (act : Bool) (cause : Option (Cause × Nat)) (f : State → State) : Host.Outcome State Fault Refusal :=
  .next (if act then (match cause with | some c => s.precise c.1 c.2 | none => f s) else s)

/-- A supervisor-only form: PRIV in an unprivileged task, whatever the predicate (R51, R104); info is the slot and first word. -/
def slotPriv (s : State) (act : Bool) (cause : Option (Cause × Nat)) (f : State → State) : Host.Outcome State Fault Refusal :=
  if s.supervisor then slotOr s act cause f
  else .next (s.precise .priv (s.issue.word * 2 ^ 32 + s.issue.slot))

/-- The order in which R52 chooses among precise causes. -/
def causeRank : Cause → Nat
  | .ifetchMiss => 0 | .illegalBundle => 1 | .illegalOp => 2 | .illegalSlice => 3 | .priv => 4 | .bkpt => 5 | .handleBad => 6
  | .accessBound => 7 | .accessProt => 8 | .queueFull => 9 | .trap => 10 | _ => 11

/-- The cause that R52 chooses among several checks; the first of equals. -/
def firstCause : List (Option (Cause × Nat)) → Option (Cause × Nat)
  | [] => none
  | none :: l => firstCause l
  | some c :: l =>
    match firstCause l with
    | some d => if causeRank d.1 < causeRank c.1 then some d else some c
    | none => some c

/-- A condition that raises a cause. -/
def when_ (b : Bool) (c : Cause) (info : Nat) : Option (Cause × Nat) := if b then some (c, info) else none

/-- The region check of an access of n bytes, with its record's word (R147, R368). -/
def State.chkCause (s : State) (a n : Nat) : Option (Cause × Nat) := (s.chk s.myCore a n).map fun c => (c, n % 256 * 2 ^ 32 + a)

/-! ## Handle checks (R62, R124, R206) -/

/-- Bits per element of an FMT code. -/
def fmtBits (f : Nat) : Nat :=
  match f with
  | 0 => 32 | 1 => 16 | 2 => 16 | 3 => 8 | 4 => 8 | 5 => 4 | 6 => 8 | 7 => 4 | 8 => 2 | 9 => 8 | 10 => 16 | 11 => 32 | _ => 0

/-- The conditions of R62 that do not concern the scale handle. -/
def handleBad (h : Handle) : Bool :=
  decide (hSpace h = 0) || decide (5 ≤ hSpace h) || decide (12 ≤ hFmt h) || decide (hLayout h = 3) || decide (hSpn h = 3) ||
  decide (hBits h 17 ≠ 0) || (List.range (hDims h)).any (fun k => decide (hExt h k = 0)) ||
  (decide (hLayout h = 1) && (decide (hFmt h ≠ 7 ∧ hFmt h ≠ 8) || decide ((if hFmt h = 7 then 4 else 2) < hPlanes h))) ||
  decide ((hLayout h = 2) ↔ (hSpn h = 0)) ||
  (hSce h && !([3, 4, 5, 6, 7, 9].contains (hFmt h)))

/-- A sparse handle's format and length (R123, R124). -/
def sparseBad (h : Handle) : Bool :=
  decide (hLayout h = 2) && (!([3, 4, 5, 6, 7, 9].contains (hFmt h)) || decide (hExt h 0 % 16 ≠ 0))

/-- The first failing handle of a slot's use of handle i: its own conditions, then its scale handle's (R62). -/
def checkHandle (hs : Sparse Handle) (i : Nat) : Option (Cause × Nat) :=
  let h := hGet hs i
  if handleBad h || sparseBad h then some (.handleBad, i)
  else if hSce h then
    let sc := hGet hs (hSch h)
    if handleBad sc || sparseBad sc || decide (hFmt sc ≠ 2) then some (.handleBad, 256 + hSch h) else none
  else none

/-- Check of a handle used by the slot being executed. -/
def State.chkHandle (s : State) (i : Nat) : Option (Cause × Nat) := checkHandle s.issue.hs i

/-- Offset k of a stream's slice operand (R205). -/
def offsetOf (v k : Nat) : Int := if k < 4 then sextN (bits v (16 * k) 16) 16 else 0

/-- Offset 0 keeps a dimension-0 run at its storage boundary (R206). -/
def offsetBad (h : Handle) (o0 : Int) : Bool :=
  match hLayout h with
  | 0 => decide (fmtBits (hFmt h) < 8) && decide (o0 * (fmtBits (hFmt h) : Int) % 8 ≠ 0)
  | 1 => decide (o0 % 64 ≠ 0)
  | _ => decide (o0 % 16 ≠ 0)

end Sys2Proof.Machine
end

