-- ==== Sys2Proof/Machine/Flags.lean ====
section
/-! DEFINITION. The conditions that write gates: CMP and TST (spec/03_cw_bundles_encoding.md R97; spec/05_cw_slice_control_isa.md
R141). FCMP's are in Float.lean. The machine has no flags register: gates are bits of the slice file. -/

namespace Sys2Proof.Machine

/-- CMP's condition code on two signed values (R97). -/
def cmpHolds (cond : Nat) (a b : Int) : Bool :=
  match cond with
  | 0 => decide (a = b) | 1 => decide (a ≠ b) | 2 => decide (a < b) | 3 => decide (a ≤ b) | 4 => decide (b < a)
  | _ => decide (b ≤ a)

/-- TST's condition code: 0 nz, 1 z (R97). -/
def tstHolds (cond a b : Nat) : Bool :=
  match cond with
  | 0 => decide (a &&& b ≠ 0)
  | _ => decide (a &&& b = 0)

/-- A 64-bit extended value read as signed (R141). -/
def signed64 (v : Int) : Int := sextN (v % (2 ^ 64 : Nat)).toNat 64

end Sys2Proof.Machine
end

