-- ==== Sys2Proof/Machine/Integer.lean ====
section
/-! DEFINITION. Integer arithmetic, logic, shifts, counts, bit fields, gates and top-k lists (spec/05_cw_slice_control_isa.md
R138-R141, R144-R146). -/

namespace Sys2Proof.Machine

/-! ## Shared forms -/

/-- A register form: both sources extended under x, the exact result in w_s bits. -/
def aluP (s : State) (o : OpP) (lat : Nat) (f : Int → Int → Int) : Host.Outcome State Fault Refusal :=
  slot s (s.acts o.lc o.p) fun s => s.landInt o.d (wBits o.w) (f (s.src o.a (wBits o.w) o.x) (s.src o.b (wBits o.w) o.x)) lat

/-- A register form on the zero-extended sources (x has no effect). -/
def aluU (s : State) (o : OpP) (lat : Nat) (f : Nat → Nat → Int) : Host.Outcome State Fault Refusal :=
  slot s (s.acts o.lc o.p) fun s => s.landInt o.d (wBits o.w) (f (s.rd o.a (wBits o.w)) (s.rd o.b (wBits o.w))) lat

/-- A width-coded form on the zero-extended sources. -/
def aluW (s : State) (o : OpW) (lat : Nat) (f : Nat → Nat → Int) : Host.Outcome State Fault Refusal :=
  slot s (s.acts o.lc o.p) fun s => s.landInt o.d o.wd (f (s.rd o.a (wBits o.w)) (s.rd o.b (wBits o.w))) lat

/-- Clamp to the signed range of w bits (R65). -/
def clampS (w : Nat) (r : Int) : Int := max (-(2 ^ (w - 1) : Nat)) (min ((2 ^ (w - 1) : Nat) - 1) r)

/-- Clamp to the unsigned range of w bits (R65). -/
def clampU (w : Nat) (r : Int) : Int := max 0 (min ((2 ^ w : Nat) - 1) r)

/-- A bitwise operation on 64-bit extended values. -/
def logic64 (f : Nat → Nat → Nat) (a b : Int) : Int := (f (lowBits a 64) (lowBits b 64) : Nat)

/-! ## Arithmetic (R139) -/

def execAdd (o : OpP) (s : State) : Host.Outcome State Fault Refusal := aluP s o 1 fun a b => a + b
def execSub (o : OpP) (s : State) : Host.Outcome State Fault Refusal := aluP s o 1 fun a b => a - b

def execAddi (o : OpI) (s : State) : Host.Outcome State Fault Refusal :=
  slot s (s.acts o.lc o.p) fun s => s.landInt o.d (wBits o.w) (s.src o.a (wBits o.w) o.x + o.imm) 1

def execMul (o : OpW) (s : State) : Host.Outcome State Fault Refusal :=
  slot s (s.acts o.lc o.p) fun s => s.landInt o.d o.wd (s.src o.a (wBits o.w) o.x * s.src o.b (wBits o.w) o.x) 5

def execMulh (o : OpP) (s : State) : Host.Outcome State Fault Refusal :=
  aluP s o 5 fun a b => a * b / (2 ^ wBits o.w : Nat)
def execMulhu (o : OpP) (s : State) : Host.Outcome State Fault Refusal :=
  aluU s o 5 fun a b => ((a * b / 2 ^ wBits o.w : Nat) : Int)
def execAdds (o : OpP) (s : State) : Host.Outcome State Fault Refusal := aluP s o 1 fun a b => clampS (wBits o.w) (a + b)
def execSubs (o : OpP) (s : State) : Host.Outcome State Fault Refusal := aluP s o 1 fun a b => clampS (wBits o.w) (a - b)
def execAddsu (o : OpP) (s : State) : Host.Outcome State Fault Refusal :=
  aluU s o 1 fun a b => clampU (wBits o.w) ((a : Int) + b)
def execSubsu (o : OpP) (s : State) : Host.Outcome State Fault Refusal :=
  aluU s o 1 fun a b => clampU (wBits o.w) ((a : Int) - b)
def execNeg (o : OpP) (s : State) : Host.Outcome State Fault Refusal := aluP s o 1 fun a _ => -a
def execAbs (o : OpP) (s : State) : Host.Outcome State Fault Refusal := aluP s o 1 fun a _ => (a.natAbs : Int)

/-- MIN and MAX extend the other way round: x = 0 is signed (R64). -/
def minMax (s : State) (o : OpP) (f : Int → Int → Int) : Host.Outcome State Fault Refusal :=
  slot s (s.acts o.lc o.p) fun s =>
    s.landInt o.d (wBits o.w) (f (s.src o.a (wBits o.w) !o.x) (s.src o.b (wBits o.w) !o.x)) 1

def execMin (o : OpP) (s : State) : Host.Outcome State Fault Refusal := minMax s o min
def execMax (o : OpP) (s : State) : Host.Outcome State Fault Refusal := minMax s o max

/-! ## Logic and moves (R139) -/

def execAnd (o : OpP) (s : State) : Host.Outcome State Fault Refusal := aluP s o 1 (logic64 (· &&& ·))
def execOr (o : OpP) (s : State) : Host.Outcome State Fault Refusal := aluP s o 1 (logic64 (· ||| ·))
def execXor (o : OpP) (s : State) : Host.Outcome State Fault Refusal := aluP s o 1 (logic64 (· ^^^ ·))
def execAndn (o : OpP) (s : State) : Host.Outcome State Fault Refusal := aluP s o 1 (logic64 fun a b => a &&& (2 ^ 64 - 1 - b))
def execNot (o : OpP) (s : State) : Host.Outcome State Fault Refusal := aluP s o 1 fun a _ => -a - 1

def execMov (o : OpW) (s : State) : Host.Outcome State Fault Refusal :=
  slot s (s.acts o.lc o.p) fun s => s.landInt o.d o.wd (s.src o.a (wBits o.w) o.x) 1

/-- EXT clamps A to the signed (x = 1) or unsigned range of w_d bits. -/
def execExt (o : OpW) (s : State) : Host.Outcome State Fault Refusal :=
  slot s (s.acts o.lc o.p) fun s =>
    s.landInt o.d o.wd ((if o.x then clampS o.wd else clampU o.wd) (s.src o.a (wBits o.w) o.x)) 1

/-- MOVI is never predicated (R99). -/
def execMovi (o : OpM) (s : State) : Host.Outcome State Fault Refusal :=
  slot s (s.acts o.lc Pred.always) fun s => s.landInt o.d (wBits o.w) o.imm 1

/-- SEL's predicate field is its selector, read before the bundle (R93, R139). -/
def execSel (o : OpP) (s : State) : Host.Outcome State Fault Refusal :=
  slot s (s.acts o.lc Pred.always) fun s =>
    s.landInt o.d (wBits o.w)
      (if predHolds o.p s.issue.sf then s.src o.a (wBits o.w) o.x else s.src o.b (wBits o.w) o.x) 1

/-! ## Shifts, rotates, counts (R140) -/

/-- A count of 64 or more empties a 64-bit value, so it acts as 64. -/
def shiftCount (c : Nat) : Nat := min c 64

def execShl (o : OpP) (s : State) : Host.Outcome State Fault Refusal :=
  slot s (s.acts o.lc o.p) fun s =>
    s.landInt o.d (wBits o.w) (s.src o.a (wBits o.w) o.x * (2 ^ shiftCount (s.rd o.b (wBits o.w)) : Nat)) 1

def execShr (o : OpP) (s : State) : Host.Outcome State Fault Refusal :=
  slot s (s.acts o.lc o.p) fun s =>
    s.landInt o.d (wBits o.w) (s.src o.a (wBits o.w) o.x / (2 ^ shiftCount (s.rd o.b (wBits o.w)) : Nat)) 1

/-- A w-bit value rotated left by c. -/
def rotl (w a c : Nat) : Nat := (a * 2 ^ (c % w) + a / 2 ^ (w - c % w)) % 2 ^ w

def execRol (o : OpP) (s : State) : Host.Outcome State Fault Refusal :=
  aluU s o 1 fun a b => (rotl (wBits o.w) a b : Nat)
def execRor (o : OpP) (s : State) : Host.Outcome State Fault Refusal :=
  aluU s o 1 fun a b => (rotl (wBits o.w) a (wBits o.w - b % wBits o.w) : Nat)

/-- Bits of a value, from bit 0 up. -/
def bitList : Nat → Nat → List Bool
  | 0, _ => []
  | n + 1, a => decide (a % 2 = 1) :: bitList n (a / 2)

/-- The value of a list of bits, bit 0 first. -/
def ofBits : List Bool → Nat
  | [] => 0
  | b :: l => b2n b + 2 * ofBits l

/-- Number of clear bits before the first set one. -/
def leadFalse : List Bool → Nat
  | [] => 0
  | b :: l => if b then 0 else leadFalse l + 1

def execClz (o : OpW) (s : State) : Host.Outcome State Fault Refusal :=
  aluW s o 1 fun a _ => (leadFalse (bitList (wBits o.w) a).reverse : Nat)
def execCtz (o : OpW) (s : State) : Host.Outcome State Fault Refusal :=
  aluW s o 1 fun a _ => (leadFalse (bitList (wBits o.w) a) : Nat)
def execPopc (o : OpW) (s : State) : Host.Outcome State Fault Refusal :=
  aluW s o 1 fun a _ => ((bitList (wBits o.w) a).count true : Nat)
def execBrev (o : OpP) (s : State) : Host.Outcome State Fault Refusal :=
  aluU s o 1 fun a _ => (ofBits (bitList (wBits o.w) a).reverse : Nat)

/-! ## Bit fields (R140) -/

/-- Position and length in a BFX or BFI control word. -/
def bfPos (c : Nat) : Nat := c % 64
def bfLen (c : Nat) : Nat := c / 64 % 64 + 1

def execBfx (o : OpW) (s : State) : Host.Outcome State Fault Refusal :=
  aluW s o 1 fun a c => extend o.x (bits a (bfPos c) (bfLen c)) (bfLen c)

/-- A value with the low len bits of a placed at pos. -/
def insertField (old a pos len : Nat) : Nat :=
  old % 2 ^ pos + a % 2 ^ len * 2 ^ pos + old / 2 ^ (pos + len) * 2 ^ (pos + len)

def execBfi (o : OpP) (s : State) : Host.Outcome State Fault Refusal :=
  slot s (s.acts o.lc o.p) fun s =>
    let w := wBits o.w
    let c := s.rd o.b w
    s.landInt o.d w (insertField (s.rd o.d w) (s.rd o.a w) (bfPos c) (bfLen c) : Nat) 1

def execPack (o : OpW) (s : State) : Host.Outcome State Fault Refusal :=
  aluW s o 1 fun a b => (b * 2 ^ wBits o.w + a : Nat)

/-! ## Gates (R141) -/

def execCmp (o : OpP) (s : State) : Host.Outcome State Fault Refusal :=
  slot s (s.acts o.lc o.p) fun s =>
    s.landGate (o.d % 16)
      (cmpHolds (o.d / 16) (signed64 (s.src o.a (wBits o.w) o.x)) (signed64 (s.src o.b (wBits o.w) o.x))) 1

def execTst (o : OpP) (s : State) : Host.Outcome State Fault Refusal :=
  slot s (s.acts o.lc o.p) fun s =>
    s.landGate (o.d % 16) (tstHolds (o.d / 16) (s.rd o.a (wBits o.w)) (s.rd o.b (wBits o.w))) 1

/-! ## Top-k lists (R144-R146) -/

/-- Width of one entry: key over tag. -/
def listEntryBits (o : OpK) : Nat := wBits o.w + 4 * (o.t + 1)

/-- Entries of a list, entry 0 first: key and tag. -/
def listUnpack (o : OpK) (v : Nat) : List (Nat × Nat) :=
  (List.range o.k).map fun i =>
    (bits v (i * listEntryBits o + 4 * (o.t + 1)) (wBits o.w), bits v (i * listEntryBits o) (4 * (o.t + 1)))

/-- The bits of a list of entries. -/
def listPack (o : OpK) : List (Nat × Nat) → Nat
  | [] => 0
  | (key, tag) :: l => key * 2 ^ (4 * (o.t + 1)) + tag + 2 ^ listEntryBits o * listPack o l

/-- Insert a pair before the first entry whose key is smaller; the last entry drops out (R145). -/
def listInsert (o : OpK) (key tag : Nat) : List (Nat × Nat) → List (Nat × Nat)
  | [] => []
  | e :: l =>
    if extend o.x key (wBits o.w) > extend o.x e.1 (wBits o.w) then ((key, tag) :: e :: l).dropLast
    else e :: listInsert o key tag l

def execTopk (o : OpK) (s : State) : Host.Outcome State Fault Refusal :=
  slot s (s.acts o.lc Pred.always) fun s =>
    let l := listUnpack o (s.rd o.d o.listBits)
    s.land (.list o.d (o.listBits / 4))
      (listPack o (listInsert o (s.rd o.a (wBits o.w)) (s.rd o.b (wBits o.w) % 2 ^ (4 * (o.t + 1))) l)) 2

def execTopkc (o : OpK) (s : State) : Host.Outcome State Fault Refusal :=
  slot s (s.acts o.lc Pred.always) fun s =>
    s.land (.list o.d (o.listBits / 4))
      (listPack o (List.replicate o.k (s.rd o.a (wBits o.w), 2 ^ (4 * (o.t + 1)) - 1))) 2

end Sys2Proof.Machine
end

