-- ==== Sys2Proof/Machine/Float.lean ====
section
/-! DEFINITION. Floating-point and D8 values, rounding and conversions, exact and then rounded once
(spec/04_cw_number_formats.md R113, R117-R119, R126-R132, R137), and the FP32 slice operations (R142, R143). -/

namespace Sys2Proof.Machine

/-! ## Exact values -/

/-- A value: NaN, an infinity, or ± m * 2^e with a signed zero. -/
inductive FVal where
  | nan
  | inf (neg : Bool)
  | num (neg : Bool) (m : Nat) (e : Int)
  deriving DecidableEq, Repr

/-- A floating-point format (R113): width, fraction bits, bias, largest finite code, canonical NaN, and the code of +infinity
where it has one. -/
structure FFmt where
  w : Nat
  m : Nat
  bias : Int
  maxc : Nat
  nan : Option Nat
  inf : Option Nat
  deriving DecidableEq, Repr

def fp32 : FFmt := ⟨32, 23, 127, 0x7F7FFFFF, some 0x7FC00000, some 0x7F800000⟩
def fp16 : FFmt := ⟨16, 10, 15, 0x7BFF, some 0x7E00, some 0x7C00⟩
def bf16 : FFmt := ⟨16, 7, 127, 0x7F7F, some 0x7FC0, some 0x7F80⟩
def e4m3 : FFmt := ⟨8, 3, 7, 0x7E, some 0x7F, none⟩
def e5m2 : FFmt := ⟨8, 2, 15, 0x7B, some 0x7E, some 0x7C⟩
def e2m1 : FFmt := ⟨4, 1, 1, 0x7, none, none⟩

/-- Exponent of the least significant bit of subnormals. -/
def FFmt.qmin (f : FFmt) : Int := 1 - f.bias - f.m

/-- The value of a code (R113). -/
def fdec (f : FFmt) (c : Nat) : FVal :=
  let neg := bitB c (f.w - 1)
  let mag := c % 2 ^ (f.w - 1)
  let ex := mag / 2 ^ f.m
  let fr := mag % 2 ^ f.m
  if f.inf = some mag then .inf neg
  else if f.maxc < mag then .nan
  else if ex = 0 then .num neg fr f.qmin
  else .num neg (2 ^ f.m + fr) (f.qmin + ex - 1)

/-- m / 2^k to an integer, to nearest with ties to even, or toward zero. -/
def shiftRound (rz : Bool) (m k : Nat) : Nat :=
  let q := m / 2 ^ k
  let r := m % 2 ^ k
  if rz then q
  else if 2 * r > 2 ^ k ∨ (2 * r = 2 ^ k ∧ q % 2 = 1) then q + 1 else q

/-- The multiple of 2^q nearest to m * 2^e (or toward zero), in units of 2^q. -/
def quantize (rz : Bool) (m : Nat) (e q : Int) : Nat :=
  if q ≤ e then m * 2 ^ (e - q).toNat else shiftRound rz m (q - e).toNat

/-- The magnitude code of m * 2^e, m not 0; it exceeds maxc exactly when the result overflows (R127). -/
def magCode (f : FFmt) (rz : Bool) (m : Nat) (e : Int) : Nat :=
  let q := max ((m.log2 : Int) + e - f.m) f.qmin
  (q - f.qmin).toNat * 2 ^ f.m + quantize rz m e q

/-- What an overflow gives (R127). -/
def overflowCode (f : FFmt) (rz sat : Bool) (neg : Bool) : Nat :=
  let s := b2n neg * 2 ^ (f.w - 1)
  if rz || sat then s + f.maxc
  else match f.inf, f.nan with
    | some c, _ => s + c
    | none, some n => n
    | none, none => s + f.maxc

/-- Round a value to a format (R126, R127, R129, R130). -/
def fenc (f : FFmt) (rz sat : Bool) (v : FVal) : Nat :=
  match v with
  | .nan => f.nan.getD 0
  | .inf neg =>
    match f.inf with
    | some c => b2n neg * 2 ^ (f.w - 1) + (if sat then f.maxc else c)
    | none => overflowCode f rz sat neg
  | .num neg m e =>
    if m = 0 then b2n neg * 2 ^ (f.w - 1)
    else
      let c := magCode f rz m e
      if f.maxc < c then overflowCode f rz sat neg else b2n neg * 2 ^ (f.w - 1) + c

/-- Round to nearest, as every arithmetic result is (R126). -/
def rne (f : FFmt) (v : FVal) : Nat := fenc f false false v

/-! ## Exact arithmetic -/

/-- The sign of a value; a NaN has none. -/
def FVal.isNeg : FVal → Bool
  | .nan => false
  | .inf n => n
  | .num n _ _ => n

/-- The number as a signed multiple of 2^q, for q at most its exponent. -/
def FVal.scaled (v : FVal) (q : Int) : Int :=
  match v with
  | .num n m e => (if n then -1 else 1) * ((m * 2 ^ (e - q).toNat : Nat) : Int)
  | _ => 0

def FVal.expOf : FVal → Int
  | .num _ _ e => e
  | _ => 0

/-- A signed multiple of 2^q as a value; zero is +0. -/
def ofScaled (v : Int) (q : Int) : FVal := .num (decide (v < 0)) v.natAbs q

def FVal.isNan : FVal → Bool
  | .nan => true
  | _ => false

def FVal.isInf : FVal → Bool
  | .inf _ => true
  | _ => false

/-- The exact sum of addends, with the rules for NaN, infinities and zero sums (R132, R133). -/
def fsum (l : List FVal) : FVal :=
  if l.any FVal.isNan then .nan
  else if l.any FVal.isInf then
    if l.any (fun v => v.isInf && v.isNeg) && l.any (fun v => v.isInf && !v.isNeg) then .nan
    else .inf (l.any fun v => v.isInf && v.isNeg)
  else
    let q := l.foldl (fun q v => min q v.expOf) 0
    let t := l.foldl (fun a v => a + v.scaled q) 0
    if t = 0 then .num (!l.isEmpty && l.all fun v => decide (v.scaled q = 0) && v.isNeg) 0 0
    else ofScaled t q

/-- The exact product (R129). -/
def fmulV (a b : FVal) : FVal :=
  match a, b with
  | .num n m e, .num k p g => .num (xor n k) (m * p) (e + g)
  | .inf n, .inf k => .inf (xor n k)
  | .inf n, .num k p _ => if p = 0 then .nan else .inf (xor n k)
  | .num n m _, .inf k => if m = 0 then .nan else .inf (xor n k)
  | _, _ => .nan

def FVal.negate : FVal → FVal
  | .nan => .nan
  | .inf n => .inf !n
  | .num n m e => .num (!n) m e

/-- Order of two values that are not NaN, with -0 equal to +0. -/
def fltV (a b : FVal) : Bool :=
  match a, b with
  | .inf n, .inf k => n && !k
  | .inf n, .num _ _ _ => n
  | .num _ _ _, .inf k => !k
  | .num n m e, .num k p g =>
    let q := min e g
    decide ((FVal.num n m e).scaled q < (FVal.num k p g).scaled q)
  | _, _ => false

/-- Equality of values that are not NaN, with -0 equal to +0. -/
def feqV (a b : FVal) : Bool := !a.isNan && !b.isNan && !fltV a b && !fltV b a

/-- FMIN and FMAX: NaN if either is NaN, with -0 below +0 (R132). -/
def fminV (a b : FVal) : FVal :=
  if a.isNan || b.isNan then .nan
  else if fltV a b then a else if fltV b a then b else if a.isNeg then a else b
def fmaxV (a b : FVal) : FVal :=
  if a.isNan || b.isNan then .nan
  else if fltV a b then b else if fltV b a then a else if a.isNeg then b else a

/-- FCMP's conditions: eq, ne, lt, le, un (R97, R132). -/
def fcmpHolds (cond : Nat) (a b : FVal) : Bool :=
  let un := a.isNan || b.isNan
  match cond with
  | 0 => feqV a b
  | 1 => !feqV a b
  | 2 => !un && fltV a b
  | 3 => !un && !fltV b a
  | _ => un

/-- Twice the quotient a / b of naturals, with a last bit that is set when the quotient is not exact. -/
def stickyDiv (a b : Nat) : Nat := 2 * (a / b) + (if a % b = 0 then 0 else 1)

/-- 1 / x to more than FP32's precision, with a sticky last bit (R132, R137). -/
def frcpV (a : FVal) : FVal :=
  match a with
  | .nan => .nan
  | .inf n => .num n 0 0
  | .num n m e => if m = 0 then .inf n else .num n (stickyDiv (2 ^ 64) m) (-e - 65)

/-- Floor of the square root, one bit at a time from bit k - 1. -/
def isqrt : Nat → Nat → Nat → Nat
  | 0, _, r => r
  | k + 1, n, r => isqrt k n (if (r + 2 ^ k) * (r + 2 ^ k) ≤ n then r + 2 ^ k else r)

/-- 1 / √x to more than FP32's precision, with a sticky last bit (R137). -/
def frsqV (a : FVal) : FVal :=
  match a with
  | .nan => .nan
  | .inf n => if n then .nan else .num false 0 0
  | .num n m e =>
    if m = 0 then .inf n
    else if n then .nan
    else
      let m2 := if e % 2 = 0 then m else 2 * m
      let e2 := if e % 2 = 0 then e else e - 1
      let r := isqrt 61 (2 ^ 120 / m2) 0
      .num false (2 * r + (if r * r * m2 = 2 ^ 120 then 0 else 1)) (-(e2 / 2) - 61)

/-! ## D8 (R117-R119) -/

/-- Base decade of the row with z leading zeros (R117). -/
def d8Base (z : Nat) : Int :=
  match z with
  | 0 => -4 | 1 => -12 | 2 => 4 | 3 => -16 | 4 => 8 | 5 => -18 | _ => -19

/-- m * 2^e rounded to nearest at 11 significant bits (R118). -/
def rnd11 (m : Nat) (e : Int) : Nat × Int :=
  let q := (m.log2 : Int) + e - 10
  (quantize false m e q, q)

/-- The table value of a nonzero 7-bit body, as n * 2^q (R117, R118). -/
def d8Body (body : Nat) : Nat × Int :=
  let p := body.log2
  let z := 6 - p
  let fw := p / 2
  let e := body % 2 ^ p / 2 ^ fw
  let f := body % 2 ^ fw
  let d := (e : Int) + d8Base z
  let sig := 2 ^ fw + 9 * f
  if 0 ≤ d then rnd11 (sig * 10 ^ d.toNat) (-(fw : Int))
  else rnd11 (stickyDiv (sig * 2 ^ 100) (10 ^ (-d).toNat)) (-(fw : Int) - 101)

/-- The value of a D8 code. -/
def d8Dec (c : Nat) : FVal :=
  let body := c % 128
  if body = 0 then (if c / 128 % 2 = 0 then .num false 0 0 else .nan)
  else .num (decide (c / 128 % 2 = 1)) (d8Body body).1 (d8Body body).2

/-- The better of two candidate bodies for a magnitude, by distance, then by an even code (R119). -/
def d8Nearer (v : Nat) (best cand : Nat × Nat) : Nat × Nat :=
  let dist (t : Nat) : Nat := if t ≤ v then v - t else t - v
  if dist cand.2 < dist best.2 ∨ (dist cand.2 = dist best.2 ∧ cand.1 % 2 = 0) then cand else best

/-- The body that encodes a magnitude v, in units of 2^q, among the table and zero. -/
def d8Mag (rz : Bool) (q : Int) (v : Nat) : Nat :=
  let table := (List.range 127).map fun i =>
    (i + 1, (d8Body (i + 1)).1 * 2 ^ ((d8Body (i + 1)).2 - q).toNat)
  if rz then (table.foldl (fun b c => if c.2 ≤ v ∧ b.2 < c.2 then c else b) (0, 0)).1
  else (table.foldl (d8Nearer v) (0, 0)).1

/-- Encode a value into D8 (R119). -/
def d8Enc (rz : Bool) (v : FVal) : Nat :=
  match v with
  | .nan => 0x80
  | .inf n => b2n n * 128 + 7
  | .num n m e =>
    let q := min e (-120)
    let b := d8Mag rz q (m * 2 ^ (e - q).toNat)
    if b = 0 then 0 else b2n n * 128 + b

/-! ## Conversions (R130, R131, R143) -/

/-- The floating-point format of an FCVT code 0-4 (R97). -/
def cvtFmt (c : Nat) : FFmt :=
  match c with
  | 0 => fp32 | 1 => fp16 | 2 => bf16 | 3 => e4m3 | _ => e5m2

/-- The value that a source of FCVT code c and width w holds. -/
def cvtDec (c w v : Nat) : FVal :=
  match c with
  | 5 => d8Dec v
  | 6 => ofScaled (sextN v w) 0
  | 7 => ofScaled v 0
  | _ => fdec (cvtFmt c) v

/-- A value rounded to an integer. -/
def toInt (rz : Bool) (neg : Bool) (m : Nat) (e : Int) : Int :=
  (if neg then -1 else 1) * (quantize rz m e 0 : Int)

/-- An integer destination of w bits: in range, or the end of the range, or the indefinite value (R131). -/
def intRange (signed sat : Bool) (w : Nat) (v : Int) : Nat :=
  let lo : Int := if signed then -(2 ^ (w - 1) : Nat) else 0
  let hi : Int := if signed then (2 ^ (w - 1) : Nat) - 1 else (2 ^ w : Nat) - 1
  if lo ≤ v ∧ v ≤ hi then lowBits v w
  else if sat then lowBits (if v < lo then lo else hi) w
  else if signed then 2 ^ (w - 1) else 2 ^ w - 1

/-- A value converted to an integer of w bits (R131). -/
def cvtInt (signed rz sat : Bool) (w : Nat) (v : FVal) : Nat :=
  match v with
  | .nan => 0
  | .inf n => if sat then intRange signed true w (if n then -(2 ^ 65 : Nat) else (2 ^ 65 : Nat))
              else if signed then 2 ^ (w - 1) else 2 ^ w - 1
  | .num n m e => intRange signed sat w (toInt rz n m e)

/-- FCVT of a source value v of w bits into wd bits (R143). -/
def cvt (src dst w wd v : Nat) (rz sat : Bool) : Nat :=
  let x := cvtDec src w v
  match dst with
  | 5 => d8Enc rz x
  | 6 => cvtInt true rz sat wd x
  | 7 => cvtInt false rz sat wd x
  | _ => fenc (cvtFmt dst) rz sat x

/-! ## FP32 on slices (R142) -/

/-- An FP32 operand's value. -/
def State.fsrc (s : State) (a : Nat) : FVal := fdec fp32 (s.rd a 32)

/-- An FP32 form: the result, rounded once, lands with latency 5. -/
def fpOp (s : State) (o : OpP) (f : State → FVal) : Host.Outcome State Fault Refusal :=
  slot s (s.acts o.lc o.p) fun s => s.land (.range o.d 8) (rne fp32 (f s)) 5

def execFadd (o : OpP) (s : State) : Host.Outcome State Fault Refusal := fpOp s o fun s => fsum [s.fsrc o.a, s.fsrc o.b]
def execFsub (o : OpP) (s : State) : Host.Outcome State Fault Refusal :=
  fpOp s o fun s => fsum [s.fsrc o.a, (s.fsrc o.b).negate]
def execFmul (o : OpP) (s : State) : Host.Outcome State Fault Refusal := fpOp s o fun s => fmulV (s.fsrc o.a) (s.fsrc o.b)
/-- FMA reads d as it stood before the bundle and rounds once. -/
def execFma (o : OpP) (s : State) : Host.Outcome State Fault Refusal :=
  fpOp s o fun s => fsum [fmulV (s.fsrc o.a) (s.fsrc o.b), s.fsrc o.d]
def execFmin (o : OpP) (s : State) : Host.Outcome State Fault Refusal := fpOp s o fun s => fminV (s.fsrc o.a) (s.fsrc o.b)
def execFmax (o : OpP) (s : State) : Host.Outcome State Fault Refusal := fpOp s o fun s => fmaxV (s.fsrc o.a) (s.fsrc o.b)

/-- FSGN: magnitude of a, sign of b; NaN when a is a NaN (R132). -/
def execFsgn (o : OpP) (s : State) : Host.Outcome State Fault Refusal :=
  slot s (s.acts o.lc o.p) fun s =>
    s.land (.range o.d 8)
      (if (s.fsrc o.a).isNan then 0x7FC00000 else s.rd o.a 32 % 2 ^ 31 + s.rd o.b 32 / 2 ^ 31 * 2 ^ 31) 5

def execFcmp (o : OpP) (s : State) : Host.Outcome State Fault Refusal :=
  slot s (s.acts o.lc o.p) fun s => s.landGate (o.d % 16) (fcmpHolds (o.d / 16) (s.fsrc o.a) (s.fsrc o.b)) 5

def execFrcp (o : OpP) (s : State) : Host.Outcome State Fault Refusal := fpOp s o fun s => frcpV (s.fsrc o.a)
def execFrsq (o : OpP) (s : State) : Host.Outcome State Fault Refusal := fpOp s o fun s => frsqV (s.fsrc o.a)

def execFcvt (o : OpW) (s : State) : Host.Outcome State Fault Refusal :=
  slot s (s.acts o.lc o.p) fun s =>
    s.land (.range o.d (o.wd / 4))
      (cvt (o.b % 8) (o.b / 8 % 8) (wBits o.w) o.wd (s.rd o.a (wBits o.w)) (decide (64 ≤ o.b)) o.x) 5

end Sys2Proof.Machine
end

