-- ==== Sys2Proof/Machine/Port.lean ====
section
/-! DEFINITION. The task port: what each access does when it performs, the bin lock bits, and the order in which a port performs
its accesses (spec/05_cw_slice_control_isa.md R147-R151, R166; spec/01_cw_execution_model.md R38-R45;
spec/07_cw_engine_isa.md R225-R230, R235; spec/09_cw_memory_model.md R305). -/

namespace Sys2Proof.Machine

/-! ## Lock bits (R150) -/

/-- The lock bit of a local address of a core: its bank's core, bank and bit; none for the granary. -/
def lockOf (core a : Nat) : Option Nat :=
  match localPlace core a with
  | (.bin c, off) =>
    let o := off % 0xC000
    some (c * 1024 + off / 0xC000 * 64 + (bits o 4 6 ^^^ bits o 10 6))
  | _ => none

/-- A task holds a lock bit. -/
def Lock.heldBy (l : Lock) (tk : Nat) : Bool := l.held && !l.byCell && decide (l.holder = tk)

/-- A request for the bit proceeds at once: it is free and nobody waits, or the requester holds it (R150). -/
def Lock.openTo (l : Lock) (tk : Nat) : Bool := l.heldBy tk || (!l.held && l.waiters.isEmpty)

/-- Take a lock bit for a task. -/
def State.takeLock (s : State) (k tk : Nat) : State :=
  s.modLock k fun l => if l.heldBy tk then l else { l with held := true, byCell := false, holder := tk, cycles := 0 }

/-- Free a lock bit that the task holds. -/
def State.freeLock (s : State) (k tk : Nat) : State :=
  s.modLock k fun l => if l.heldBy tk then { l with held := false, holder := 0, cycles := 0 } else l

/-! ## Job cards, futures and rings (R38-R44, R227, R228) -/

/-- Size of the next sheaf (R44). -/
def sheafSize (n total minsheaf takers : Nat) : Nat :=
  let rem := total - n
  let k := max takers 1
  min rem (max (max minsheaf 1) ((rem + 2 * k - 1) / (2 * k)))

/-- DRAW on the card at a local address: start, size, and the state after (R44). -/
def State.drawCard (s : State) (core a : Nat) : Nat × Nat × State :=
  let n := s.readLocal core a 4
  let t := s.readLocal core (a + 4) 4
  if t ≤ n then (n, 0, s)
  else
    let size := sheafSize n t (s.readLocal core (a + 8) 4) (s.readLocal core (a + 12) 2)
    (n, size, s.writeLocal core a 4 (n + size))

/-- Wait-well entries that a die's tasks hold, and those of one field (R40). -/
def State.wellUse (s : State) (p : Nat → Bool) : Nat :=
  (s.tasks.filter fun x => x.2.well.isSome && p (coreOf x.1)).length

/-- The well has room for one more task of the core (R40). -/
def State.wellRoom (s : State) (core : Nat) : Bool :=
  decide (s.wellUse (fun c => decide (dieOf c = dieOf core)) < 4096) &&
  (match s.fieldOf core with
   | some k => decide (s.wellUse (fun c => decide (s.fieldOf c = some k)) < (s.field k).wwlim)
   | none => true)

/-- Wake one task parked on a future: its value and gate land through its landing buffer (R39, R57). -/
def Task.fillWell (t : Task) (a v : Nat) : Task :=
  match t.well with
  | some w =>
    if w.addr = a then
      let t1 := { t.fillRet w.ret v true with well := none }
      if t1.waits .waitf then t1.wake t1.pc else t1
    else t
  | none => t

/-- FPUT of a value to the future at a local address (R39). -/
def State.fillFuture (s : State) (core a v : Nat) : State :=
  let full := decide (s.readLocal core (a + 8) 1 % 2 = 1)
  let s1 := (s.writeLocal core a 8 v).writeLocal core (a + 8) 1 (s.readLocal core (a + 8) 1 / 2 * 2 + 1)
  if full then s1
  else
    { s1 with tasks := Sparse.mapAll {} (fun k t => if dieOf (coreOf k) = dieOf core then t.fillWell a v else t) s1.tasks }

/-- A ring's control block as read (R227). -/
structure Ring where
  tail : Nat
  take : Nat
  done : Nat
  lg : Nat
  slotsize : Nat
  slots : Nat
  deriving DecidableEq, Repr

def State.ring (s : State) (core a : Nat) : Ring :=
  ⟨s.readLocal core a 4, s.readLocal core (a + 4) 4, s.readLocal core (a + 8) 4, s.readLocal core (a + 12) 1,
    s.readLocal core (a + 16) 4, s.readLocal core (a + 20) 4⟩

/-- Address of ticket t's slot; one past 2^32 lies in no region, and the block is invalid (R227). -/
def Ring.slotaddr (r : Ring) (t : Nat) : Nat := r.slots + t % 2 ^ r.lg * r.slotsize

/-- The block is valid (R227): every stamp lies in a permitted region. -/
def State.ringOk (s : State) (core : Nat) (r : Ring) : Bool :=
  decide (r.lg ≤ 16) && decide (r.slotsize ≠ 0) && decide (r.slotsize % 4 = 0) && decide (r.slots % 4 = 0) &&
  (List.range (2 ^ r.lg)).all fun t => (s.chk core (r.slotaddr t) 4).isNone

/-- How many tickets from take up are published (R228). -/
def State.published (s : State) (core : Nat) (r : Ring) : Nat → Nat → Nat
  | 0, n => n
  | m + 1, n =>
    let t := (r.take + n) % 2 ^ 32
    if t ≠ r.tail ∧ s.readLocal core (r.slotaddr t) 4 = (t + 1) % 2 ^ 32 then s.published core r m (n + 1) else n

/-- The value that RESV and RTAKE return for an invalid block. -/
def ringBad : Nat := 2 ^ 64 - 1

/-! ## Atomics (R229, R230) -/

/-- The new value of atomic op (opcode minus 0x20), or none where nothing is written. -/
def atomicNew (op n old x xe : Nat) : Option Nat :=
  let sg (v : Nat) : Int := sextN v (8 * n)
  match op with
  | 0 => some ((old + x) % 2 ^ (8 * n))
  | 1 => some (if sg x < sg old then x else old)
  | 2 => some (if sg old < sg x then x else old)
  | 3 => some (min old x)
  | 4 => some (max old x)
  | 5 => some (old &&& x)
  | 6 => some (old ||| x)
  | 7 => some (old ^^^ x)
  | 8 => some x
  | 9 => if old = xe then some x else none
  | 10 => none
  | _ => some x

/-! ## The order of a port's accesses (R292, R295, R297) -/

/-- An acquire: later accesses of the port perform after it. An ACAS with failure order .acq is one until it has performed, since it may
fail (R231). -/
def AccKind.acquires : AccKind → Bool
  | .ldl _ | .waitf _ | .draw | .rtake _ => true
  | .atomic op _ _ _ ord ford _ => decide (ord = 1 ∨ 3 ≤ ord ∨ (op = 9 ∧ ford = 1))
  | .hold _ kind _ => decide (kind ≠ 2)
  | _ => false

/-- A release: it performs after every earlier access of the port. -/
def AccKind.releases : AccKind → Bool
  | .stu _ _ | .fput _ | .publ _ | .dec _ | .mark _ true => true
  | .atomic _ _ _ _ ord _ _ => decide (2 ≤ ord)
  | .hold _ kind _ => decide (kind = 0 ∨ kind = 2)
  | _ => false

/-- A release fence: later stores, atomics, requests and E commands perform after it (R166, R298). -/
def AccKind.bars : AccKind → Bool
  | .hold _ kind _ => decide (kind = 0 ∨ kind = 2)
  | _ => false

/-- An acquire fence: it performs after every earlier load, atomic and WAITF (R166, R298). -/
def AccKind.gathers : AccKind → Bool
  | .hold _ kind _ => decide (kind ≤ 1)
  | _ => false

/-- Accesses of a port up to the last that a queue command issued now comes after (R295, R299): acquires, releases and fences. -/
def orderedLen (l : List Access) : Nat := (l.reverse.dropWhile fun a => !(a.kind.acquires || a.kind.releases)).length

/-! ## Performing an access -/

/-- The number of bytes an access reads or writes at its address, and whether it reads and writes, for watchpoints (R380). PUBL's stamp and
RTAKE's stamps are watched where they are accessed. -/
def AccKind.extent : AccKind → Nat × Bool × Bool
  | .ld n => (n, true, false)
  | .ldl n => (n, true, false)
  | .st n _ => (n, false, true)
  | .stu n _ => (n, false, true)
  | .spill nib n _ => ((nib + n + 1) / 2, false, true)
  | .fill nib n => ((nib + n + 1) / 2, true, false)
  | .hld => (32, true, false)
  | .hst _ => (32, false, true)
  | .waitf _ => (16, true, false)
  | .fput _ => (16, false, true)
  | .draw => (64, true, true)
  | .resv => (64, true, true)
  | .publ _ => (64, true, false)
  | .rtake _ => (64, true, true)
  | .atomic _ size _ _ _ _ _ => (2 ^ size, true, true)
  | .dec _ => (0, false, false)
  | .hold _ _ _ => (0, false, false)
  | .mark _ _ => (0, false, false)

/-- What comes after a release fence: stores, atomics, requests and E commands (R166, R298). -/
def AccKind.barred : AccKind → Bool
  | .hld | .dec _ | .mark _ _ => true
  | k => k.extent.2.2

/-- A value and a gate bit come back for a return. -/
def State.answer (s : State) (tk : Nat) (ret : Option Nat) (v : Nat) (g : Bool) : State :=
  match ret with
  | some n => s.modTask tk fun t => t.fillRet n v g
  | none => s

/-- What an access does when it performs, the lock bits and watchpoints apart. -/
def State.doAccess (s : State) (tk : Nat) (a : Access) : State :=
  let c := coreOf tk
  match a.kind with
  | .ld n => s.answer tk a.ret (s.readLocal c a.addr n) false
  | .ldl n => s.answer tk a.ret (s.readLocal c a.addr n) false
  | .st n v => s.writeLocal c a.addr n v
  | .stu n v => s.writeLocal c a.addr n v
  | .spill nib n v =>
    let nb := (nib + n + 1) / 2
    s.writeLocal c a.addr nb (insertField (s.readLocal c a.addr nb) v (4 * nib) (4 * n))
  | .fill nib n => s.answer tk a.ret (bits (s.readLocal c a.addr ((nib + n + 1) / 2)) (4 * nib) (4 * n)) false
  | .hld => s.answer tk a.ret (s.readLocal c a.addr 32) false
  | .hst v => s.writeLocal c a.addr 32 v.toNat
  | .waitf g =>
    if s.readLocal c (a.addr + 8) 1 % 2 = 1 then s.answer tk a.ret (s.readLocal c a.addr 8) true
    else if s.wellRoom c then
      s.modTask tk fun t =>
        match t.rets.find? (fun r => a.ret = some r.id) with
        | some r => { t with st := if t.st = .runnable then .parked else t.st, kind := .waitf, well := some ⟨a.addr, (r.rng.getD (0, 0)).1, g, r.id⟩ }
        | none => t
    else match a.ret with
      | some n => s.modTask tk fun t => t.gateRet n
      | none => s
  | .fput v => s.fillFuture c a.addr v
  | .draw =>
    let d := s.drawCard c a.addr
    d.2.2.answer tk a.ret (d.1 + d.2.1 * 2 ^ 32) false
  | .resv =>
    let r := s.ring c a.addr
    if !s.ringOk c r then s.answer tk a.ret ringBad false
    else if (r.tail + 2 ^ 32 - r.done) % 2 ^ 32 ≥ 2 ^ r.lg then s.answer tk a.ret (0xFFFFFFFF * 2 ^ 32 + r.tail) false
    else (s.writeLocal c a.addr 4 (r.tail + 1)).answer tk a.ret (r.slotaddr r.tail * 2 ^ 32 + r.tail) false
  | .publ t =>
    let r := s.ring c a.addr
    if s.ringOk c r then (s.watchLocal c (ctxOf tk) (some tk) (r.slotaddr t) 4 false true).writeLocal c (r.slotaddr t) 4 (t + 1) else s
  | .rtake m =>
    let r := s.ring c a.addr
    if !s.ringOk c r then s.answer tk a.ret ringBad false
    else
      let n := s.published c r m 0
      let seen := if (r.take + n) % 2 ^ 32 = r.tail then n else min m (n + 1)
      let s1 := (List.range seen).foldl (fun s i =>
        s.watchLocal c (ctxOf tk) (some tk) (r.slotaddr ((r.take + i) % 2 ^ 32)) 4 true false) s
      (s1.writeLocal c (a.addr + 4) 4 (r.take + n)).answer tk a.ret (n * 2 ^ 32 + r.take) false
  | .atomic op size x xe _ _ _ =>
    let n := 2 ^ size
    let old := s.readLocal c a.addr n
    let s1 := match atomicNew op n old x xe with
      | some v => s.writeLocal c a.addr n v
      | none => s
    s1.answer tk a.ret old false
  | .dec dc => s.decCounter c dc
  | .hold _ _ _ => s
  | .mark _ _ => s

/-- An access performs whole: its lock bit is taken or freed, its watchpoints are judged (R150, R230, R380). -/
def State.performWhole (s : State) (tk : Nat) (a : Access) : State :=
  let c := coreOf tk
  let e := a.kind.extent
  let s1 := s.watchLocal c (ctxOf tk) (some tk) a.addr e.1 e.2.1 e.2.2
  match a.kind, lockOf c a.addr with
  | .ldl _, some k => (s1.takeLock k tk).doAccess tk a
  | .stu _ _, some k => (s1.doAccess tk a).freeLock k tk
  | _, _ => s1.doAccess tk a

/-! ## Accesses in pieces (R148, R235) -/

/-- The single-copy-atomic pieces of an access, by offset and length: the whole of an aligned access of 1, 2, 4 or 8 bytes, single bytes of any
other slice-memory access (R148), and four times 8 bytes of HLD and HST (R235). -/
def Access.pieces (a : Access) : List (Nat × Nat) :=
  let n := a.kind.extent.1
  match a.kind with
  | .ld _ | .ldl _ | .st _ _ | .stu _ _ | .spill _ _ _ | .fill _ _ =>
    if [1, 2, 4, 8].contains n && decide (a.addr % n = 0) then [(0, n)] else (List.range n).map fun i => (i, 1)
  | .hld | .hst _ => [0, 8, 16, 24].map fun i => (i, 8)
  | _ => [(0, n)]

/-- The pieces of an access that have not performed. -/
def Access.rest (a : Access) : List (Nat × Nat) := a.pieces.filter fun p => !a.did.any fun d => decide (d.1 = p.1)

/-- The bytes that a store leaves at its address, as one value. -/
def State.stored (s : State) (core : Nat) (a : Access) : Option Nat :=
  match a.kind with
  | .st _ v | .stu _ v => some v
  | .spill nib n v => some (insertField (s.readLocal core a.addr ((nib + n + 1) / 2)) v (4 * nib) (4 * n))
  | .hst v => some v.toNat
  | _ => none

/-- One piece of an access performs: a store's bytes are written, or a load's are read and kept (R148). -/
def State.piece (s : State) (tk : Nat) (a : Access) (p : Nat × Nat) : State × Access :=
  let c := coreOf tk
  let s1 := match a.kind, lockOf c a.addr with
    | .ldl _, some k => s.takeLock k tk
    | _, _ => s
  (match s1.stored c a with
    | some v => s1.writeLocal c (a.addr + p.1) p.2 (bits v (8 * p.1) (8 * p.2))
    | none => s1,
   { a with did := a.did ++ [(p.1, s1.readLocal c (a.addr + p.1) p.2)] })

/-- The value of a load whose pieces have all performed. -/
def Access.gathered (a : Access) : Nat :=
  let v := (a.did.map fun d => d.2 * 2 ^ (8 * d.1)).sum
  match a.kind with
  | .fill nib n => bits v (4 * nib) (4 * n)
  | _ => v

/-- The last piece of an access has performed: its watchpoints are judged, a load's value returns, STU frees its lock bit. -/
def State.endPieces (s : State) (tk : Nat) (a : Access) : State :=
  let c := coreOf tk
  let e := a.kind.extent
  let s1 := s.watchLocal c (ctxOf tk) (some tk) a.addr e.1 e.2.1 e.2.2
  match a.kind, lockOf c a.addr with
  | .stu _ _, some k => s1.freeLock k tk
  | _, _ => s1.answer tk a.ret a.gathered false

/-- An access performs: whole, or, when some of its pieces have performed, the rest of them. -/
def State.perform (s : State) (tk : Nat) (a : Access) : State :=
  if a.did.isEmpty then s.performWhole tk a
  else
    let r := a.rest.foldl (fun x p => x.1.piece tk x.2 p) (s, a)
    r.1.endPieces tk r.2

/-- The lock bit that an access needs before it performs: LDL's, and that of an atomic in a bin (R150, R230). -/
def lockNeed (core : Nat) (a : Access) : Option Nat :=
  match a.kind with
  | .ldl _ => lockOf core a.addr
  | .atomic _ _ _ _ _ _ _ => lockOf core a.addr
  | _ => none

/-! ## Requests in fq (R154) -/

/-- Words of the request whose control word is w (R154). -/
def reqLen (w : Word64) : Nat :=
  let op := bits w.toNat 0 4
  if 12 ≤ op then 1 else if op = 0 then 2 else if op = 11 then 4 else 3

/-- Complete requests at the head of fq. -/
def completeReqs : Nat → List Word64 → Nat
  | 0, _ => 0
  | _, [] => 0
  | n + 1, w :: l => if reqLen w ≤ (w :: l).length then 1 + completeReqs n ((w :: l).drop (reqLen w)) else 0

/-- Complete requests waiting in a task's fq. -/
def Task.fqComplete (t : Task) : Nat := completeReqs t.fq.length t.fq

/-- Numbers of the complete requests in a task's fq, oldest first: the last ones pushed, but for those that ended there. -/
def Task.fqNums (t : Task) : List Nat :=
  ((((List.range (t.fqComplete + t.gone.length)).map fun i => t.reqNo - 1 - i).filter fun n => !t.gone.contains n).take t.fqComplete).reverse

/-- Some request numbered below n has not ended (R305). -/
def Task.owes (t : Task) (n : Nat) : Bool :=
  t.reqs.any (fun r => decide (r.num < n)) || t.fqNums.any fun k => decide (k < n)

/-- An access of the task's port, or a request it pushed whole, has not performed (R288, R358). -/
def Task.accessOwed (t : Task) : Bool := !t.port.isEmpty || !t.reqs.isEmpty || decide (0 < t.fqComplete)

/-! ## The order of the port -/

/-- One access fewer to come before, when access i of the port has performed. -/
def nearer (i n : Nat) : Nat := if i < n then n - 1 else n

/-- Access i leaves the port: what came after it, match operations, queue commands and words sent, is one access nearer. -/
def State.dropPort (s : State) (tk i : Nat) : State :=
  let s0 := { s with
    rx := { s.rx with ops := s.rx.ops.map fun (o : RxReq) => if o.task = tk then { o with behind := nearer i o.behind } else o }
    mesh := s.mesh.map fun (m : MeshWord) => if m.src = some tk then { m with behind := nearer i m.behind } else m }
  let s1 := s0.modTask tk fun t => { t with port := t.port.eraseIdx i, waitLock := if i = 0 then none else t.waitLock }
  (List.range 16).foldl (fun s e => s.modCmd (cmdAt tk e) fun c => { c with behind := nearer i c.behind, rel := nearer i c.rel }) s1

/-- The oldest access leaves the port. -/
def State.popPort (s : State) (tk : Nat) : State := s.dropPort tk 0

/-- The access waits for responses (R166, R305). -/
def Task.held (t : Task) (a : Access) : Bool :=
  match a.kind with
  | .hold n _ _ => t.owes n
  | _ => false

/-- A .sc atomic of wheel cycle n that waits in another task's port comes before this one: each performs before any later one (R304). -/
def State.scWaits (s : State) (tk : Nat) (a : Access) : Bool :=
  match a.kind with
  | .atomic _ _ _ _ 4 _ n =>
    s.tasks.any fun x => decide (x.1 ≠ tk) && x.2.port.any fun b => match b.kind with | .atomic _ _ _ _ 4 _ m => decide (m < n) | _ => false
  | _ => false

/-- The access may not perform now: it waits for a request's response, for an earlier .sc atomic, or for the accesses of an earlier version
of the field (R166, R303, R304). -/
def State.accWaits (s : State) (tk : Nat) (a : Access) : Bool := (s.task tk).held a || s.scWaits tk a || s.verHold (coreOf tk)

/-- The oldest access of a task's port could perform now, though no lock bit's grant is to come for it. -/
def State.portOpen (s : State) (tk : Nat) : Bool :=
  let t := s.task tk
  match t.port with
  | [] => false
  | a :: _ => !t.lag && t.waitLock.isNone && !s.accWaits tk a

/-- Perform the port's accesses, oldest first, up to one that must wait or that needs a lock bit. -/
def State.drainPort : Nat → Nat → State → State
  | 0, _, s => s
  | n + 1, tk, s =>
    let t := s.task tk
    match t.port with
    | [] => s
    | a :: _ =>
      if t.waitLock.isSome || s.accWaits tk a then s
      else match lockNeed (coreOf tk) a with
        | some k =>
          if (s.lockBit k).openTo tk then State.drainPort n tk ((s.perform tk a).popPort tk)
          else (s.modTask tk fun t => { t with waitLock := some k }).modLock k fun l =>
            { l with waiters := l.waiters ++ [(false, tk, 0)] }
        | none => State.drainPort n tk ((s.perform tk a).popPort tk)

/-- After accesses that performed outside a bundle: a WAITF that parked its task captures its results (R31), and a HOLD or an asynchronous
fault that waited for the WAITF's bundle to end comes now (R54, R56). -/
def State.afterPort (s : State) (tk : Nat) : State :=
  if (s.task tk).st = .parked then (s.modTask tk Task.capture).takeAsyncs tk else s

/-- Drain a port outside a bundle. -/
def State.drain (s : State) (tk : Nat) : State :=
  if (s.task tk).lag then s.afterPort tk else (State.drainPort (s.task tk).port.length tk s).afterPort tk

/-- An access is issued: it performs at once unless the port holds it. -/
def State.access (s : State) (a : Access) : State :=
  let s1 := s.modTask s.me fun t => { t with port := t.port ++ [a] }
  if (s.task s.me).lag then s1 else State.drainPort (s1.task s.me).port.length s.me s1

/-- Storage, offset and length of n bytes at a local address. -/
def spanAt (core a n : Nat) : Space × Nat × Nat := ((localPlace core a).1, (localPlace core a).2, n)

/-- What an access reads or writes: its bytes, and PUBL's stamp and the stamps that RTAKE may read (R227, R228). -/
def State.spans (s : State) (core : Nat) (a : Access) : List (Space × Nat × Nat) :=
  let r := s.ring core a.addr
  let stamp (t : Nat) := spanAt core (r.slotaddr t) 4
  spanAt core a.addr a.kind.extent.1 ::
    (if !s.ringOk core r then [] else match a.kind with
      | .publ t => [stamp t]
      | .rtake m => (List.range m).map fun i => stamp ((r.take + i) % 2 ^ 32)
      | _ => [])

/-- Two accesses of a port have bytes in common. -/
def State.accMeets (s : State) (core : Nat) (a b : Access) : Bool :=
  (s.spans core a).any fun x => (s.spans core b).any fun y =>
    decide (x.1 = y.1) && decide (x.2.1 < y.2.1 + y.2.2) && decide (y.2.1 < x.2.1 + x.2.2)

/-- Access a comes after an earlier access b of its port: they overlap, b is an acquire or a a release, b is a release fence and a no load, or
a is an acquire fence and b no store (R292, R295, R298). -/
def State.comesAfter (s : State) (core : Nat) (a b : Access) : Bool :=
  s.accMeets core a b || b.kind.acquires || a.kind.releases || (b.kind.bars && a.kind.barred) || (a.kind.gathers && b.kind.extent.2.1)

/-- Where PUBL's stamp lies is not known while an access before it may write its block. -/
def State.unknownStamp (s : State) (core : Nat) (l : List Access) (b : Access) : Bool :=
  match b.kind with
  | .publ _ => l.any (s.accMeets core b)
  | _ => false

/-- Access a comes after some earlier access of its port, those being l. -/
def State.ordered (s : State) (core : Nat) (l : List Access) (a : Access) : Bool :=
  l.zipIdx.any fun x => s.comesAfter core a x.1 || s.unknownStamp core (l.take x.2) x.1

/-- Access i of a port may perform: nothing orders it after an earlier one, and its lock bit, if it needs one, is open (R292, R293). -/
def State.mayPerform (s : State) (tk i : Nat) (a : Access) : Bool :=
  let t := s.task tk
  !(t.waitLock.isSome && decide (i = 0)) && !s.accWaits tk a && !s.ordered (coreOf tk) (t.port.take i) a &&
    match lockNeed (coreOf tk) a with
    | some k => (s.lockBit k).openTo tk
    | none => true

/-- Access i of a port performs, where it is there and may. -/
def State.performAt (s : State) (tk i : Nat) : State :=
  match (s.task tk).port[i]? with
  | none => s
  | some a => if s.mayPerform tk i a then ((s.perform tk a).dropPort tk i).afterPort tk else s

/-- Piece j of access i of a port performs alone, where the access may and is made of more than one (R148, R235). -/
def State.pieceAt (s : State) (tk i j : Nat) : State :=
  match (s.task tk).port[i]? with
  | none => s
  | some a =>
    match a.rest[j]? with
    | none => s
    | some p =>
      if a.pieces.length < 2 || !s.mayPerform tk i a then s
      else
        let r := s.piece tk a p
        if r.2.rest.isEmpty then ((r.1.endPieces tk r.2).dropPort tk i).afterPort tk
        else r.1.modTask tk fun t => { t with port := t.port.set i r.2 }

/-- An access with a return into n slices from d (R71). -/
def State.accessRet (s : State) (k : AccKind) (addr d n : Nat) : State :=
  let id := (s.task s.me).nextRet
  (s.modTask s.me fun t => t.addRet (some (d, n)) none none).access ⟨k, addr, some id, []⟩

/-- A value that returns through the landing buffer without an access (R71): FIFO pops, status and register reads. -/
def State.returnNow (s : State) (d n v : Nat) : State :=
  s.modTask s.me fun t => (t.addRet (some (d, n)) none none).fillRet t.nextRet v false

end Sys2Proof.Machine
end

