-- ==== Sys2Proof/Machine/SliceMem.lean ====
section
/-! DEFINITION. Slice memory, FIFOs and handle fields of the A class (spec/05_cw_slice_control_isa.md R147-R156). -/

namespace Sys2Proof.Machine

/-! ## LD, ST, LDL, STU, SPILL, FILL -/

/-- Byte address of LD, ST, LDL and STU (R149). -/
def State.memAddr (s : State) (o : OpI) : Nat := lowBits ((s.rd o.a 32 : Int) + o.imm) 32

/-- Bytes of the access. -/
def memBytes (o : OpI) : Nat := wBits o.w / 8

/-- Nibble address of SPILL and FILL (R151). -/
def State.nibAddr (s : State) (o : OpI) : Nat := lowBits (2 * (s.rd o.a 32 : Int) + o.imm) 33

/-- LD's and ST's check. -/
def ldCause (o : OpI) (s : State) : Option (Cause × Nat) := s.chkCause (s.memAddr o) (memBytes o)

/-- LDL's and STU's: a bin region, and one aligned 16-byte granule (R150). -/
def ldlCause (o : OpI) (s : State) : Option (Cause × Nat) :=
  let a := s.memAddr o
  let info := memBytes o * 2 ^ 32 + a
  firstCause [s.chkCause a (memBytes o), when_ (decide (a / 16 ≠ (a + memBytes o - 1) / 16)) .accessBound info,
    when_ (decide (0x10000000 ≤ a ∧ a < 0x16000000)) .accessProt info]

/-- SPILL's and FILL's check of the bytes they touch (R78). -/
def spillCause (o : OpI) (s : State) : Option (Cause × Nat) :=
  let n := s.nibAddr o
  s.chkCause (n / 2) ((n + wBits o.w / 4 - 1) / 2 - n / 2 + 1)

def execLd (o : OpI) (s : State) : Host.Outcome State Fault Refusal :=
  slotOr s (s.acts o.lc o.p) (ldCause o s) fun s => s.accessRet (.ld (memBytes o)) (s.memAddr o) o.d (wBits o.w / 4)

def execSt (o : OpI) (s : State) : Host.Outcome State Fault Refusal :=
  slotOr s (s.acts o.lc o.p) (ldCause o s) fun s =>
    s.access ⟨.st (memBytes o) (s.rd o.d (wBits o.w)), s.memAddr o, none, []⟩

def execLdl (o : OpI) (s : State) : Host.Outcome State Fault Refusal :=
  slotOr s (s.acts o.lc o.p) (ldlCause o s) fun s => s.accessRet (.ldl (memBytes o)) (s.memAddr o) o.d (wBits o.w / 4)

def execStu (o : OpI) (s : State) : Host.Outcome State Fault Refusal :=
  slotOr s (s.acts o.lc o.p) (ldlCause o s) fun s =>
    s.access ⟨.stu (memBytes o) (s.rd o.d (wBits o.w)), s.memAddr o, none, []⟩

def execSpill (o : OpI) (s : State) : Host.Outcome State Fault Refusal :=
  slotOr s (s.acts o.lc o.p) (spillCause o s) fun s =>
    s.access ⟨.spill (s.nibAddr o % 2) (wBits o.w / 4) (s.rd o.d (wBits o.w)), s.nibAddr o / 2, none, []⟩

def execFill (o : OpI) (s : State) : Host.Outcome State Fault Refusal :=
  slotOr s (s.acts o.lc o.p) (spillCause o s) fun s =>
    s.accessRet (.fill (s.nibAddr o % 2) (wBits o.w / 4)) (s.nibAddr o / 2) o.d (wBits o.w / 4)

/-! ## FIFOs (R152-R154) -/

/-- Words waiting in a task's vout: those of the mesh that have not left it. -/
def State.voutWords (s : State) (tk : Nat) : List MeshWord := s.mesh.filter fun m => m.vout && decide (m.src = some tk)

/-- The words of vin: the FIFO of the channel bound before the bundle, empty without a binding (R152). -/
def State.vin (s : State) : List Word64 :=
  match s.issue.vc with
  | some n => (s.tile s.myCore).vc n
  | none => []

/-- The FIFO that a PUSH names has room. -/
def State.pushRoom (s : State) (tk fifo : Nat) : Bool :=
  if fifo = 1 then decide ((s.voutWords tk).length < 8) else decide ((s.task tk).fq.length < 16)

/-- The FIFO that a POP names holds a word. -/
def State.popWord (s : State) (fifo : Nat) : Bool :=
  if fifo = 0 then !s.vin.isEmpty else !(s.task s.me).fr.isEmpty

/-- Destination core and channel of a VOUTDST value (R168). -/
def voutCore (v : Word32) : Nat := bits v.toNat 16 2 * 256 + bits v.toNat 8 8
def voutVc (v : Word32) : Nat := v.toNat % 32

/-- The scope of a word's release: SCOPE of VOUTDST, where 5 acts as 4 (R168). Codes 6 and 7, which the table gives no meaning, are kept and
act as group scope, the widest (DESIGN CHOICE, log 95). -/
def voutScope (v : Word32) : Nat := if bits v.toNat 29 3 = 5 then 4 else bits v.toNat 29 3

/-- A word enters fq; a request that it completes is numbered (R154). -/
def Task.pushFq (t : Task) (w : Word64) : Task :=
  let t1 := { t with fq := t.fq ++ [w] }
  if t1.fqComplete = t.fqComplete then t1 else { t1 with reqNo := t.reqNo + 1 }

/-- The control word of the last complete request in fq. -/
def lastCtl : Nat → List Word64 → Word64
  | 0, _ => 0
  | _, [] => 0
  | n + 1, w :: l => if reqLen w < (w :: l).length then lastCtl n ((w :: l).drop (reqLen w)) else w

def execPush (o : OpP) (s : State) : Host.Outcome State Fault Refusal :=
  slot s (s.acts o.lc o.p) fun s =>
    let w : Word64 := BitVec.ofNat 64 (s.rd o.a (wBits o.w))
    let t := s.task s.me
    if !s.pushRoom s.me o.b then s
    else if o.b = 1 then s.send (some s.me) (voutCore s.issue.voutdst) (voutVc s.issue.voutdst) w true (voutScope s.issue.voutdst)
    else
      let t1 := t.pushFq w
      let s1 := s.modTask s.me fun _ => t1
      if t1.reqNo = t.reqNo then s1
      else
        let ord := bits (lastCtl 16 t1.fq).toNat 8 3
        let rel := decide (ord = 2 ∨ ord = 3)
        let s2 := if rel || t.port.any (fun a => a.kind.acquires || a.kind.bars) then s1.access ⟨.mark t.reqNo rel, 0, none, []⟩ else s1
        if ord = 1 ∨ ord = 3 then s2.access ⟨.hold (t.reqNo + 1) 3 5, 0, none, []⟩ else s2

def execPop (o : OpP) (s : State) : Host.Outcome State Fault Refusal :=
  slot s (s.acts o.lc o.p) fun s =>
    if !s.popWord o.b then s
    else if o.b = 0 then
      match s.issue.vc with
      | some n =>
        (s.modTile s.myCore fun t => { t with vcs := Sparse.set [] t.vcs n (t.vc n).tail }).returnNow o.d (wBits o.w / 4)
          (s.vin.headD 0).toNat
      | none => s
    else
      (s.modTask s.me fun t => { t with fr := t.fr.tail }).returnNow o.d (wBits o.w / 4) ((s.task s.me).fr.headD 0).toNat

/-! ## Handle fields (R156) -/

/-- A handle with field b replaced. -/
def hWithField (h : Handle) (b v : Nat) : Handle :=
  BitVec.ofNat 256 (insertField h.toNat v (hField b).1 (hField b).2)

def execHfld (o : OpP) (s : State) : Host.Outcome State Fault Refusal :=
  slot s (s.acts o.lc o.p) fun s =>
    let v := hBits (s.hnd o.a) o.b
    s.landInt o.d (wBits o.w) (extend (decide (13 ≤ o.b ∧ o.b ≤ 16)) v 26) 1

def execHfset (o : OpP) (s : State) : Host.Outcome State Fault Refusal :=
  slot s (s.acts o.lc o.p) fun s =>
    s.modTask s.me fun t => { t with hs := Sparse.set 0 t.hs o.d (hWithField (hGet t.hs o.d) o.b (s.rd o.a (wBits o.w))) }

end Sys2Proof.Machine
end

