-- ==== Sys2Proof/Machine/Tokens.lean ====
section
/-! DEFINITION. Tokens, bindings, counters, job cards, futures, rings, atomics, whole handles, RSYN and TINV of the E class
(spec/07_cw_engine_isa.md R221-R231, R235-R239). -/

namespace Sys2Proof.Machine

/-! ## SIG and SIGM (R221, R222) -/

/-- An ACCESS_PROT that no address caused. -/
def State.protFree (s : State) (b : Bool) : Option (Cause × Nat) := when_ b .accessProt (Config.freeInfo s.fresh)

/-- The word that SIG and SIGM deliver. -/
def State.sigWord (s : State) (payload : Nat) : Word64 :=
  BitVec.ofNat 64 (payload % 2 ^ 32 + moduleTile s.myCore * 2 ^ 32 + ctxOf s.me * 2 ^ 42)

def sigCause (sl : Nat) (s : State) : Option (Cause × Nat) := s.protFree (decide (143 < bits (s.rd sl 64) 32 8))

def execSig (lc : LoopCond) (vc sl scope : Nat) (s : State) : Host.Outcome State Fault Refusal :=
  slotOr s (s.acts lc Pred.always) (sigCause sl s) fun s =>
    let v := s.rd sl 64
    s.send (some s.me) (bits v 40 2 * 256 + bits v 32 8) vc (s.sigWord v) false scope

/-- The cores of a rectangle of the issuing field, given in the high half of a slice operand; none if it is empty or reaches
outside the field (R215). -/
def State.rectangle (s : State) (v : Nat) : Option (List Nat) :=
  match s.fieldOf s.myCore with
  | none => none
  | some k =>
    let f := s.field k
    let x0 := bits v 32 8; let y0 := bits v 40 8; let w := bits v 48 8; let h := bits v 56 8
    if w = 0 ∨ h = 0 ∨ f.w < x0 + w ∨ f.h < y0 + h then none
    else some ((List.range h).flatMap fun y => (List.range w).map fun x =>
      k / 256 * 256 + (f.y0 + y0 + y) * 12 + f.x0 + x0 + x)

def sigmCause (sl : Nat) (s : State) : Option (Cause × Nat) := s.protFree (s.rectangle (s.rd sl 64)).isNone

def execSigm (lc : LoopCond) (vc sl scope : Nat) (s : State) : Host.Outcome State Fault Refusal :=
  slotOr s (s.acts lc Pred.always) (sigmCause sl s) fun s =>
    let v := s.rd sl 64
    ((s.rectangle v).getD []).foldl (fun s c => s.send (some s.me) c vc (s.sigWord v) false scope) s

/-! ## Bindings and counters (R223, R224) -/

/-- Clear the binding of channel n of a core. -/
def State.unbindVc (s : State) (core n : Nat) : State :=
  match s.boundTo core n with
  | some t => s.modTask t fun t => { t with vc := none }
  | none => s

def execBind (lc : LoopCond) (vc ctx : Nat) (s : State) : Host.Outcome State Fault Refusal :=
  slot s (s.acts lc Pred.always) fun s =>
    let tk := taskAt s.myCore ctx
    if (s.task tk).st = .free then s
    else
      let s1 := (s.unbindVc s.myCore vc).modTask tk fun t => { t with vc := some vc }
      if ((s1.tile s.myCore).vc vc).isEmpty then s1 else s1.modTask tk Task.wordWake

def execUnbind (lc : LoopCond) (vc : Nat) (s : State) : Host.Outcome State Fault Refusal :=
  slot s (s.acts lc Pred.always) fun s => s.unbindVc s.myCore vc

def execDcset (lc : LoopCond) (sl dc : Nat) (s : State) : Host.Outcome State Fault Refusal :=
  slot s (s.acts lc Pred.always) fun s =>
    let v := s.rd sl 32
    s.modTile s.myCore fun t =>
      let c : Counter := ⟨BitVec.ofNat 16 v, if bitB v 19 then some (bits v 16 3) else none, (t.counter dc).uf && !bitB v 20⟩
      { t with counters := Sparse.set {} t.counters dc c }

/-- DCDEC: a release at tile scope, so that the decrement comes after the port's earlier accesses (R224, R295). -/
def execDcdec (lc : LoopCond) (dc : Nat) (s : State) : Host.Outcome State Fault Refusal :=
  slot s (s.acts lc Pred.always) fun s =>
    if (s.task s.me).port.isEmpty then s.decCounter s.myCore dc
    else s.modTask s.me fun t => { t with port := t.port ++ [⟨.dec dc, 0, none, []⟩] }

/-! ## Job cards, futures and rings (R225-R228) -/

/-- The window rule for a card or a future (R38). -/
def State.windowCause (s : State) (a n : Nat) : Option (Cause × Nat) :=
  when_ (!s.inWindow s.myCore a n) .accessProt (n * 2 ^ 32 + a)

/-- A command's handle must have one of the listed spaces. -/
def State.spaceCause (s : State) (h : Nat) (l : List Nat) : Option (Cause × Nat) :=
  when_ (!l.contains (hSpace (s.hnd h))) .handleBad h

def drawCause (o : OpHS) (s : State) : Option (Cause × Nat) :=
  firstCause [s.chkHandle o.h, s.spaceCause o.h [2], s.windowCause (hLocal (s.hnd o.h) / 64 * 64) 64]

def execDraw (o : OpHS) (s : State) : Host.Outcome State Fault Refusal :=
  slotOr s (s.acts o.lc Pred.always) (drawCause o s) fun s => s.accessRet .draw (hLocal (s.hnd o.h) / 64 * 64) o.s 16

def fputCause (o : OpHS) (s : State) : Option (Cause × Nat) :=
  firstCause [s.chkHandle o.h, s.spaceCause o.h [2], s.windowCause (hLocal (s.hnd o.h) / 16 * 16) 16]

def execFput (o : OpHS) (s : State) : Host.Outcome State Fault Refusal :=
  slotOr s (s.acts o.lc Pred.always) (fputCause o s) fun s =>
    s.access ⟨.fput (s.rd o.s 64), hLocal (s.hnd o.h) / 16 * 16, none, []⟩

/-- RESV, PUBL and RTAKE: HANDLE_BAD for the space, ACCESS_PROT for a block that is not aligned or not in a permitted region (R227). -/
def ringCause (o : OpHS) (s : State) : Option (Cause × Nat) :=
  let a := hLocal (s.hnd o.h)
  firstCause [s.chkHandle o.h, s.spaceCause o.h [1, 2, 3],
    when_ (decide (a % 64 ≠ 0) || (s.chk s.myCore a 64).isSome) .accessProt (64 * 2 ^ 32 + a)]

def execResv (o : OpHS) (s : State) : Host.Outcome State Fault Refusal :=
  slotOr s (s.acts o.lc Pred.always) (ringCause o s) fun s => s.accessRet .resv (hLocal (s.hnd o.h)) o.s 16

def execPubl (o : OpHS) (s : State) : Host.Outcome State Fault Refusal :=
  slotOr s (s.acts o.lc Pred.always) (ringCause o s) fun s => s.access ⟨.publ (s.rd o.s 32), hLocal (s.hnd o.h), none, []⟩

def execRtake (o : OpHS) (maxm1 : Nat) (s : State) : Host.Outcome State Fault Refusal :=
  slotOr s (s.acts o.lc Pred.always) (ringCause o s) fun s =>
    s.accessRet (.rtake (maxm1 + 1)) (hLocal (s.hnd o.h)) o.s 16

/-! ## Atomics (R229-R231) -/

def atomicCause (o : OpAt) (s : State) : Option (Cause × Nat) :=
  let a := hLocal (s.hnd o.h)
  let n := 2 ^ o.size
  firstCause [s.chkHandle o.h, when_ (decide (hSpace (s.hnd o.h) = 4)) .handleBad o.h,
    when_ (decide (a % n ≠ 0)) .accessBound (n * 2 ^ 32 + a), s.chkCause a n]

/-- An atomic of operation op: operand x in the low bytes, and for ACAS the expected value above it (R230). -/
def atomic (op : Nat) (o : OpAt) (s : State) : Host.Outcome State Fault Refusal :=
  slotOr s (s.acts o.lc Pred.always) (atomicCause o s) fun s =>
    let v := s.rd o.s 64
    let n := 2 ^ o.size
    let k : AccKind := .atomic op o.size (v % 2 ^ (8 * n)) (v / 2 ^ 32 % 2 ^ (8 * n)) o.ord o.ford (if o.ord = 4 then s.pkg.scLast.getD 0 else 0)
    if op = 11 then s.access ⟨k, hLocal (s.hnd o.h), none, []⟩ else s.accessRet k (hLocal (s.hnd o.h)) o.s 16

def execAadd (o : OpAt) (s : State) : Host.Outcome State Fault Refusal := atomic 0 o s
def execAmin (o : OpAt) (s : State) : Host.Outcome State Fault Refusal := atomic 1 o s
def execAmax (o : OpAt) (s : State) : Host.Outcome State Fault Refusal := atomic 2 o s
def execAminu (o : OpAt) (s : State) : Host.Outcome State Fault Refusal := atomic 3 o s
def execAmaxu (o : OpAt) (s : State) : Host.Outcome State Fault Refusal := atomic 4 o s
def execAand (o : OpAt) (s : State) : Host.Outcome State Fault Refusal := atomic 5 o s
def execAor (o : OpAt) (s : State) : Host.Outcome State Fault Refusal := atomic 6 o s
def execAxor (o : OpAt) (s : State) : Host.Outcome State Fault Refusal := atomic 7 o s
def execAswp (o : OpAt) (s : State) : Host.Outcome State Fault Refusal := atomic 8 o s
def execAcas (o : OpAt) (s : State) : Host.Outcome State Fault Refusal := atomic 9 o s
def execAld (o : OpAt) (s : State) : Host.Outcome State Fault Refusal := atomic 10 o s
def execAst (o : OpAt) (s : State) : Host.Outcome State Fault Refusal := atomic 11 o s

/-! ## Whole handles (R235-R237) -/

def hldCause (o : OpHS) (s : State) : Option (Cause × Nat) :=
  let a := s.rd o.s 32
  firstCause [when_ (decide (a % 32 ≠ 0)) .accessBound (32 * 2 ^ 32 + a), s.chkCause a 32]

def execHld (o : OpHS) (s : State) : Host.Outcome State Fault Refusal :=
  slotOr s (s.acts o.lc Pred.always) (hldCause o s) fun s =>
    let id := (s.task s.me).nextRet
    (s.modTask s.me fun t => t.addRet none none (some o.h)).access ⟨.hld, s.rd o.s 32, some id, []⟩

def execHst (o : OpHS) (s : State) : Host.Outcome State Fault Refusal :=
  slotOr s (s.acts o.lc Pred.always) (hldCause o s) fun s => s.access ⟨.hst (s.hnd o.h), s.rd o.s 32, none, []⟩

def execHmov (lc : LoopCond) (h h2 : Nat) (s : State) : Host.Outcome State Fault Refusal :=
  slot s (s.acts lc Pred.always) fun s =>
    if h = h2 then s else s.modTask s.me fun t => { t with hs := Sparse.set 0 t.hs h (s.hnd h2) }

/-! ## RSYN (R238) -/

/-- Answer the RSYNs whose requests have all ended, one outstanding return at a time, in issue order. -/
def Task.rsynCheck : Nat → Task → Task
  | 0, t => t
  | n + 1, t =>
    match t.rsyns with
    | [] => t
    | r :: l =>
      match t.rets.find? (fun x => decide (x.id = r.ret)) with
      | none => Task.rsynCheck n { t with rsyns := l }
      | some x =>
        if x.val.isNone && !t.owes r.upto then t.fillRet r.ret (r.total % 65536 + r.bad % 65536 * 65536) false else t

/-- Count a request that ended not DONE in the oldest waiting RSYN that covers it, if any does. -/
def countBad (num : Nat) : List Rsyn → Option (List Rsyn)
  | [] => none
  | r :: l => if num < r.upto then some ({ r with bad := r.bad + 1 } :: l) else (countBad num l).map (r :: ·)

/-- A request of the task has ended; one whose status is not DONE counts in its RSYN. -/
def Task.countEnd (t : Task) (num : Nat) (ok : Bool) : Task :=
  let t1 :=
    if ok then t
    else match countBad num t.rsyns with
      | some l => { t with rsyns := l }
      | none => { t with rsynBad := t.rsynBad + 1 }
  Task.rsynCheck (t1.rsyns.length + 1) t1

def execRsyn (o : OpS) (s : State) : Host.Outcome State Fault Refusal :=
  slot s (s.acts o.lc Pred.always) fun s =>
    s.modTask s.me fun t =>
      let t1 := t.addRet (some (o.s, 8)) none none
      let r : Rsyn := ⟨s.issue.reqNo, s.issue.reqNo - t.rsynFrom, t.rsynBad, t.nextRet⟩
      let t2 := { t1 with rsyns := t.rsyns ++ [r], rsynFrom := s.issue.reqNo, rsynBad := 0 }
      Task.rsynCheck (t2.rsyns.length + 1) t2

/-! ## TINV (R239, R363) -/

/-- The leaf is named by a TINV of a page, or by TINV.all. -/
def Leaf.named (l : Leaf) (v : Nat) (all : Bool) : Bool :=
  let lg := [16, 21, 30].getD (bits v 48 2) 0
  all || (decide (l.lg = lg) && decide (l.base = v % 2 ^ 48 / 2 ^ lg * 2 ^ lg))

/-- Every cache of the module and every stream drops the named translations; TINV.all drops the walkers' entries too. -/
def State.tinv (s : State) (v : Nat) (all : Bool) : State :=
  { s with
    tiles := Sparse.mapAll {} (fun _ t => { t with tlb := t.tlb.filter fun l => !l.named v all }) s.tiles
    cmds := Sparse.mapAll {} (fun _ (c : Cmd) =>
      { c with xl := c.xl.filter fun l => !l.named v all, stale := c.stale || c.under.any fun l => l.named v all }) s.cmds
    dies := if all then Sparse.mapAll {} (fun _ d => { d with walker := [] }) s.dies else s.dies
    pkg := { s.pkg with aptlb := s.pkg.aptlb.filter fun l => !l.named v all } }

/-- What a TINV waits for: packets that streams and landings have sent under a named translation and that have no response, by module and PSN,
and commands with a beat under way whose lines of peer memory were asked under one (R239, R307). -/
def State.tinvWaits (s : State) (v : Nat) (all : Bool) : List (Nat × Nat) × List Nat :=
  (s.fab.peers.flatMap fun x => (x.2.out.filter fun (k : Packet) => k.leaf.any fun l => l.named v all).map fun k => (x.1, k.psn),
   (s.cmds.filter fun x => x.2.under.any fun l => l.named v all).map (·.1))

def execTinv (lc : LoopCond) (sl : Nat) (all : Bool) (s : State) : Host.Outcome State Fault Refusal :=
  slotPriv s (s.acts lc Pred.always) none fun s =>
    let v := s.rd sl 64
    if !all && (decide (bits v 48 2 = 3) || decide (bits v 50 14 ≠ 0)) then s.returnNow sl 16 1
    else
      let w := s.tinvWaits v all
      let s1 := s.tinv v all
      if w = ([], []) then s1.returnNow sl 16 0
      else s1.modTask s.me fun t => { t.addRet (some (sl, 16)) none none with tinvs := t.tinvs ++ [(t.nextRet, w)] }

/-- A TINV returns once every packet that it waits for has its response and every beat that it waits for is over (R239, R307). -/
def State.tinvAnswer (s : State) (tk ret : Nat) : State :=
  match (s.task tk).tinvs.find? fun x => decide (x.1 = ret) with
  | some x =>
    if (x.2.1.any fun w => (Sparse.get {} s.fab.peers w.1).out.any fun (k : Packet) => decide (k.psn = w.2)) || x.2.2.any fun c => (s.cmd c).stale then s
    else s.modTask tk fun t => { t.fillRet ret 0 false with tinvs := t.tinvs.filter fun x => decide (x.1 ≠ ret) }
  | none => s

end Sys2Proof.Machine
end

