-- ==== Sys2Proof/Machine/Control.lean ====
section
/-! DEFINITION. Control: branches, the loop sequencer, parking and waiting, fences, traps, priority and the supervisor's ERET and
HOLD (spec/05_cw_slice_control_isa.md R157-R169; spec/01_cw_execution_model.md R32-R36, R56). -/

namespace Sys2Proof.Machine

/-! ## The loop sequencer (R159-R163) -/

/-- Number of active levels: they are always 0 to n - 1 (R159). -/
def activeCount (l : Sparse Level) : Nat :=
  ((List.range 6).filter fun n => decide ((levelOf l n).remaining ≠ 0)).length

/-- Level n becomes inactive and its binding is cleared. -/
def clearLevel (l : Sparse Level) (n : Nat) : Sparse Level := Sparse.set {} l n {}

/-- A target is among the addresses of a level's body (R162). -/
def Level.holds (v : Level) (target : Nat) : Bool :=
  decide ((target + 65536 - v.bs) % 65536 ≤ (v.be + 65536 - v.bs) % 65536)

/-- A taken branch deactivates the first level whose body does not hold the target, and every level inside it (R162). -/
def branchLevels (l : Sparse Level) (target : Nat) : Sparse Level :=
  let n := activeCount l
  match (List.range n).find? fun k => !(levelOf l k).holds target with
  | none => l
  | some k => (List.range (n - k)).foldl (fun l i => clearLevel l (k + i)) l

/-- A branch is taken to an address. -/
def State.branch (s : State) (target : Nat) : State :=
  let t := target / 4 * 4 % 65536
  { s.modTask s.me (fun k => { k with levels := branchLevels k.levels t }) with issue := { s.issue with taken := some t } }

/-- Target of an offset in words from the bundle's first word (R102). -/
def State.offTarget (s : State) (off : Int) : Nat := lowBits ((s.issue.addr : Int) + 4 * off) 16

def execNop (c : Ctl) (s : State) : Host.Outcome State Fault Refusal := slot s (s.acts c.lc c.p) fun s => s

def execBr (c : Ctl) (off : Int) (s : State) : Host.Outcome State Fault Refusal :=
  slot s (s.acts c.lc c.p) fun s => s.branch (s.offTarget off)

def execBrl (c : Ctl) (link : Nat) (off : Int) (s : State) : Host.Outcome State Fault Refusal :=
  slot s (s.acts c.lc c.p) fun s => (s.land (.range link 4) s.issue.next 1).branch (s.offTarget off)

def execJmp (c : Ctl) (t : Nat) (s : State) : Host.Outcome State Fault Refusal :=
  slot s (s.acts c.lc c.p) fun s => s.branch (s.rd t 16)

/-- The run-time causes of LOOP and LOOPI: six levels active, or the bundle is the end of an active level (R160). -/
def loopCause (s : State) : Option (Cause × Nat) :=
  let l := s.issue.levels
  when_ (decide (activeCount l = 6) ||
    (List.range (activeCount l)).any fun k => decide ((levelOf l k).be = s.issue.addr)) .illegalOp
    (s.issue.word * 2 ^ 32 + s.issue.slot)

/-- Activate the next level with a count and an end in words, or pass over the loop when the count is 0 (R160). -/
def State.enterLoop (s : State) (count fin : Nat) : State :=
  let n := activeCount (s.task s.me).levels
  let be := (s.issue.addr + 4 * fin) % 65536
  if count = 0 then
    { s.modTask s.me (fun t => { t with levels := clearLevel t.levels n }) with issue := { s.issue with zeroLoop := some be } }
  else
    s.modTask s.me fun t =>
      { t with levels := Sparse.set {} t.levels n { levelOf t.levels n with bs := s.issue.next, be := be, remaining := count, iter := 0 } }

def execLoop (c : Ctl) (cnt fin : Nat) (s : State) : Host.Outcome State Fault Refusal :=
  slotOr s (s.acts c.lc c.p) (loopCause s) fun s => s.enterLoop (s.rd cnt 24) fin

def execLoopi (c : Ctl) (count fin : Nat) (s : State) : Host.Outcome State Fault Refusal :=
  slotOr s (s.acts c.lc c.p) (loopCause s) fun s => s.enterLoop count fin

def execLind (c : Ctl) (i lvl w : Nat) (stride : Int) (s : State) : Host.Outcome State Fault Refusal :=
  slot s (s.acts c.lc c.p) fun s =>
    s.modTask s.me fun t =>
      { t with levels := Sparse.set {} t.levels lvl { levelOf t.levels lvl with ind := some ⟨i, w, BitVec.ofInt 16 stride⟩ } }

def execLbrk (c : Ctl) (lvl : Nat) (s : State) : Host.Outcome State Fault Refusal :=
  slot s (s.acts c.lc c.p) fun s =>
    s.modTask s.me fun t =>
      if (levelOf t.levels lvl).remaining = 0 then t
      else { t with levels := Sparse.set {} t.levels lvl { levelOf t.levels lvl with remaining := 1 } }

/-- Act on the innermost active level at the end of its body, and on outer levels that end at the same address: the address that
follows in the loop, if a back-edge is taken (R161). Each induction step is a latency-1 result after the bundle's own. -/
def sequencer (addr : Nat) (sf : SliceFile) : Nat → Task → Task × Option Nat
  | 0, t => (t, none)
  | n + 1, t =>
    let k := activeCount t.levels - 1
    let v := levelOf t.levels k
    if activeCount t.levels = 0 ∨ v.be ≠ addr then (t, none)
    else
      let t1 := match v.ind with
        | none => t
        | some b =>
          let w := wBits b.wcode
          let f : Flight :=
            ⟨0, .range b.start (w / 4), BitVec.ofNat 512 (lowBits ((sfRead sf b.start w : Int) + b.stride.toInt) w)⟩
          { t with flight := t.flight ++ [f] }
      if 1 < v.remaining then
        ({ t1 with levels := Sparse.set {} t1.levels k { v with remaining := v.remaining - 1, iter := v.iter + 1 } }, some v.bs)
      else sequencer addr sf n { t1 with levels := clearLevel t1.levels k }

/-! ## Parking (R32, R36, R39, R164, R165) -/

/-- A word waits in the FIFO of the task's channel. -/
def State.wordWaits (s : State) (tk : Nat) : Bool :=
  match (s.task tk).vc with
  | some n => !((s.tile (coreOf tk)).vc n).isEmpty
  | none => false

/-- END: its test of the channel's FIFO and of the latch sees what the slots stored before it in its own bundle did, a POP or a BIND (DESIGN
CHOICE, log 47: R32 says only "when END issues"). -/
def execEnd (c : Ctl) (s : State) : Host.Outcome State Fault Refusal :=
  slot s (s.acts c.lc c.p) fun s =>
    let stay := s.wordWaits s.me || (s.task s.me).latch
    { s.modTask s.me (fun t =>
        if stay then { t with levels := [], latch := false }
        else { t with levels := [], st := .parked, kind := .endK }) with issue := { s.issue with ended := true } }

/-- YIELD: its bundle makes the task the last issued at its priority, which is last in round-robin order (R21, R24). -/
def execYield (c : Ctl) (s : State) : Host.Outcome State Fault Refusal :=
  slot s (s.acts c.lc c.p) fun s =>
    s.modTile s.myCore fun t => { t with last := Sparse.set 7 t.last (s.task s.me).prio (ctxOf s.me) }

def execWaitc (c : Ctl) (dc : Nat) (s : State) : Host.Outcome State Fault Refusal :=
  slot s (s.acts c.lc c.p) fun s =>
    if ((s.tile s.myCore).counter dc).val = 0 then s
    else s.modTask s.me fun t => { t with st := .parked, kind := .waitc, waitDc := dc }

/-- Address of the future that WAITF names; bits [3:0] are ignored (R38). -/
def State.futureAddr (s : State) (a : Nat) : Nat := s.rd a 32 / 16 * 16

def execWaitf (c : Ctl) (a v g : Nat) (s : State) : Host.Outcome State Fault Refusal :=
  slotOr s (s.acts c.lc c.p) (s.windowCause (s.futureAddr a) 16) fun s =>
    let id := (s.task s.me).nextRet
    (s.modTask s.me fun t => t.addRet (some (v, 16)) (some g) none).access ⟨.waitf g, s.futureAddr a, some id, []⟩

/-! ## Fences, traps, priority (R166, R167, R164) -/

/-- FENCE: the accesses before it have performed when the port reaches it; it waits for the responses of earlier requests. -/
def execFence (c : Ctl) (kind scope : Nat) (s : State) : Host.Outcome State Fault Refusal :=
  slot s (s.acts c.lc c.p) fun s => s.access ⟨.hold (s.task s.me).reqNo kind scope, 0, none, []⟩

def execTrap (c : Ctl) (code : Nat) (s : State) : Host.Outcome State Fault Refusal :=
  slotOr s (s.acts c.lc c.p) (some (.trap, code)) fun s => s

/-- BKPT, unless an ERET with skip has passed it, once (R167). -/
def execBkpt (c : Ctl) (code : Nat) (s : State) : Host.Outcome State Fault Refusal :=
  slotOr s (s.acts c.lc c.p && !s.issue.skip) (some (.bkpt, code)) fun s => s

def execPrio (c : Ctl) (p : Nat) (s : State) : Host.Outcome State Fault Refusal :=
  slot s (s.acts c.lc c.p) fun s => s.modTask s.me fun t => { t with prio := p }

/-! ## ERET and HOLD (R56, R169) -/

/-- The task that a selector names on the issuing core's die. -/
def State.selected (s : State) (v : Nat) : Nat := taskAt (dieOf s.myCore * 256 + v % 256) (bits v 8 3)

def selectorCause (t : Nat) (s : State) : Option (Cause × Nat) :=
  s.protFree (decide (bits (s.rd t 32) 11 21 ≠ 0) || decide (143 < s.rd t 32 % 256))

/-- IPAGE is performed: the page's loaded bit clears, and no context of the core keeps a line of the page (R108). -/
def State.startCopy (s : State) (core page : Nat) : State :=
  (List.range 8).foldl (fun s x => s.modTask (taskAt core x) fun t => { t with lines := t.lines.filter fun a => decide (a / 4096 % 16 ≠ page) })
    (s.modTile core fun t => { t with pages := t.pages &&& ~~~(1#16 <<< page) })

/-- A supervisor operation on a core is performed. -/
def State.supPerform (s : State) (core : Nat) (o : SupOp) : State :=
  match o with
  | .eret x skip => s.eretTask (taskAt core x) skip
  | .hold x => s.holdTask (taskAt core x)
  | .copy page _ => s.startCopy core page

/-- The issuing task's operation joins those that the core holds. -/
def State.supQueue (s : State) (core : Nat) (o : SupOp) : State := s.modTile core fun t => { t with sup := t.sup ++ [(s.me, o)] }

/-- A task asks an operation of a core: it is performed at once, unless an earlier copy of the same task there has not ended (R170). -/
def State.supAsk (s : State) (core : Nat) (o : SupOp) : State :=
  if (s.tile core).sup.any fun x => decide (x.1 = s.me) then s.supQueue core o
  else match o with
    | .copy _ _ => (s.supPerform core o).supQueue core o
    | _ => s.supPerform core o

/-- Once its copy has ended, what a task asked of the core behind it is performed, up to its next copy, which begins. -/
def State.supGo : Nat → Nat → Nat → State → State
  | 0, _, _, s => s
  | n + 1, core, tk, s =>
    match (s.tile core).sup.findIdx? fun x => decide (x.1 = tk) with
    | none => s
    | some i =>
      match (s.tile core).sup[i]? with
      | some (_, .copy page src) => s.supPerform core (.copy page src)
      | some (_, o) => State.supGo n core tk ((s.modTile core fun t => { t with sup := t.sup.eraseIdx i }).supPerform core o)
      | none => s

def execEret (c : Ctl) (t : Nat) (skip : Bool) (s : State) : Host.Outcome State Fault Refusal :=
  slotPriv s (s.acts c.lc c.p) (selectorCause t s) fun s =>
    let k := s.selected (s.rd t 32)
    s.supAsk (coreOf k) (.eret (ctxOf k) skip)

def execHold (c : Ctl) (t : Nat) (s : State) : Host.Outcome State Fault Refusal :=
  slotPriv s (s.acts c.lc c.p) (selectorCause t s) fun s =>
    let k := s.selected (s.rd t 32)
    s.supAsk (coreOf k) (.hold (ctxOf k))

/-! ## IPAGE (R108, R170) -/

/-- What IPAGE raises (R170). The record's size byte is 0, the low 8 bits of 4,096, which R368's field cannot hold (DESIGN CHOICE, log 102). -/
def ipageCause (p : Nat) (s : State) : Option (Cause × Nat) :=
  let v := s.rd p 64
  let a := v % 2 ^ 32
  let info := 4096 % 256 * 2 ^ 32 + a
  firstCause [when_ (decide (0x10000000 ≤ a ∧ a < 0x16000000 ∧ 0x16000000 < a + 4096)) .accessBound info,
    when_ (decide (a % 4 ≠ 0 ∨ a < 0x10000000 ∨ 0x16000000 ≤ a)) .accessProt info,
    s.protFree (decide (bits v 44 20 ≠ 0) || decide (143 < bits v 32 8))]

/-- Copy 4 KiB of a die's granary into a page of a core's instruction store and set its loaded bit. -/
def State.loadPage (s : State) (core page a : Nat) : State :=
  (s.writeQuiet (.istore core) (page * 4096) (s.read (.granary (dieOf core)) (a - 0x10000000) 4096)).modTile core fun t =>
    { t with pages := t.pages ||| (1#16 <<< page) }

/-- IPAGE: the copy begins, and ends at a turn of its own (R108, R170). -/
def execIpage (c : Ctl) (p : Nat) (s : State) : Host.Outcome State Fault Refusal :=
  slotPriv s (s.acts c.lc c.p) (ipageCause p s) fun s =>
    let v := s.rd p 64
    s.supAsk (dieOf s.myCore * 256 + bits v 32 8) (.copy (bits v 40 4) (v % 2 ^ 32))

/-- A task's copy into a core's store ends: the page is written, with the bytes that the source then holds, its loaded bit is set, and what the
task asked behind it is performed. -/
def State.copyDone (s : State) (core tk : Nat) : State :=
  match (s.tile core).sup.findIdx? fun x => decide (x.1 = tk) with
  | none => s
  | some i =>
    match (s.tile core).sup[i]? with
    | some (_, .copy page src) =>
      let s1 := (s.loadPage core page src).modTile core fun t => { t with sup := t.sup.eraseIdx i }
      State.supGo (s1.tile core).sup.length core tk s1
    | _ => s

end Sys2Proof.Machine
end

