-- ==== Sys2Proof/Machine/Walk.lean ====
section
/-! DEFINITION. Walks over handles: units, elements, addresses and marks, and the packing of elements into link words
(spec/07_cw_engine_isa.md R205-R209, R213; spec/04_cw_number_formats.md R114-R116, R123). -/

namespace Sys2Proof.Machine

/-- A walk: the handle, the outer counters of the pair, offsets, and for SGA and SSC the list of indices of the last dimension. -/
structure WalkSpec where
  h : Handle
  pair : Option Handle
  offs : List Int
  idx : Option (List Nat)
  /-- One element per link word, or a virtual-channel destination. -/
  pk : Bool
  deriving DecidableEq, Repr

/-- Extents of the walk, innermost first; an indexed dimension counts its indices (R205, R213). -/
def WalkSpec.dims (w : WalkSpec) : List Nat :=
  let n := hDims w.h
  let own := (List.range n).map (hExt w.h)
  let own := match w.idx with | some l => own.dropLast ++ [l.length] | none => own
  own ++ (match w.pair with | some p => (List.range (hDims p)).map (hExt p) | none => [])

/-- Elements of the walk. -/
def WalkSpec.total (w : WalkSpec) : Nat := w.dims.foldl (· * ·) 1

/-- Index of element j in each dimension, innermost first. -/
def digits : List Nat → Nat → List Nat
  | [], _ => []
  | e :: l, j => j % e :: digits l (j / e)

/-- Innermost dimensions that end at these indices. -/
def ending : List Nat → List Nat → Nat
  | e :: es, i :: is => if i + 1 = e then 1 + ending es is else 0
  | _, _ => 0

/-- SGA and SSC of a one-dimensional handle: the indices name single elements of dimension 0 (R213). -/
def WalkSpec.single (w : WalkSpec) : Bool := w.idx.isSome && decide (hDims w.h = 1)

/-- The mark of element j (R207). -/
def WalkSpec.mark (w : WalkSpec) (j : Nat) : Nat := min 7 (ending w.dims (digits w.dims j))

/-- Extent of dimension 0. -/
def WalkSpec.e0 (w : WalkSpec) : Nat := w.dims.headD 1

/-- Element width. -/
def WalkSpec.b (w : WalkSpec) : Nat := fmtBits (hFmt w.h)

/-- The base address that a handle gives (R61). -/
def hAddr (h : Handle) : Int := if hSpace h = 4 then hBase h else hLocal h

/-- Displacement of dimensions 1 and above, and of the pair, for element j (R205). -/
def WalkSpec.disp (w : WalkSpec) (j : Nat) : Int :=
  let n := hDims w.h
  let d := digits w.dims j
  let own : List Int := (List.range n).map fun k =>
    if k = 0 then (0 : Int)
    else
      let i := d.getD k 0
      let i : Nat := match w.idx with | some l => if k + 1 = n then l.getD i 0 else i | none => i
      ((i : Int) + w.offs.getD k 0) * hStr w.h k
  let outer : List Int := match w.pair with
    | some p => (List.range (hDims p)).map fun k => ((d.getD (n + k) 0 : Nat) : Int) * hStr p k
    | none => []
  (own ++ outer).foldl (· + ·) 0

/-- Position of element j along dimension 0; a one-dimensional indexed walk takes it from the list. -/
def WalkSpec.i0 (w : WalkSpec) (j : Nat) : Int :=
  let i := (digits w.dims j).headD 0
  let i : Nat := match w.idx with | some l => if hDims w.h = 1 then l.getD i 0 else i | none => i
  (i : Int) + w.offs.headD 0

/-- Bytes of one sparse group record (R123). -/
def WalkSpec.recBytes (w : WalkSpec) : Nat :=
  let n := if hSpn w.h = 1 then 4 else 8
  n * w.b / 8 + n / 2

/-- Planes of a format, and those a handle reads (R115, R116). -/
def WalkSpec.planes (w : WalkSpec) : Nat := if hFmt w.h = 7 then 4 else 2

/-- Byte address of element j, and its bit within the byte: the element in row layout, its group in plane and sparse layout. -/
def WalkSpec.addr (w : WalkSpec) (j : Nat) : Int × Nat :=
  let base := hAddr w.h + w.disp j
  let i := w.i0 j
  match hLayout w.h with
  | 0 =>
    if 8 ≤ w.b then (base + i * hStr w.h 0, 0)
    else (base + i * (w.b : Int) / 8, (i * (w.b : Int) % 8).toNat)
  | 1 => (base + i / 64 * (8 * w.planes : Nat), (i % 64).toNat)
  | _ => (base + i / 16 * (w.recBytes : Nat), (i % 16).toNat)

/-! ## Units: the link words of a port stream (R208) -/

/-- Lanes of a link word. -/
def WalkSpec.lanes (w : WalkSpec) : Nat := 128 / w.b

/-- Link words of a plane group, and group records of a sparse link word. -/
def WalkSpec.halfPlanes (w : WalkSpec) : Nat := (min (hPlanes w.h) w.planes + 1) / 2
def WalkSpec.recsPerWord (w : WalkSpec) : Nat := 16 / w.recBytes

/-- Link words of one dimension-0 run. -/
def WalkSpec.perRun (w : WalkSpec) : Nat :=
  match hLayout w.h with
  | 0 => if w.pk then w.e0 else (w.e0 + w.lanes - 1) / w.lanes
  | 1 => (w.e0 + 63) / 64 * w.halfPlanes
  | _ => ((w.e0 + 15) / 16 + w.recsPerWord - 1) / w.recsPerWord

/-- Link words of the walk. -/
def WalkSpec.units (w : WalkSpec) : Nat := if w.total = 0 then 0 else w.total / w.e0 * w.perRun

/-- First element, within its run, that word k of a run holds, and the first it does not. -/
def WalkSpec.span (w : WalkSpec) (k : Nat) : Nat × Nat :=
  match hLayout w.h with
  | 0 => if w.pk then (k, k + 1) else (k * w.lanes, min w.e0 ((k + 1) * w.lanes))
  | 1 => (k / w.halfPlanes * 64, min w.e0 ((k / w.halfPlanes + 1) * 64))
  | _ => (k * w.recsPerWord * 16, min w.e0 ((k + 1) * w.recsPerWord * 16))

/-- First and last-but-one element of unit u, as elements of the whole walk. -/
def WalkSpec.unitSpan (w : WalkSpec) (u : Nat) : Nat × Nat :=
  let r := u / w.perRun * w.e0
  let p := w.span (u % w.perRun)
  (r + p.1, r + p.2)

/-- Elements completed after u units. -/
def WalkSpec.done (w : WalkSpec) (u : Nat) : Nat :=
  if w.perRun = 0 then 0 else u / w.perRun * w.e0 + (if u % w.perRun = 0 then 0 else (w.span (u % w.perRun)).1)

/-- The link word of a plane group that unit u is. -/
def WalkSpec.half (w : WalkSpec) (u : Nat) : Nat := if hLayout w.h = 1 then u % w.perRun % w.halfPlanes else 0

/-- The unit that begins with element j of the walk; of a plane group, its link word `half`. -/
def WalkSpec.unitAt (w : WalkSpec) (j half : Nat) : Nat :=
  let k := j % w.e0
  j / w.e0 * w.perRun +
    (match hLayout w.h with
      | 0 => if w.pk then k else k / w.lanes
      | 1 => k / 64 * w.halfPlanes + half
      | _ => k / (w.recsPerWord * 16))

/-- The mark of unit u: that of the last element it holds (R208). -/
def WalkSpec.unitMark (w : WalkSpec) (u : Nat) : Nat := w.mark ((w.unitSpan u).2 - 1)

/-- One run of bytes that unit u reads: the element it begins with, its address and byte count. -/
structure Piece where
  elem : Nat
  addr : Int
  n : Nat
  /-- First bit kept of the bytes read, number of bits kept, and the bit of the link word they go to. -/
  bit : Nat
  width : Nat
  lane : Nat
  deriving DecidableEq, Repr

/-- What unit u reads. The single elements that a list names are gathered one by one in row and plane layout; in sparse layout the spec
gives such a list no group record, and its word is zero (DESIGN CHOICE, log 50). -/
def WalkSpec.pieces (w : WalkSpec) (u : Nat) : List Piece :=
  let sp := w.unitSpan u
  match hLayout w.h with
  | 0 => (List.range (sp.2 - sp.1)).map fun i =>
      let a := w.addr (sp.1 + i)
      ⟨sp.1 + i, a.1, (w.b + 7) / 8, a.2, w.b, i * w.b⟩
  | 1 =>
    let k := u % w.perRun % w.halfPlanes
    let a := (w.addr sp.1).1
    (List.range 2).flatMap fun i =>
      if hPlanes w.h ≤ 2 * k + i then []
      else if w.single then (List.range (sp.2 - sp.1)).map fun j =>
        let x := w.addr (sp.1 + j)
        ⟨sp.1 + j, x.1 + (8 * (2 * k + i) : Nat), 8, x.2, 1, 64 * i + j⟩
      else [⟨sp.1, a + (8 * (2 * k + i) : Nat), 8, 0, sp.2 - sp.1, 64 * i⟩]
  | _ => (List.range ((sp.2 - sp.1) / 16)).map fun i =>
      ⟨sp.1 + 16 * i, (w.addr (sp.1 + 16 * i)).1, w.recBytes, 0, 8 * w.recBytes, 8 * w.recBytes * i⟩

/-! ## Stores -/

/-- What a store puts at an address: n bytes of which `width` bits from `bit` up take a value; those from `keep` on are written zero, and the
others stay (R114, R115). -/
structure Put where
  elem : Nat
  addr : Int
  n : Nat
  bit : Nat
  width : Nat
  val : Nat
  keep : Nat
  deriving DecidableEq, Repr

/-- Elements of element j's dimension-0 run from it on. -/
def WalkSpec.left (w : WalkSpec) (j : Nat) : Nat := if w.single then hExt w.h 0 - (w.i0 j).toNat else w.e0 - j % w.e0

/-- Bits of n bytes that belong to elements of the run, where element j has `width` bits in them from `bit` up: those beyond belong to none,
and any store into the bytes writes them zero (R114, R115). -/
def WalkSpec.keep (w : WalkSpec) (j n bit width : Nat) : Nat := min (8 * n) (bit + width * w.left j)

/-- Stores of element j with value v (row and plane layout). -/
def WalkSpec.puts (w : WalkSpec) (j v : Nat) : List Put :=
  let a := w.addr j
  match hLayout w.h with
  | 0 => [⟨j, a.1, (w.b + 7) / 8, a.2, w.b, v % 2 ^ w.b, w.keep j ((w.b + 7) / 8) a.2 w.b⟩]
  | _ => (List.range w.planes).map fun q =>
      ⟨j, a.1 + (8 * q : Nat), 8, a.2, 1, v / 2 ^ (w.planes - 1 - q) % 2, w.keep j 8 a.2 1⟩

/-- The bytes that a store leaves, from the n bytes before it. -/
def Put.apply (p : Put) (old : Nat) : Nat := insertField old p.val p.bit p.width % 2 ^ p.keep

/-- Stores of unit u of a walk from link-word data (R209). -/
def WalkSpec.unitPuts (w : WalkSpec) (u : Nat) (data : Nat) : List Put :=
  let sp := w.unitSpan u
  match hLayout w.h with
  | 0 => (List.range (sp.2 - sp.1)).flatMap fun i => w.puts (sp.1 + i) (bits data (i * w.b) w.b)
  | _ =>
    let k := u % w.perRun % w.halfPlanes
    let a := (w.addr sp.1).1
    (List.range 2).flatMap fun i =>
      if w.planes ≤ 2 * k + i then []
      else if w.single then (List.range (sp.2 - sp.1)).map fun j =>
        let x := w.addr (sp.1 + j)
        ⟨sp.1 + j, x.1 + (8 * (2 * k + i) : Nat), 8, x.2, 1, bits data (64 * i + j) 1, w.keep (sp.1 + j) 8 x.2 1⟩
      else [⟨sp.1, a + (8 * (2 * k + i) : Nat), 8, 0, sp.2 - sp.1, bits data (64 * i) 64, sp.2 - sp.1⟩]

end Sys2Proof.Machine
end

