-- ==== Sys2Proof/Machine/Monitor.lean ====
section
/-! DEFINITION. The health monitors and the samples that go into them (spec/19_fo_health.md R429, R430, R432). -/

namespace Sys2Proof.Machine

/-- The bucket of a sample (R429). -/
def bucketOf (v : Nat) : Nat := if v = 0 then 0 else min 15 (Nat.log2 v + 1)

/-- A monitor takes a sample; counts saturate (R429). -/
def Monitor.add (m : Monitor) (v : Nat) : Monitor :=
  let v := Nat.min v (2 ^ 32 - 1)
  let b := bucketOf v
  { min := Nat.min m.min v, max := Nat.max m.max v
    buckets := Sparse.set 0 m.buckets b (Nat.min (Sparse.get 0 m.buckets b + 1) (2 ^ 32 - 1)) }

/-- Monitor m takes a sample, which is one of the current cycle (R432). -/
def State.sample (s : State) (m v : Nat) : State := { s with health := { s.health with recent := s.health.recent ++ [(m, v)] } }

/-- The cycle is over: its samples are in the live monitors. -/
def Health.settle (h : Health) : Health :=
  { h with live := h.recent.foldl (fun l x => Sparse.modify {} l x.1 (·.add x.2)) h.live, recent := [] }

/-- Monitor m takes a latency that the spec leaves to the part (R430). -/
def State.sampleFree (s : State) (m : Nat) : State :=
  { s with health := { s.health with samples := s.health.samples + 1 } }.sample m (Config.sample s.health.samples)

/-- Lines of 64 bytes that n bytes from a up touch. -/
def lines64 (a n : Nat) : List Nat := if n = 0 then [] else (List.range ((a + n - 1) / 64 - a / 64 + 1)).map (· + a / 64)

/-- HBM reads of n bytes at a physical address: one sample for each line (R430). -/
def State.hbmRead (s : State) (a n : Nat) : State :=
  (lines64 a n).foldl (fun s l => s.sampleFree (4 + Config.stack (64 * l) % 12)) s

/-- Addresses of the table entries that a walk reads from HBM: those of which the walker has no copy. -/
def State.walkReads (s : State) (cache : Sparse Nat) (dva : Nat) : List Nat :=
  let seen := (s.walk cache dva).2
  let n := 3 - seen.length
  let tbl := match seen.getLast? with | none => s.ptroot | some x => bits x.2 8 40 * 256
  (seen.map (·.1) ++ [tbl + 8 * (if n = 0 then bits dva 16 5 else bits dva (levelLg n) 9)]).filter fun pa =>
    decide (Sparse.get 0 cache pa = 0) && decide (pa < 0xC000000000)

/-- The samples of a walk's reads (R430). -/
def State.noteWalk (s : State) (cache : Sparse Nat) (dva : Nat) : State := (s.walkReads cache dva).foldl (fun s pa => s.hbmRead pa 8) s

/-- Addresses of the module's own memory that an access under a leaf is translated at again (R360). -/
def State.hops (s : State) : Nat → Leaf → Nat → List Nat
  | 0, _, _ => []
  | k + 1, l, a =>
    if (l.target a).1 < 2 ∨ bits l.entry 48 16 ≠ s.fab.modid ∨ inRegs (l.target a).2 then []
    else (l.target a).2 :: match (s.walk [] (l.target a).2).1 with
      | .ok l' => s.hops k l' (l.target a).2
      | .mig l' => s.hops k l' (l.target a).2
      | _ => []

/-- The samples of the walks that an access makes beyond its leaf (R360, R430). -/
def State.noteHops (s : State) (l : Leaf) (a : Nat) : State := (s.hops ownHops l a).foldl (fun s x => s.noteWalk [] x) s

/-- The samples of the walks of an access that starts at the root: its own, and those beyond its leaf. -/
def State.noteWalks (s : State) (dva : Nat) : State :=
  match (s.walk [] dva).1 with
  | .ok l => (s.noteWalk [] dva).noteHops l dva
  | .mig l => (s.noteWalk [] dva).noteHops l dva
  | _ => s.noteWalk [] dva

/-- The walks of accesses at addresses, one for each 64 KiB. -/
def State.notePages (s : State) (l : List Nat) : State := ((l.map (· / 2 ^ 16)).eraseDups).foldl (fun s k => s.noteWalks (k * 2 ^ 16)) s

/-- The samples of a read, for the module itself, of 64-byte lines by number: of each HBM line, and of one walk for each 64 KiB, as no
translation is kept between such reads (DESIGN CHOICE, log 66). -/
def State.noteLines (s : State) (l : List Nat) : State :=
  l.foldl (fun s x => match s.dvaPlace (64 * x) false .stream with
    | some (.hbm, o) => s.hbmRead o 64
    | _ => s) (s.notePages (l.map (64 * ·)))

/-- The samples of such a read of n bytes. -/
def State.noteDva (s : State) (a n : Nat) : State := s.noteLines (lines64 a n)

end Sys2Proof.Machine
end

