-- ==== Sys2Proof/Machine/Complete.lean ====
section
/-! DEFINITION. How a launch completes: its completion word and its interrupt (spec/14_dw_host_launch.md R351). -/

namespace Sys2Proof.Machine

/-! ## Completion words (R351) -/

/-- n bytes at offset o of a launch record, little-endian. -/
def Launch.le (l : Launch) (o n : Nat) : Nat := wordOfBytes ((l.rcd.drop o).take n)

def Launch.kind (l : Launch) : Nat := l.le 0 1
def Launch.overlap (l : Launch) : Bool := bitB (l.le 1 1) 0
def Launch.reload (l : Launch) : Bool := bitB (l.le 1 1) 1
def Launch.irq (l : Launch) : Bool := bitB (l.le 1 1) 2
def Launch.imgg (l : Launch) : Bool := bitB (l.le 1 1) 3
def Launch.nseed (l : Launch) : Nat := l.le 2 1
def Launch.die (l : Launch) : Nat := l.le 3 1

/-- Write bytes at a host bus address or a device virtual address. -/
def State.writeAt (s : State) (loc : Bool) (a : Nat) (l : List Byte) : State :=
  if loc then s.write .host a l else (s.writeDva .stream a l).getD s

/-- Bytes at a host bus address or a device virtual address. -/
def State.readAt (s : State) (loc : Bool) (a n : Nat) : Option (List Byte) :=
  if loc then some (s.read .host a n) else s.readDva .stream a n

/-- Elapsed time in units of 256 ns, saturating: 614.4 cycles each (R351). -/
def elapsedUnits (cycles : Nat) : Nat := min 0xFFFFFFFF (cycles * 10 / 6144)

/-- A launch completes with a status and a detail: its word, and its interrupt (R351). -/
def State.completeLaunch (s : State) (id status detail : Nat) : State :=
  match s.intake.launches.find? (fun l => decide (l.id = id)) with
  | none => s
  | some l =>
    let ver := match l.fld with | some f => (s.field f).ver | none => 0
    let num := match l.fld with | some f => f % 256 | none => 255
    let w := status + detail * 2 ^ 8 + num * 2 ^ 16 + l.die * 2 ^ 24 + ver * 2 ^ 32 + l.le 20 4 * 2 ^ 64 +
      elapsedUnits (s.cycle - l.taken) * 2 ^ 96
    let s1 := s.writeAt l.loc (l.cbase + l.le 16 4) (bytesOfNat 16 w)
    { s1 with
      intake := { s1.intake with launches := s1.intake.launches.filter fun x => decide (x.id ≠ id) }
      out := if l.irq && decide (l.vec ≠ 255) then s1.out ++ [.msix l.vec] else s1.out }

/-- Launches of a field, by identifier, that satisfy a condition. -/
def State.launchesOf (s : State) (f : Nat) (p : Launch → Bool) : List Nat :=
  (s.intake.launches.filter fun l => decide (l.fld = some f) && p l).map (·.id)

/-- Launches that seed or run. -/
def Launch.atWork (l : Launch) : Bool := decide (l.st = .seeding) || decide (l.st = .running)

/-- Complete the field's launches that satisfy a condition. -/
def State.completeAll (s : State) (f status detail : Nat) (p : Launch → Bool) : State :=
  (s.launchesOf f p).foldl (fun s i => s.completeLaunch i status detail) s

end Sys2Proof.Machine
end

