-- ==== Sys2Proof/Machine/Queue.lean ====
section
/-! DEFINITION. Pump command queues: the issue of queue commands with their checks, SKIL and SSTA, and how a command ends
(spec/07_cw_engine_isa.md R200-R220, R233; spec/01_cw_execution_model.md R53). -/

namespace Sys2Proof.Machine

/-! ## Entries (R202, R203) -/

/-- The command has ended, or the entry was never used. -/
def Cmd.ended (c : Cmd) : Bool :=
  decide (c.st = .never) || decide (c.st = .done) || decide (c.st = .killed) || decide (c.st = .faulted)

/-- The command runs or is paused: it holds a running place (R210). -/
def Cmd.live (c : Cmd) : Bool := decide (c.st = .running) || decide (c.st = .paused)

/-- Task and entry of a command. -/
def taskOfCmd (cm : Nat) : Nat := cm / 16
def entryOfCmd (cm : Nat) : Nat := cm % 16

/-- The key of the task's next command. -/
def State.nextCmd (s : State) (tk : Nat) : Nat := cmdAt tk ((s.task tk).q % 16)

/-- The task's next entry is free. -/
def State.queueFree (s : State) (tk : Nat) : Bool := (s.cmd (s.nextCmd tk)).ended

/-- The core's field is in strict mode; a management core's queues are strict (R202). -/
def State.strictAt (s : State) (core : Nat) : Bool :=
  match s.fieldOf core with
  | some k => (s.field k).strict
  | none => true

/-- QUEUE_FULL, in strict mode (R202). -/
def State.queueCause (s : State) : Option (Cause × Nat) :=
  when_ (s.strictAt s.myCore && !s.queueFree s.me) .queueFull ((s.task s.me).q % 16)

/-- Accesses of a task's port that a queue command issued now comes after: those up to the last acquire, release or fence of the port, and
those that a release outside the port, a word sent, a post, an SCFG or an MSEND, has yet to cover (R295, R297, R299). -/
def State.ordersBehind (s : State) (tk : Nat) : Nat :=
  let words := (s.mesh.filter fun m => decide (m.src = some tk)).map (·.behind)
  let posts := (s.rx.ops.filter fun o => decide (o.task = tk) && match o.op with | .post _ _ => true | _ => false).map (·.behind)
  let cmds := (List.range 16).map fun e => (s.cmd (cmdAt tk e)).rel
  (words ++ posts ++ cmds).foldl max (orderedLen (s.task tk).port)

/-- A queue command takes the task's next entry with its snapshot (R201, R202). The entry is free: QUEUE_FULL and R23 see to it. -/
def State.enqueue (s : State) (op : Nat) (o : OpStr) (sop : Nat) : State :=
  let t := s.task s.me
  if !s.queueFree s.me then s
  else
    let h := s.hnd o.h
    let h2 := if o.h2 = 0 ∧ op ≠ 2 ∧ ¬ (op = 3 ∧ o.port = 0x7F) then 0 else s.hnd o.h2
    let c : Cmd :=
      { st := .waiting, op := op, o := o, stop := s.issue.last, sop := BitVec.ofNat 64 sop, h := h, h2 := h2
        hs := if hSce h then s.hnd (hSch h) else 0, h2s := if hSce h2 then s.hnd (hSch h2) else 0
        seq := t.q, ver := s.verOf s.myCore, behind := s.ordersBehind s.me, rel := if op = 8 ∨ op = 0x31 then t.port.length else 0 }
    (s.modCmd (s.nextCmd s.me) fun _ => c).modTask s.me fun t => { t with q := t.q + 1 }

/-! ## The walks of a command (R205, R211, R213) -/

/-- The indices of SGA and SSC: up to the first 0xFF or all eight. -/
def idxList (v : Nat) : List Nat := ((List.range 8).map fun i => bits v (8 * i) 8).takeWhile (· ≠ 255)

/-- The walk of handle h under a command. -/
def walkOf (op : Nat) (o : OpStr) (sop : Nat) (h h2 : Handle) : WalkSpec :=
  let paired := (decide (op ≤ 1) || (decide (5 ≤ op) && decide (op ≤ 7))) && decide (o.h2 ≠ 0)
  { h := h
    pair := if paired then some h2 else none
    offs := if op ≤ 2 then (List.range 4).map (offsetOf sop) else if op = 6 then (List.range 2).map (offsetOf sop) else []
    idx := if op = 3 ∨ op = 4 then some (idxList sop) else none
    pk := o.pk || (decide (0x40 ≤ o.port) && decide (o.port < 0x60)) }

/-- The plain walk of a memory destination. -/
def plainWalk (h : Handle) : WalkSpec := ⟨h, none, [], none, false⟩

def Cmd.spec (c : Cmd) : WalkSpec := walkOf c.op c.o c.sop.toNat c.h c.h2

/-- The walk that the command's memory writes follow: SCP's and SGA's to H2, else its own. -/
def Cmd.outSpec (c : Cmd) : WalkSpec := if c.op = 2 ∨ (c.op = 3 ∧ c.o.port = 0x7F) then plainWalk c.h2 else c.spec

/-- The command's beats are single elements, not link words: memory to memory, or a virtual channel. -/
def Cmd.byElem (c : Cmd) : Bool :=
  decide (c.op = 2) || decide (c.op = 7) || (decide (c.op = 3) && decide (c.o.port = 0x7F)) ||
  (decide (c.op ≤ 3) && decide (0x40 ≤ c.o.port) && decide (c.o.port < 0x60))

/-- Bytes of a row-layout walk under R114: each dimension-0 run from a byte boundary. -/
def WalkSpec.byteCount (w : WalkSpec) : Nat := if w.total = 0 then 0 else w.total / w.e0 * ((w.e0 * w.b + 7) / 8)

/-- Beats of the command. -/
def Cmd.units (c : Cmd) : Nat :=
  if c.op = 8 ∨ c.op = 9 then 0
  else if c.op = 0x31 then c.spec.byteCount
  else if c.byElem then c.spec.total else c.spec.units

/-- A command's position counts bytes or elements, rather than link words. -/
def Cmd.plainPos (c : Cmd) : Bool := decide (c.op = 8) || decide (c.op = 9) || decide (c.op = 0x31) || c.byElem

/-- Elements completed after the beats so far, as SSTA counts (R203). -/
def Cmd.elems (c : Cmd) (pos : Nat) : Nat :=
  if c.plainPos then pos else c.spec.done pos

/-- The position that a save image keeps: the index of the next element (R373, R374). Of a plane group one of whose link words has
moved, the number of those words stands in bits [63:56] (DESIGN CHOICE, log 64); MSEND's position counts bytes. -/
def Cmd.position (c : Cmd) : Nat := c.elems c.pos + (if c.plainPos then 0 else 2 ^ 56 * c.spec.half c.pos)

/-- The beats of a command before a kept position. -/
def Cmd.posOf (c : Cmd) (v : Nat) : Nat := if c.plainPos then v else c.spec.unitAt (v % 2 ^ 56) (v / 2 ^ 56)

/-! ## Checks at issue (R62, R200, R206-R216, R220, R233) -/

/-- A store through the handle is refused: sparse layout, or fewer planes than the format has (R116, R209). -/
def noStore (h : Handle) : Bool :=
  decide (hLayout h = 2) || (decide (hLayout h = 1) && decide (hPlanes h < if hFmt h = 7 then 4 else 2))

/-- The checks of handle H2 where it names one. -/
def State.chkPair (s : State) (o : OpStr) : Option (Cause × Nat) := if o.h2 = 0 then none else s.chkHandle o.h2

/-- The command's own HANDLE_BAD conditions on h. -/
def strBad (op : Nat) (o : OpStr) (v : Nat) (h h2 : Handle) : Bool :=
  let vc := decide (0x40 ≤ o.port) && decide (o.port < 0x60) && decide (op ≠ 1) && decide (op ≠ 4)
  ((decide (op ≤ 2) || decide (op = 6)) && offsetBad h (offsetOf v 0)) ||
  ((decide (op = 1) || decide (op = 4) || decide (op = 7)) && noStore h) ||
  (o.pk && decide (hLayout h ≠ 0)) ||
  (vc && (decide (hLayout h ≠ 0) || decide (hFmt h = 8))) ||
  (o.ls && decide (hSpace h ≠ 1)) ||
  (decide (op = 2) && (decide (hLayout h ≠ 0) || decide (hLayout h2 ≠ 0) || decide (hFmt h ≠ hFmt h2) ||
    decide ((walkOf op o v h h2).total ≠ (plainWalk h2).total))) ||
  (decide (op = 3) && decide (o.port = 0x7F) && (noStore h2 || decide (hLayout h ≠ hLayout h2) || decide (hFmt h ≠ hFmt h2) ||
    decide ((walkOf op o v h h2).total ≠ (plainWalk h2).total)))

/-- Causes of a stream command (R200). -/
def strCause (op : Nat) (o : OpStr) (s : State) : Option (Cause × Nat) :=
  let w := if op = 5 then 16 else 64
  let v := s.rd o.s w
  firstCause [s.chkHandle o.h,
    if op = 2 ∨ (op = 3 ∧ o.port = 0x7F) then s.chkHandle o.h2 else if op = 3 ∨ op = 4 then none else s.chkPair o,
    when_ (strBad op o v (s.hnd o.h) (s.hnd o.h2)) .handleBad o.h,
    if op = 6 then s.protFree (s.rectangle v).isNone else none,
    s.queueCause]

/-- A stream command issues. -/
def stream (op : Nat) (o : OpStr) (s : State) : Host.Outcome State Fault Refusal :=
  slotOr s (s.acts o.lc Pred.always) (strCause op o s) fun s => s.enqueue op o (s.rd o.s (if op = 5 then 16 else 64))

def execSld (o : OpStr) (s : State) : Host.Outcome State Fault Refusal := stream 0 o s
def execSst (o : OpStr) (s : State) : Host.Outcome State Fault Refusal := stream 1 o s
def execScp (o : OpStr) (s : State) : Host.Outcome State Fault Refusal := stream 2 o s
def execSga (o : OpStr) (s : State) : Host.Outcome State Fault Refusal := stream 3 o s
def execSsc (o : OpStr) (s : State) : Host.Outcome State Fault Refusal := stream 4 o s
def execSrec (o : OpStr) (s : State) : Host.Outcome State Fault Refusal := stream 5 o s
def execSmc (o : OpStr) (s : State) : Host.Outcome State Fault Refusal := stream 6 o s
def execSfil (o : OpStr) (s : State) : Host.Outcome State Fault Refusal := stream 7 o s

/-- SCFG: an INT8 row-layout handle of one dimension in the granary or device memory (R220). -/
def scfgCause (h : Nat) (s : State) : Option (Cause × Nat) :=
  let v := s.hnd h
  firstCause [s.chkHandle h,
    when_ (decide (hFmt v ≠ 6) || decide (hLayout v ≠ 0) || decide (hDims v ≠ 1) || !([2, 4].contains (hSpace v))) .handleBad h,
    s.queueCause]

def execScfg (lc : LoopCond) (h nt : Nat) (nk : Bool) (s : State) : Host.Outcome State Fault Refusal :=
  slotOr s (s.acts lc Pred.always) (scfgCause h s) fun s => s.enqueue 8 ⟨lc, h, 0, nt, 0, 0, false, false, 0, nk⟩ 0

/-- SBAR: its class mask stands in the stream mod fields, [4:1] (R219). -/
def execSbar (lc : LoopCond) (mask nt : Nat) (nk : Bool) (s : State) : Host.Outcome State Fault Refusal :=
  slotOr s (s.acts lc Pred.always) s.queueCause fun s =>
    s.enqueue 9 ⟨lc, 0, 0, nt, 0, 0, bitB mask 3, bitB mask 2, mask % 4, nk⟩ 0

/-- The class mask of an SBAR's entry. -/
def sbarMask (o : OpStr) : Nat := b2n o.ls * 8 + b2n o.pk * 4 + o.cls

/-- MSEND: a row-layout walk of fewer than 2^40 bytes, and an aligned descriptor in the own bin or the window (R233). -/
def msendCause (o : OpHS) (s : State) : Option (Cause × Nat) :=
  let a := s.rd o.s 32
  let info := 16 * 2 ^ 32 + a
  firstCause [s.chkHandle o.h,
    when_ (decide (hLayout (s.hnd o.h) ≠ 0) || decide (2 ^ 40 ≤ (plainWalk (s.hnd o.h)).byteCount)) .handleBad o.h,
    when_ (decide (a % 16 ≠ 0)) .accessBound info, s.chkCause a 16, when_ (decide (0x20000000 ≤ a)) .accessProt info, s.queueCause]

def execMsend (o : OpHS) (s : State) : Host.Outcome State Fault Refusal :=
  slotOr s (s.acts o.lc Pred.always) (msendCause o s) fun s =>
    s.enqueue 0x31 ⟨o.lc, o.h, 0, 0, 0, o.s, false, false, 0, false⟩ (s.rd o.s 32)

/-! ## Ends (R204, R217, R218, R53) -/

/-- A task's fault record, or a stream's: kind 3 (R368). -/
def State.streamRec (s : State) (cm : Nat) (kind : Nat) (wr : Bool) (va count : Nat) : State :=
  let tk := taskOfCmd cm
  let k := coreOf tk
  s.pushRec ⟨3, .streamFault, dieOf k, s.fieldNum k, (s.cmd cm).ver, tileOf k, ctxOf tk, entryOfCmd cm, 255, 255,
    kind + 256 * b2n wr, va, count, s.cycle⟩

/-- Notify: the counter that NT names takes one decrement (R217). -/
def State.notifyCmd (s : State) (cm : Nat) : State :=
  let c := s.cmd cm
  if c.o.nk then s.decCounter (coreOf (taskOfCmd cm)) c.o.nt else s

/-- The command ends DONE: count, notify, latency sample (R217, R427, R430). -/
def State.doneCmd (s : State) (cm : Nat) : State :=
  let c := s.cmd cm
  let tk := taskOfCmd cm
  (((s.modCmd cm fun c => { c with st := .done, count := c.elems c.pos, walk := none, xl := none, lines := [], under := [], stale := false }).modTask tk fun t =>
    { t with qdone := t.qdone + 1 }).notifyCmd cm).sample (dieOf (coreOf tk)) (s.cycle - c.start)

/-- The command ends KILLED: no notify (R204). -/
def State.endKilled (s : State) (cm : Nat) : State :=
  s.modCmd cm fun c => { c with st := .killed, count := c.elems c.pos, walk := none, xl := none, lines := [], under := [], stale := false, owed := [], redo := [], kill := false }

/-- SKIL of one entry (R204). -/
def State.killCmd (s : State) (cm : Nat) : State :=
  let c := s.cmd cm
  if c.ended || (decide (c.op = 8) && c.entered) || (decide (c.op = 0x31) && c.sent) then s
  else if decide (c.st = .waiting) || c.owed.all (·.line.isSome) then s.endKilled cm
  else s.modCmd cm fun c => { c.beatOver with kill := true, walk := none }

/-- The command ends FAULTED with a fault kind (R203). -/
def State.failCmd (s : State) (cm kind : Nat) : State :=
  s.modCmd cm fun c => { c with st := .faulted, fault := kind, count := c.elems c.pos, walk := none, xl := none, lines := [], under := [], stale := false, owed := [], redo := [] }

/-- A protection fault ends the field: its tasks are FAULTED and it freezes, and its launches complete FAULTED (R53, R55, R349). -/
def State.endField (s : State) (k : Nat) : State :=
  if (s.field k).st = .unloaded then s
  else (match (s.field k).closing with
    | some (c, _) => s.modField k fun f => { f with closing := some (c, true) }
    | none => s.freeze k .streamFault true).completeAll k 4 0x0B fun _ => true

/-- A protection fault of a stream or landing of a core ends its field; a management core halts (R53, R367). -/
def State.endCore (s : State) (core : Nat) : State :=
  match s.fieldOf core with
  | some k => s.endField k
  | none =>
    if isMgmt core then { s with pkg := { s.pkg with fwstate := 2 } }.modDie (dieOf core) fun d => { d with halted := true }
    else s

/-- The stream pauses at an element: kind 1 (R218). -/
def State.pauseCmd (s : State) (cm : Nat) (wr : Bool) (va count : Nat) : State :=
  let tk := taskOfCmd cm
  let k := coreOf tk
  ((s.modCmd cm fun c => { c.beatOver with st := .paused, fault := 1, count := count, walk := none }).streamRec cm 1 wr va count).traceEvent
    (dieOf k) 4 (tileOf k + 256 * entryOfCmd cm) (tileOf k) (s.fieldNum k) (s.cmd cm).ver

/-- The stream faults at an element with kind 2, 3 or 4: one record, and the field ends (R53, R218). -/
def State.faultCmd (s : State) (cm kind : Nat) (wr : Bool) (va count : Nat) : State :=
  let k := coreOf (taskOfCmd cm)
  let s1 := (s.failCmd cm kind).modCmd cm fun c => { c with count := count }
  (if isMgmt k then s1 else s1.streamRec cm kind wr va count).endCore k

def execSkil (lc : LoopCond) (all : Bool) (entry : Nat) (s : State) : Host.Outcome State Fault Refusal :=
  slot s (s.acts lc Pred.always) fun s =>
    if all then (List.range 16).foldl (fun s e => s.killCmd (cmdAt s.me e)) s else s.killCmd (cmdAt s.me entry)

/-- STATE codes of R203. -/
def qCode : QState → Nat
  | .never => 0 | .waiting => 1 | .running => 2 | .paused => 3 | .done => 4 | .killed => 5 | .faulted => 6

/-- The SSTA word of an entry (R203). -/
def Cmd.status (c : Cmd) : Nat :=
  qCode c.st + c.fault * 2 ^ 4 + c.op * 2 ^ 10 +
    (if c.st = .running ∨ c.st = .waiting then c.elems c.pos else c.count) % 2 ^ 40 * 2 ^ 16

def execSsta (lc : LoopCond) (sl entry : Nat) (s : State) : Host.Outcome State Fault Refusal :=
  slot s (s.acts lc Pred.always) fun s => s.returnNow sl 16 (s.cmd (cmdAt s.me entry)).status

end Sys2Proof.Machine
end

