-- ==== Sys2Proof/Machine/Special.lean ====
section
/-! DEFINITION. EXP2, LOG2 and TANH, correctly rounded to FP32 (spec/04_cw_number_formats.md R137): 256-bit fixed point with a
sticky last bit, far beyond what rounding of an irrational result needs. -/

namespace Sys2Proof.Machine

/-- The natural logarithm of 2, times 2^256, rounded down. -/
def ln2x : Nat := 80260960185991308862233904206310070533990667611589946606122867505419956976171

/-- Sum of n terms of the exponential series from term k, value t: fixed point at 2^256. -/
def expSeries : Nat → Nat → Nat → Nat → Nat → Nat
  | 0, _, _, _, acc => acc
  | n + 1, k, z, t, acc => expSeries n (k + 1) z (t * z / 2 ^ 256 / (k + 1)) (acc + t)

/-- 2^f for a fraction f, in fixed point at 2^256. -/
def exp2Frac (f : Nat) : Nat := expSeries 70 0 (f * ln2x / 2 ^ 256) (2 ^ 256) 0

/-- 2^x. -/
def exp2V (v : FVal) : FVal :=
  match v with
  | .nan => .nan
  | .inf n => if n then .num false 0 0 else .inf false
  | .num n m e =>
    if 9 ≤ (m.log2 : Int) + e then .num false 1 (if n then -400 else 400)
    else
      let x : Int := (if n then -1 else 1) * ((m * 2 ^ (256 + e).toNat : Nat) : Int)
      let f := (x % (2 ^ 256 : Nat)).toNat
      if f = 0 then .num false 1 (x / (2 ^ 256 : Nat))
      else .num false (2 * exp2Frac f + 1) (x / (2 ^ 256 : Nat) - 257)

/-- Fraction bits of log2 of y in [1, 2), by repeated squaring in fixed point at 2^256. -/
def log2Bits : Nat → Nat → Nat → Nat
  | 0, _, a => a
  | n + 1, y, a =>
    let q := y * y / 2 ^ 256
    if 2 ^ 257 ≤ q then log2Bits n (q / 2) (2 * a + 1) else log2Bits n q (2 * a)

/-- log2 x. -/
def log2V (v : FVal) : FVal :=
  match v with
  | .nan => .nan
  | .inf n => if n then .nan else .inf false
  | .num n m e =>
    if m = 0 then .inf true
    else if n then .nan
    else
      let k : Int := (m.log2 : Int) + e
      if m = 2 ^ m.log2 then ofScaled k 0
      else ofScaled (2 * (k * (2 ^ 120 : Nat) + (log2Bits 120 (m * 2 ^ (256 - m.log2)) 0 : Int)) + 1) (-121)

/-- tanh x: x itself below 2^-12, where x - x^3/3 rounds to x, and 1 from 16 up. -/
def tanhV (v : FVal) : FVal :=
  match v with
  | .nan => .nan
  | .inf n => .num n 1 0
  | .num n m e =>
    if m = 0 ∨ (m.log2 : Int) + e < -12 then v
    else if 4 ≤ (m.log2 : Int) + e then .num n 1 0
    else
      let t := m * 2 ^ (257 + e).toNat * 2 ^ 256 / ln2x
      let ex := exp2Frac (t % 2 ^ 256) * 2 ^ (t / 2 ^ 256)
      .num n (stickyDiv ((ex - 2 ^ 256) * 2 ^ 256) (ex + 2 ^ 256)) (-257)

end Sys2Proof.Machine
end

