-- ==== Sys2Proof/Machine/CellOps.lean ====
section
/-! DEFINITION. What a cell's words say and what each cell operation computes (spec/08_cw_cell_words.md R242-R251, R261-R274;
spec/04_cw_number_formats.md R121, R122, R125, R133-R136). -/

namespace Sys2Proof.Machine

/-! ## Program and setup words (R245-R250) -/

def Cell.word (c : Cell) (i : Nat) : Nat := (Sparse.get 0 c.prog i).toNat
def Cell.sw0 (c : Cell) : Nat := c.word 16
def Cell.sw1 (c : Cell) : Nat := c.word 17
def Cell.en (c : Cell) : Bool := bitB c.sw0 18
def Cell.group (c : Cell) : Nat := bits c.sw0 0 8
def Cell.ii (c : Cell) : Nat := bits c.sw0 8 8
def Cell.twin (c : Cell) : Bool := bitB c.sw0 16
def Cell.shadow (c : Cell) : Bool := bitB c.sw0 17
def Cell.afmt (c : Cell) : Nat := bits c.sw0 20 3
def Cell.dfa (c : Cell) : Nat := bits c.sw0 24 4
def Cell.dfb (c : Cell) : Nat := bits c.sw0 28 4
def Cell.dsc (c : Cell) : Bool := bitB c.sw0 32
def Cell.dpl (c : Cell) : Bool := bitB c.sw0 33
def Cell.dsn (c : Cell) : Nat := if bitB c.sw0 34 then 8 else 4
def Cell.nrota (c : Cell) : Nat := bits c.sw1 16 5
def Cell.rotaAt (c : Cell) (e : Nat) : Nat := bits c.sw1 (24 + 5 * e) 5
def Cell.itok (c : Cell) (j : Nat) : Nat := bits c.sw1 (2 * j) 2

/-- A move of a step (R245). -/
structure Move where
  src : Nat
  dst : Nat
  op : Nat
  gk : Nat
  gn : Nat
  m : Nat
  deriving DecidableEq, Repr

/-- Move i of a move word. -/
def moveOf (w i : Nat) : Move :=
  let v := bits w (28 * i) 28
  ⟨bits v 21 7, bits v 14 7, bits v 8 6, bits v 5 3, bits v 2 3, bits v 0 2⟩

/-- The non-empty moves of step n, in order. -/
def Cell.moves (c : Cell) (n : Nat) : List Move := ((List.range 4).map (moveOf (c.word n))).filter fun m => decide (m.src ≠ 0)

def Cell.rep (c : Cell) : Nat := bits (c.word c.step) 112 4
def Cell.next (c : Cell) : Nat := bits (c.word c.step) 116 4
def Cell.mbt (c : Cell) : Nat := bits (c.word c.step) 120 4
def Cell.mbk (c : Cell) : Nat := bits (c.word c.step) 124 3
def Cell.stop (c : Cell) : Bool := bitB (c.word c.step) 127

/-- Port kinds (R244). -/
def isLink (p : Nat) : Bool := decide (1 ≤ p) && decide (p ≤ 8)
def isTrough (p : Nat) : Bool := decide (0x10 ≤ p) && decide (p ≤ 0x17)
def isLatch (p : Nat) : Bool :=
  [0x20, 0x21, 0x23, 0x24, 0x25, 0x26, 0x28, 0x2A, 0x2B, 0x2E, 0x40, 0x41].contains p
def isTrigger (p : Nat) : Bool :=
  [0x22, 0x27, 0x29, 0x2C, 0x2D, 0x2F].contains p || (decide (0x30 ≤ p) && decide (p ≤ 0x3F))

/-- Link inputs that moves read and outputs they write, by code, each once, in move order. -/
def insOf (l : List Move) : List Nat := (l.map (·.src)).filter (fun p => isLink p || decide (p = 0x29)) |>.eraseDups
def outsOf (l : List Move) : List Nat := (l.map (·.dst)).filter isLink

/-! ## Words (R242, R261) -/

/-- An error token with a mark. -/
def errTok (mark : Nat) : LinkWord := { mark := mark, err := true, valid := true }

/-- A valid word. -/
def okWord (data : Nat) (mark : Nat) : LinkWord := { data := BitVec.ofNat 128 data, mark := mark, valid := true }

/-- Lane j of width b. -/
def LinkWord.lane (w : LinkWord) (b j : Nat) : Nat := bits w.data.toNat (b * j) b

/-- Lanes of width b packed from lane 0 up. -/
def packLanes (b : Nat) : List Nat → Nat
  | [] => 0
  | v :: l => v % 2 ^ b + 2 ^ b * packLanes b l

/-- A result from operand words: the largest mark, and an error token if any of them is one (R261). -/
def resultWord (uses : List LinkWord) (data : Nat) : LinkWord :=
  let mark := uses.foldl (fun m w => max m w.mark) 0
  if uses.any (·.err) then errTok mark else okWord data mark

/-! ## ALU (R263, R264, R136) -/

/-- Lane width and lanes under AFMT. -/
def laneW (afmt : Nat) : Nat := if afmt = 0 ∨ afmt = 2 then 32 else 16
def lanesOf (afmt : Nat) : Nat := 128 / laneW afmt

/-- The lane format of a floating-point AFMT. -/
def laneFmt (afmt : Nat) : FFmt := if afmt = 2 then fp32 else if afmt = 3 then fp16 else bf16

/-- An integer lane operation. -/
def aluLane (op w a b c : Nat) : Nat :=
  let n := b % w
  match op with
  | 0 => (a + b) % 2 ^ w
  | 1 => (a + 2 ^ w - b) % 2 ^ w
  | 2 => a * b % 2 ^ w
  | 3 => if sextN a w ≤ sextN b w then a else b
  | 4 => if sextN a w ≤ sextN b w then b else a
  | 5 => a &&& b
  | 6 => a ||| b
  | 7 => a ^^^ b
  | 8 => a * 2 ^ n % 2 ^ w
  | 9 => a / 2 ^ n
  | 10 => lowBits (sextN a w / (2 ^ n : Nat)) w
  | _ => if c = 0 then b else a

/-- A floating-point lane operation; FCMP takes its condition from M. -/
def aluFLane (f : FFmt) (op m a b c : Nat) : Nat :=
  let x := fdec f a
  let y := fdec f b
  match op with
  | 0x10 => rne f (fsum [x, y])
  | 0x11 => rne f (fsum [x, y.negate])
  | 0x12 => rne f (fmulV x y)
  | 0x13 => rne f (fsum [fmulV x y, fdec f c])
  | 0x14 => rne f (fminV x y)
  | 0x15 => rne f (fmaxV x y)
  | _ => if fcmpHolds (match m with | 0 => 0 | 1 => 2 | 2 => 3 | _ => 4) x y then 2 ^ f.w - 1 else 0

/-- Combine lanes pairwise in a tree (R136). -/
def pairUp (f : Nat → Nat → Nat) : List Nat → List Nat
  | a :: b :: l => f a b :: pairUp f l
  | l => l

/-- CVT of kind M (R264): the data of the result. -/
def cvtData (afmt m : Nat) (a b : LinkWord) : Nat :=
  let w := laneW afmt
  let f := laneFmt afmt
  match m with
  | 0 => packLanes w ((List.range (lanesOf afmt)).map fun j => cvtInt true false true w (fdec f (b.lane w j)))
  | 1 => packLanes w ((List.range (lanesOf afmt)).map fun j => rne f (ofScaled (sextN (b.lane w j) w) 0))
  | 2 => packLanes 16 ((List.range 4).map (fun j => rne f (fdec fp32 (a.lane 32 j))) ++
      (List.range 4).map fun j => rne f (fdec fp32 (b.lane 32 j)))
  | _ => packLanes 32 ((List.range 4).map fun j => rne fp32 (fdec f (b.lane 16 j)))

/-- The ALU's result for operation op with modifier m on a, the trigger word b, and c. -/
def aluResult (afmt op m : Nat) (a b c : LinkWord) : LinkWord :=
  let w := laneW afmt
  let n := lanesOf afmt
  let lanes (f : Nat → Nat) := packLanes w ((List.range n).map f)
  if op ≤ 0x0A then resultWord [a, b] (lanes fun j => aluLane op w (a.lane w j) (b.lane w j) 0)
  else if op = 0x0B then resultWord [a, b, c] (lanes fun j => aluLane op w (a.lane w j) (b.lane w j) (c.lane w j))
  else if op = 0x0C then resultWord [a, b] (lanes fun j => a.lane w (b.lane w j % n))
  else if op = 0x0D then resultWord [b] (lanes fun _ => b.lane w 0)
  else if op = 0x13 then resultWord [a, b, c] (lanes fun j => aluFLane (laneFmt afmt) op m (a.lane w j) (b.lane w j) (c.lane w j))
  else if op ≤ 0x16 then resultWord [a, b] (lanes fun j => aluFLane (laneFmt afmt) op m (a.lane w j) (b.lane w j) 0)
  else if op = 0x17 then resultWord (if m = 2 then [a, b] else [b]) (cvtData afmt m a b)
  else
    let f := laneFmt afmt
    let step := pairUp fun x y => rne f (if op = 0x18 then fsum [fdec f x, fdec f y] else fmaxV (fdec f x) (fdec f y))
    let l := step (step ((List.range n).map (b.lane w)))
    resultWord [b] ((if n = 8 then step l else l).headD 0)

/-- Latency of an ALU operation. -/
def aluLat (op : Nat) : Nat := if op < 0x10 then 1 else 5

/-! ## SFU (R271) -/

def sfuV (op : Nat) (v : FVal) : FVal :=
  match op with
  | 0 => exp2V v
  | 1 => log2V v
  | 2 => frcpV v
  | 3 => frsqV v
  | _ => tanhV v

def sfuResult (op : Nat) (t : LinkWord) : LinkWord :=
  resultWord [t] (packLanes 32 ((List.range 4).map fun j => rne fp32 (sfuV op (fdec fp32 (t.lane 32 j)))))

/-! ## DOT (R265-R270) -/

/-- The value of an element code of a format of R61. -/
def elemV (fmt v : Nat) : FVal :=
  match fmt with
  | 0 => fdec fp32 v
  | 1 => fdec fp16 v
  | 2 => fdec bf16 v
  | 3 => fdec e4m3 v
  | 4 => fdec e5m2 v
  | 5 => fdec e2m1 v
  | 9 => d8Dec v
  | _ => ofScaled (sextN v (fmtBits fmt)) 0

/-- A block scale: BF16, positive, finite and nonzero, or a NaN (R122). -/
def scaleV (v : Nat) : FVal := if 1 ≤ v ∧ v ≤ 0x7F7F then fdec bf16 v else .nan

/-- The accumulator holds an INT32 (R265). -/
def Cell.intAcc (c : Cell) : Bool :=
  c.dpl || (!c.dsc && ((decide (c.dfa = 6) && decide (c.dfb = 6)) || (decide (c.dfa = 7) && decide (c.dfb = 7))))

/-- One accumulation under R133 or R134: element pairs, scale pair h where scales apply. The new value, and whether it clamped. R133's rule on an
exact zero sum asks for the sign of each zero product; an integer zero has none, and a zero times a negative integer counts as negative
(DESIGN CHOICE, log 61). -/
def Cell.accum (c : Cell) (h : Nat) (acc : Nat) (pairs : List (Nat × Nat)) : Nat × Bool :=
  if c.intAcc then
    let sum := pairs.foldl (fun s p => s + sextN p.1 (fmtBits c.dfa) * sextN p.2 (fmtBits c.dfb)) (sextN acc 32)
    if sum > 2147483647 then (0x7FFFFFFF, true)
    else if sum < -2147483648 then (0x80000000, true)
    else (lowBits sum 32, false)
  else
    let sc := if c.dsc then fmulV (scaleV (bits c.scale.toNat (32 * h) 16)) (scaleV (bits c.scale.toNat (32 * h + 16) 16))
      else .num false 1 0
    let prods := pairs.map fun p => fmulV sc (fmulV (elemV c.dfa p.1) (elemV c.dfb p.2))
    let bad := sc.isNan
    (rne fp32 (if bad then .nan else fsum (fdec fp32 acc :: prods)), false)

/-- DOT without planes: all elements of the two words (R267). -/
def Cell.dot (c : Cell) (acc : Nat) (a b : LinkWord) : Nat × Bool :=
  let w := fmtBits c.dfa
  let v := fmtBits c.dfb
  c.accum 0 acc ((List.range (128 / w)).map fun j => (a.lane w j, b.lane v j))

/-- Set bits of a 64-bit word. -/
def popcount64 (v : Nat) : Nat := ((List.range 64).filter (bitB v)).length

/-- DOT with planes (R270); m names the word indices of A and B. -/
def Cell.dotPlanes (c : Cell) (acc m : Nat) (a b : LinkWord) : Nat × Bool :=
  let wa : Int := fmtBits c.dfa
  let wb : Int := fmtBits c.dfb
  let wt (p w : Int) : Int := if p = w - 1 then -(2 ^ p.toNat : Nat) else (2 ^ p.toNat : Nat)
  let terms : List Int := (List.range 2).flatMap fun (u : Nat) => (List.range 2).map fun (v : Nat) =>
    let pa : Int := wa - 1 - 2 * (m % 2 : Nat) - u
    let pb : Int := wb - 1 - 2 * (m / 2 % 2 : Nat) - v
    if 0 ≤ pa ∧ 0 ≤ pb then wt pa wa * wt pb wb * (popcount64 (a.lane 64 u &&& b.lane 64 v) : Nat) else 0
  let sum := terms.foldl (· + ·) (sextN acc 32)
  if sum > 2147483647 then (0x7FFFFFFF, true)
  else if sum < -2147483648 then (0x80000000, true)
  else (lowBits sum 32, false)

/-- A sparse group as packed: N values and N indices (R123). -/
structure Group where
  vals : List Nat
  idx : List Nat
  deriving DecidableEq, Repr

/-- Strictly ascending. -/
def ascending : List Nat → Bool
  | a :: b :: l => decide (a < b) && ascending (b :: l)
  | _ => true

/-- Groups of a DOTS, from its A words in order (R208, R268). -/
def Cell.groups (c : Cell) (a ax : LinkWord) : List Group :=
  let w := fmtBits c.dfa
  let n := c.dsn
  let recB := n * w + 4 * n
  let per := 128 / recB
  let one (x : LinkWord) (i : Nat) : Group :=
    let v := bits x.data.toNat (recB * i) recB
    ⟨(List.range n).map fun k => bits v (w * k) w, (List.range n).map fun k => bits v (w * n + 4 * k) 4⟩
  let total := if w = 8 then 2 else 4
  (((List.range per).map (one a)) ++ ((List.range per).map (one ax))).take total

/-- One operation of DOTS over two groups: accumulator value, poison and clamp (R268). -/
def Cell.dotsOp (c : Cell) (h : Nat) (gs : List Group) (b bx : LinkWord) (st : Nat × Bool × Bool) : Nat × Bool × Bool :=
  let v := fmtBits c.dfb
  let per := 128 / v
  let elem (p : Nat) : Nat := if p < per then b.lane v p else bx.lane v (p - per)
  let two := (gs.drop (2 * h)).take 2
  if two.all (fun g => ascending g.idx) then
    let pairs := (two.zipIdx).flatMap fun x => (x.1.vals.zip x.1.idx).map fun y => (y.1, elem (32 * h + 16 * x.2 + y.2))
    let r := c.accum h st.1 pairs
    (r.1, st.2.1, st.2.2 || r.2)
  else (st.1, true, st.2.2)

/-- DOTS: its one or two operations in order. -/
def Cell.dots (c : Cell) (acc : Nat) (a ax b bx : LinkWord) : Nat × Bool × Bool :=
  let gs := c.groups a ax
  (List.range (if fmtBits c.dfa = 8 then 1 else 2)).foldl (fun st h => c.dotsOp h gs b bx st) (acc, false, false)

/-- DOTS takes dot.ax: N = 8 (R268). -/
def Cell.usesAx (c : Cell) : Bool := decide (c.dsn = 8)

/-! ## Steering, merging, marks (R272, R273) -/

/-- The four words of STEER with a fan, for ports st.o0 to st.o3. -/
def steerWords (fan : Nat) (d t : LinkWord) : List LinkWord :=
  let i := t.lane 32 0
  (List.range 4).map fun k =>
    if t.err || decide (fan ≤ i) then (if k = 0 then errTok t.mark else {}) else if k = i then d else {}

def mergeWord (d0 d1 t : LinkWord) : LinkWord :=
  let i := t.lane 32 0
  if t.err || decide (2 ≤ i) then errTok t.mark else if i = 0 then d0 else d1

/-- The mark unit's result; DROP has none. -/
def markWord (op : Nat) (t : LinkWord) : Option LinkWord :=
  if op ≤ 7 then some { t with mark := op }
  else if op = 8 then none
  else if op = 9 then some (okWord (b2n t.err) t.mark)
  else some (if t.err then errTok t.mark else okWord (b2n (decide (op - 0x10 ≤ t.mark))) t.mark)

end Sys2Proof.Machine
end

