-- ==== Sys2Proof/Machine/Cells.lean ====
section
/-! DEFINITION. The array: links, firing, landings, bin ports and twin comparison (spec/08_cw_cell_words.md R243, R246-R262,
R274-R279). -/

namespace Sys2Proof.Machine

/-! ## Links (R243) -/

def coreOfCell (k : Nat) : Nat := k / 256
def cellX (k : Nat) : Nat := k % 16
def cellY (k : Nat) : Nat := k % 256 / 16

/-- The cell at die coordinates (x, y) of a die of 192 by 192 cells. -/
def cellAt (die x y : Nat) : Nat := (die * 256 + y / 16 * 12 + x / 16) * 256 + y % 16 * 16 + x % 16

/-- Die coordinates of a cell. -/
def dieX (k : Nat) : Nat := tileOf (coreOfCell k) % 12 * 16 + cellX k
def dieY (k : Nat) : Nat := tileOf (coreOfCell k) / 12 * 16 + cellY k

/-- The neighbour in the direction of output or input index i: north, east, south, west; none at the die's edge or outside the
field. -/
def State.neighbour (s : State) (k i : Nat) : Option Nat :=
  let x := dieX k
  let y := dieY k
  let d := dieOf (coreOfCell k)
  let n : Option Nat :=
    match i / 2 with
    | 0 => if y = 0 then none else some (cellAt d x (y - 1))
    | 1 => if 191 ≤ x then none else some (cellAt d (x + 1) y)
    | 2 => if 191 ≤ y then none else some (cellAt d x (y + 1))
    | _ => if x = 0 then none else some (cellAt d (x - 1) y)
  match n with
  | some m => if (s.tile (coreOfCell m)).fld = (s.tile (coreOfCell k)).fld then some m else none
  | none => none

/-- Input that output j of a cell reaches, and output that feeds input i: the same lane of the facing side. -/
def facing (j : Nat) : Nat := (j + 4) % 8

/-- The pump's output code of output j of a cell, where a select bit (bit 0 east, bit 1 south) gives the output to the pump (R198, R248). -/
def pumpBy (sel k j : Nat) : Option Nat :=
  if j = 2 ∧ cellX k = 15 ∧ bitB sel 0 then some (cellY k)
  else if j = 4 ∧ cellY k = 15 ∧ bitB sel 1 then some (16 + cellX k)
  else none

def pumpOut (c : Cell) (k j : Nat) : Option Nat := pumpBy (bits c.sw0 40 2) k j

/-- Input i of the cell is fed by the pump (R248). -/
def pumpIn (c : Cell) (k i : Nat) : Bool :=
  ((decide (i = 6) || decide (i = 7)) && decide (cellX k = 0) && bitB c.sw0 (30 + i)) ||
  (decide (i ≤ 1) && decide (cellY k = 0) && bitB c.sw0 (38 + i))

/-- Where output j of a cell goes. -/
inductive Sink where
  | pump (code : Nat)
  | cell (k i : Nat)
  | nowhere
  deriving DecidableEq, Repr

def State.sinkBy (s : State) (sel k j : Nat) : Sink :=
  match pumpBy sel k j with
  | some c => .pump c
  | none => match s.neighbour k j with
    | some m => .cell m (facing j)
    | none => .nowhere

def State.sinkOf (s : State) (k j : Nat) : Sink := s.sinkBy (bits (s.cell k).sw0 40 2) k j

/-- Words in FIFO i of a cell, and on the way from output j. -/
def Cell.fifo (c : Cell) (i : Nat) : List LinkWord := Sparse.get [] c.inp i
def Cell.wire (c : Cell) (j : Nat) : List LinkWord := Sparse.get [] c.wires j
def Tile.outFifo (t : Tile) (n : Nat) : List LinkWord := Sparse.get [] t.outq n

/-! ## Twin groups (R277-R279) -/

/-- The shadow of a primary cell, and the primary of a shadow. -/
def shadowOf (k : Nat) : Nat := k + 128
def primaryOf (s : State) (k : Nat) : Nat := if (s.cell k).shadow then k - 128 else k

/-- Two cells are members of one twinned group, on the same side. -/
def sameTwin (a b : Cell) (ka kb : Nat) : Bool :=
  a.twin && b.twin && decide (a.group = b.group) && decide (a.shadow = b.shadow) && decide (coreOfCell ka = coreOfCell kb)

/-- A word to this cell from outside its group also goes to its shadow (R278). -/
def State.mirrored (s : State) (src : Option Nat) (k : Nat) : Bool :=
  let c := s.cell k
  c.twin && !c.shadow && (match src with | some x => !sameTwin (s.cell x) c x k | none => true)

/-- Output j of a twinned cell leaves the group: a twin sink (R279), judged at the primary. -/
def State.twinSink (s : State) (k j : Nat) : Bool :=
  let p := primaryOf s k
  (s.cell k).twin && (match s.sinkOf p j with
    | .pump _ => true
    | .cell m _ => !sameTwin (s.cell p) (s.cell m) p m
    | .nowhere => true)

/-! ## Room -/

/-- A cell's input takes a word from a source (none: the pump), with n words on the way already. -/
def State.inRoom (s : State) (src : Option Nat) (k i n : Nat) : Bool :=
  decide (((s.cell k).fifo i).length + n < 4) && (!s.mirrored src k || decide (((s.cell (shadowOf k)).fifo i).length + n < 4))

/-- Output j of a cell has room for one word (R254, R285). -/
def State.outRoom (s : State) (k j : Nat) : Bool :=
  let c := s.cell k
  let n := (c.wire j).length
  if c.shadow && s.twinSink k j then true
  else match s.sinkOf k j with
    | .pump code => decide (((s.tile (coreOfCell k)).outFifo code).length + n < 4)
    | .cell m i => s.inRoom (some k) m i n &&
        (!c.loaded || ((s.cell m).loaded && (!s.mirrored (some k) m || (s.cell (shadowOf m)).loaded)))
    | .nowhere => false

/-- The operation delivers a result word to bp.r (R274). -/
def BinOp.gives (b : BinOp) : Bool := b.hole || [0, 2, 4].contains b.op

/-- The oldest result of the bin port, once it is there. -/
def Cell.binHead (c : Cell) : Option BinOp :=
  match c.bin.find? BinOp.gives with
  | some b => if b.done then some b else none
  | none => none

/-- The firing conditions of R254 that concern words and room: kind and port as R260 codes them, whether met, and since when. A firing takes
its own read of bp.r before its trigger, and so makes a place (R255, R311). -/
def State.conditions (s : State) (k : Nat) : List (Nat × Nat × Bool × Nat) :=
  let c := s.cell k
  let l := c.moves c.step
  let prev := c.lastFire.getD 0
  (insOf l).map (fun p =>
    if p = 0x29 then (0, p, c.binHead.isSome, max prev ((c.binHead.map (·.res.time)).getD 0))
    else (0, p, !(c.fifo (p - 1)).isEmpty, max prev (((c.fifo (p - 1)).head?.map (·.time)).getD 0))) ++
  (outsOf l).map (fun p => (1, p, s.outRoom k (p - 1), max prev (Sparse.get 0 c.roomAt (p - 1)))) ++
  (if (l.map (·.dst)).contains 0x2F then
    [(2, 0x2F, decide (c.bin.length < 4 + b2n ((insOf l).contains 0x29 && c.binHead.isSome)), max prev (Sparse.get 0 c.roomAt 8))] else []) ++
  (if c.twin then [(3, 0x7F, c.sinks.isEmpty, max prev (Sparse.get 0 c.roomAt 9))] else [])

/-- The field of a cell runs. -/
def State.cellRuns (s : State) (k : Nat) : Bool :=
  match s.fieldOf (coreOfCell k) with
  | some f => (s.field f).runs
  | none => false

/-- The array stops stepping while its field is pre-empted (R373), but for a twinned cell that its counterpart is ahead of: the
counterpart's sinks wait for its own (notes/assumptions/30.md). -/
def State.arraySteps (s : State) (k : Nat) : Bool :=
  match s.fieldOf (coreOfCell k) with
  | some f =>
    let c := s.cell k
    !(s.field f).stopping || (c.twin && decide (c.count < (s.cell (if c.shadow then k - 128 else k + 128)).count))
  | none => false

/-- Cycles of the clock of a cell's field: all, and those while LIVE (R388). -/
def State.ownCycles (s : State) (k : Nat) : Nat := match s.fieldOf (coreOfCell k) with | some f => (s.field f).own / 12 | none => 0
def State.liveCycles (s : State) (k : Nat) : Nat := match s.fieldOf (coreOfCell k) with | some f => (s.field f).live / 12 | none => 0

/-- The cell fires its step now, at most once in a cycle (R254). -/
def State.canFire (s : State) (k : Nat) : Bool :=
  let c := s.cell k
  c.en && !c.stopped && s.cellRuns k && s.arraySteps k && (c.lastFire.isNone || decide (c.lastOwn ≠ s.ownCycles k)) &&
    (s.conditions k).all fun x => x.2.2.1

/-! ## Faults of cells -/

/-- A field fault that names a cell and its group (R55). -/
def State.cellFault (s : State) (k : Nat) (c : Cause) (info : Nat) : State :=
  match s.fieldOf (coreOfCell k) with
  | some f => s.fieldFault f c (tileOf (coreOfCell k)) (s.cell k).group (k % 256) info
  | none => s

/-! ## The rota (R258) -/

/-- The rota code of an access. -/
def rotaCode (wr : Bool) (port : Nat) : Nat := if wr then 0x10 + (port - 1) else if port = 0x29 then 8 else port - 1

/-- The first access that differs from the rota: pointer and port. -/
def Cell.rotaCheck (c : Cell) : Nat → List (Bool × Nat) → Option (Nat × Nat)
  | _, [] => none
  | p, (wr, port) :: l =>
    if c.nrota = 0 ∨ c.rotaAt p ≠ rotaCode wr port then some (p, port) else c.rotaCheck ((p + 1) % c.nrota) l

/-- A firing's link accesses in order. -/
def accesses (l : List Move) : List (Bool × Nat) := (insOf l).map (false, ·) ++ (outsOf l).map (true, ·)

/-! ## Firing gaps (R259, R260) -/

/-- The firing-gap record of a cell. -/
def gapRecord (s : State) (k : Nat) (g : Gap) : Nat :=
  let core := coreOfCell k
  (s.cell k).ver % 65536 + s.fieldNum core % 256 * 2 ^ 16 + dieOf core * 2 ^ 24 + tileOf core * 2 ^ 26 + cellX k * 2 ^ 34 +
    cellY k * 2 ^ 38 + (s.cell k).group * 2 ^ 42 + g.port * 2 ^ 50 + g.kind * 2 ^ 57 + g.excess * 2 ^ 64 + g.merged * 2 ^ 96

/-- The gap record leaves its cell for the trace unit: when no gap can join it any more, or when the cell is loaded or cleared. -/
def State.flushGap (s : State) (k : Nat) : State :=
  match (s.cell k).gap with
  | some g => (s.modCell k fun c => { c with gap := none }).traceWrite (dieOf (coreOfCell k)) 0 (gapRecord s k g)
  | none => s

/-- The blocker of a late firing: the condition met last, the lowest code of equals (R259). A step that has no such condition gives KIND 0,
PORT 0 (DESIGN CHOICE, log 57). -/
def blocker (l : List (Nat × Nat × Bool × Nat)) : Nat × Nat :=
  let t := l.foldl (fun t x => max t x.2.2.2) 0
  match l.filter fun x => decide (x.2.2.2 = t) with
  | [] => (0, 0)
  | x :: c => c.foldl (fun b x => if x.1 < b.1 ∨ (x.1 = b.1 ∧ x.2.1 < b.2) then (x.1, x.2.1) else b) (x.1, x.2.1)

/-- Log the gap before a firing, if it exceeds II. -/
def State.logGap (s : State) (k : Nat) : State :=
  let c := s.cell k
  match c.lastFire with
  | none => s
  | some _ =>
    let now := s.liveCycles k
    let excess := now - c.lastLive - c.ii
    if c.ii = 0 ∨ excess = 0 then s
    else
      let b := blocker (s.conditions k)
      let core := coreOfCell k
      let s1 := (s.modTile core fun t => { t with tgapn := t.tgapn + 1, tgapx := t.tgapx + BitVec.ofNat 32 excess }).sample
        (18 + dieOf core) excess
      match c.gap with
      | some g =>
        if g.kind = b.1 ∧ g.port = b.2 ∧ now < g.since + 4096 then
          s1.modCell k fun c => { c with gap := some { g with merged := min 65535 (g.merged + 1), excess := min (2 ^ 32 - 1) (g.excess + excess) } }
        else (s1.flushGap k).modCell k fun c => { c with gap := some ⟨1, min (2 ^ 32 - 1) excess, b.1, b.2, now⟩ }
      | none => s1.modCell k fun c => { c with gap := some ⟨1, min (2 ^ 32 - 1) excess, b.1, b.2, now⟩ }

/-! ## Landings (R256) -/

def Cell.land (c : Cell) (l : Landing) : Cell :=
  match l with
  | .port code w => { c with ports := Sparse.set {} c.ports code w }
  | .acc k a sat clr zero =>
    let old : Acc := Sparse.get {} c.accs k
    { c with accs := Sparse.set {} c.accs k { a with poison := !zero && (a.poison || old.poison) }
             sat := (c.sat || sat) && !clr }

/-- Land what is due before the cell's next firing. -/
def Cell.landDue (c : Cell) : Cell :=
  let d := c.flight.filter fun f => decide (f.rem = 0)
  d.foldl (fun c f => c.land f.what) { c with flight := c.flight.filter fun f => decide (f.rem ≠ 0) }

/-- A result of latency lat. -/
def Cell.fly (c : Cell) (lat : Nat) (l : Landing) : Cell := { c with flight := c.flight ++ [⟨lat - 1, l⟩] }

/-! ## Moves (R255) -/

/-- The word at a source, as the cell stands (R244). Link inputs and bp.r are given as read. -/
def Cell.source (c : Cell) (p : Nat) : LinkWord :=
  if isLink p then (c.fifo (p - 1)).headD {}
  else if p = 0x29 then (c.binHead.map (·.res)).getD {}
  else if isTrough p then { Sparse.get {} c.troughs (p - 0x10) with valid := true }
  else if p = 0x18 then okWord (c.word 18) 0
  else if p = 0x19 then okWord (c.word 19) 0
  else Sparse.get {} c.ports p

/-- An operand latch; it holds a zero word until it is written (R240). -/
def Cell.latch (c : Cell) (p : Nat) : LinkWord := { Sparse.get {} c.latches p with valid := true }

/-- The guard of a move holds (R246). -/
def Move.guard (m : Move) (first last : Bool) (mark : Nat) (w : LinkWord) : Bool :=
  match m.gk with
  | 0 => true
  | 1 => first
  | 2 => last
  | 3 => !first
  | 4 => !last
  | 5 => decide (m.gn ≤ mark)
  | 6 => decide (mark < m.gn)
  | _ => w.valid && w.err

/-- Replace half `o` (0 or 16) of each scale pair from a word (R269). -/
def scaleHalf (sc : Word64) (o : Nat) (d : Nat) : Word64 :=
  BitVec.ofNat 64 (insertField (insertField sc.toNat (bits d 0 16) o 16) (bits d 16 16) (32 + o) 16)

/-- A word enters an operand latch. -/
def Cell.setLatch (c : Cell) (p : Nat) (w : LinkWord) : Cell :=
  let d := w.data.toNat
  if p = 0x26 then { c with scale := BitVec.ofNat 64 d, scaleMark := w.mark, scaleErr := w.err }
  else if p = 0x40 then { c with scale := scaleHalf c.scale 0 d, scaleMark := w.mark, scaleErr := w.err }
  else if p = 0x41 then { c with scale := scaleHalf c.scale 16 d, scaleMark := w.mark, scaleErr := w.err }
  else { c with latches := Sparse.set {} c.latches p w }

/-- An accumulator trigger that acts (R266-R270). -/
def Cell.dotTrig (c : Cell) (k op m : Nat) (t : LinkWord) : Cell :=
  let a : Acc := Sparse.get {} c.accs k
  let la := c.latch 0x23
  let ax := c.latch 0x24
  let bx := c.latch 0x25
  let out (v : Nat) (p sat : Bool) : Cell := c.fly 4 (.acc k ⟨BitVec.ofNat 32 v, p⟩ sat false false)
  match op with
  | 0 =>
    if c.dpl then
      let bad := (decide (m % 2 = 1) && decide (c.dfa = 8)) || (decide (m / 2 = 1) && decide (c.dfb = 8))
      let r := c.dotPlanes a.val.toNat m la t
      out r.1 (la.err || t.err || bad) r.2
    else
      let r := c.dot a.val.toNat la t
      out r.1 (la.err || t.err || (c.dsc && c.scaleErr)) r.2
  | 1 =>
    let r := c.dots a.val.toNat la ax t bx
    out r.1 (la.err || (c.usesAx && ax.err) || t.err || bx.err || (c.dsc && c.scaleErr) || r.2.1) r.2.2
  | 2 => c.fly 4 (.acc k {} false (decide (m = 1)) true)
  | 3 =>
    let w := if a.poison then errTok t.mark else okWord (a.val.toNat + b2n c.sat * 2 ^ 32) t.mark
    c.fly 1 (.port 0x21 w)
  | _ =>
    if c.intAcc then
      let sum := sextN a.val.toNat 32 + sextN (t.lane 32 0) 32
      if sum > 2147483647 then out 0x7FFFFFFF t.err true
      else if sum < -2147483648 then out 0x80000000 t.err true
      else out (lowBits sum 32) t.err false
    else out (rne fp32 (fsum [fdec fp32 a.val.toNat, fdec fp32 (t.lane 32 0)])) t.err false

/-- A bin-port trigger: its operation takes a place, and in a twinned group waits for the comparison (R274, R275, R279). -/
def Cell.binTrig (c : Cell) (op m : Nat) (act : Bool) (t : LinkWord) : Cell :=
  let d := c.latch 0x2E
  let b : BinOp := ⟨c.nextBin, op, t.lane 32 0, t, d, bitB m 0, !act, false, act && c.twin, !act, {}, 0, 0⟩
  if !act && !([0, 2, 4].contains op) then c
  else
    { c with bin := c.bin ++ [b], nextBin := c.nextBin + 1
             sinks := if act && c.twin then c.sinks ++ [.bin op (t.lane 32 0) d.data c.nextBin] else c.sinks }

/-- A trigger of a firing: its operation, or holes when it does not act. -/
def Cell.trigger (c : Cell) (m : Move) (act : Bool) (t : LinkWord) : Cell :=
  let p (code lat : Nat) (w : LinkWord) : Cell := c.fly lat (.port code (if act then w else {}))
  if m.dst = 0x22 then p 0x20 (aluLat m.op) (aluResult c.afmt m.op m.m (c.latch 0x20) t (c.latch 0x21))
  else if m.dst = 0x27 then p 0x22 8 (sfuResult m.op t)
  else if m.dst = 0x29 then
    let ws := if act then steerWords (m.op + 2) (c.latch 0x28) t else [{}, {}, {}, {}]
    (ws.zipIdx).foldl (fun c x => c.fly 1 (.port (0x23 + x.2) x.1)) c
  else if m.dst = 0x2C then p 0x27 1 (mergeWord (c.latch 0x2A) (c.latch 0x2B) t)
  else if m.dst = 0x2D then
    match markWord m.op t with
    | some w => p 0x28 1 w
    | none => c
  else if m.dst = 0x2F then c.binTrig m.op m.m act t
  else if act then c.dotTrig (m.dst - 0x30) m.op m.m t
  else if m.op = 3 then p 0x21 1 {}
  else c

/-- The next step after a firing (R247). -/
def Cell.advance (c : Cell) (brk : Bool) : Cell :=
  let spent := decide (c.fired = c.rep)
  if brk || spent then
    { c with step := if brk then c.mbt else c.next, fired := 0, stopped := c.stop, flight := if c.stop then [] else c.flight }
  else { c with fired := c.fired + 1 }

/-- The firing of a cell by itself, its PORT_ORDER check passed: the cell after, the words written to its outputs, and whether an
error token reached DROP (R255). -/
def Cell.fire (c0 : Cell) (now own live : Nat) : Cell × List (Nat × LinkWord) × Bool :=
  let d := c0.landDue
  let c : Cell := { d with flight := d.flight.map fun f => { f with rem := f.rem - 1 } }
  let l := c.moves c.step
  let words := l.map fun m => c.source m.src
  let reads := insOf l
  let mark := reads.foldl (fun k p => let w := c.source p; if w.valid then max k w.mark else k) 0
  let brk := decide (c.mbk ≠ 0) && decide (c.mbk ≤ mark)
  let first := decide (c.fired = 0)
  let last := brk || decide (c.fired = c.rep)
  let acts := (l.zip words).map fun x => (x.1, x.2, x.2.valid && x.1.guard first last mark x.2)
  let bin := match c.binHead with
    | some b => if reads.contains 0x29 then c.bin.filter (fun x => decide (x.num ≠ b.num)) else c.bin
    | none => c.bin
  let c1 : Cell := { c with
    inp := reads.foldl (fun m p => if isLink p then Sparse.set [] m (p - 1) (Sparse.get [] m (p - 1)).tail else m) c.inp
    bin := bin
    roomAt := if bin.length < c.bin.length ∧ c.bin.length = 4 then Sparse.set 0 c.roomAt 8 now else c.roomAt
    rota := if c.nrota = 0 then c.rota else (c.rota + (accesses l).length) % c.nrota
    count := c.count + 1, lastFire := some now, lastOwn := own, lastLive := live }
  let c2 := (acts.filter fun x => x.2.2 && isLatch x.1.dst).foldl (fun c x => c.setLatch x.1.dst x.2.1) c1
  let c3 := (acts.filter fun x => isTrigger x.1.dst).foldl (fun c x => c.trigger x.1 x.2.2 x.2.1) c2
  let c4 := (acts.filter fun x => x.2.2 && isTrough x.1.dst).foldl (fun c x =>
    { c with
      troughs := Sparse.set {} c.troughs (x.1.dst - 0x10)
        { x.2.1 with data := BitVec.ofNat 128 (x.2.1.data.toNat % 2 ^ 32), valid := false, ver := 0, time := 0 } }) c3
  let outs := (acts.filter fun x => isLink x.1.dst).map fun x =>
    (x.1.dst - 1, if x.2.2 then { x.2.1 with ver := c.ver, time := now } else ({ ver := c.ver, time := now } : LinkWord))
  (c4.advance brk, outs, acts.any fun x => x.2.2 && decide (x.1.dst = 0x2D) && decide (x.1.op = 8) && x.2.1.err)

/-- Output j of a cell that had no room before, in `s0`, and has room now sees it from now on (R254, R259). -/
def State.seeRoom (s0 s : State) (k j : Nat) : State :=
  if !s0.outRoom k j && s.outRoom k j then s.modCell k fun c => { c with roomAt := Sparse.set 0 c.roomAt j s.cycle } else s

/-- The cells whose outputs may feed input i of a cell: a shadow's also takes what its primary takes (R278). -/
def State.feeders (s : State) (k i : Nat) : List Nat :=
  (s.neighbour k i).toList ++ (if (s.cell k).shadow then (s.neighbour (k - 128) i).toList else [])

/-- The producers for some inputs of a cell see the room that these have gained since `s0`. -/
def State.gainRoom (s0 s : State) (k : Nat) (l : List Nat) : State :=
  l.foldl (fun s i => (s.feeders k i).foldl (fun s m => s0.seeRoom s m (facing i)) s) s

/-- A written output word: on its way, or a twin sink waiting (R256, R279). -/
def State.emit (s : State) (k j : Nat) (w : LinkWord) : State :=
  if s.twinSink k j then s.modCell k fun c => { c with sinks := c.sinks ++ [.link j w] }
  else s.modCell k fun c => { c with wires := Sparse.set [] c.wires j (c.wire j ++ [w]) }

/-- CELL_FIRE (R254-R259). -/
def State.fireCell (s : State) (k : Nat) : State :=
  if !s.canFire k then s
  else
    let c := s.cell k
    let l := c.moves c.step
    match c.rotaCheck c.rota (accesses l) with
    | some (p, port) => s.cellFault k .portOrder (p + port * 16)
    | none =>
      let s1 := s.logGap k
      let r := (s1.cell k).fire s.cycle (s.ownCycles k) (s.liveCycles k)
      let s2 := s1.gainRoom (r.2.1.foldl (fun s x => s.emit k x.1 x.2) (s1.modCell k fun _ => r.1)) k
        (((insOf l).filter isLink).map (· - 1))
      if r.2.2 then s2.cellFault k .errToken 0x2D else s2

def execCellFire (k : Nat) (s : State) : Host.Outcome State Fault Refusal := .next (s.fireCell k)

/-- CELL_RESULT_LANDING: results due before the cell's next firing land, just before it (R256): when the cell can fire. -/
def execCellResultLanding (k : Nat) (s : State) : Host.Outcome State Fault Refusal :=
  .next (if s.canFire k then s.modCell k Cell.landDue else s)

/-! ## LINK_WORD_ARRIVAL (R256, R278, R285) -/

/-- A word at a cell is discarded: the field's count and an event (R285, R313, R379). -/
def State.discardWord (s : State) (k : Nat) : State :=
  match s.fieldOf (coreOfCell k) with
  | some f =>
    let s1 := s.modField f fun f => { f with disc := f.disc + 1 }
    s1.traceEvent (f / 256) 6 (s1.field f).disc.toNat (tileOf (coreOfCell k)) (f % 256) (s.field f).ver
  | none => s

/-- A word reaches an input FIFO; an old word at a loaded cell is discarded and counted (R285). -/
def State.inputWord (s : State) (k i : Nat) (w : LinkWord) : State :=
  let c := s.cell k
  if c.loaded && decide (w.ver ≠ c.ver) then s.discardWord k
  else s.modCell k fun c => { c with inp := Sparse.set [] c.inp i (c.fifo i ++ [{ w with time := s.cycle }]) }

/-- A word enters input i of a cell, and of its shadow when it comes from outside the group (R278). -/
def State.deliver (s : State) (src : Option Nat) (k i : Nat) (w : LinkWord) : State :=
  let s1 := s.inputWord k i w
  if s.mirrored src k then s1.inputWord (shadowOf k) i w else s1

/-- The select bits that route a word on the way from a cell: those that the cell had when it wrote the word. -/
def Cell.selOf (c : Cell) (w : LinkWord) : Nat := if c.loaded && decide (w.ver ≠ c.ver) then c.was else bits c.sw0 40 2

/-- The oldest word on the way from output j of a cell arrives; link = cell * 8 + j. -/
def State.arrive (s : State) (link : Nat) : State :=
  let k := link / 8
  let j := link % 8
  let c := s.cell k
  match c.wire j with
  | [] => s
  | w :: rest =>
    let s1 := s.modCell k fun c => { c with wires := Sparse.set [] c.wires j rest }
    s.seeRoom (match s.sinkBy (c.selOf w) k j with
      | .pump code =>
        if c.loaded && decide (w.ver ≠ c.ver) then s1.discardWord k
        else s1.modTile (coreOfCell k) fun t => { t with outq := Sparse.set [] t.outq code (t.outFifo code ++ [w]) }
      | .cell m i => s1.deliver (some k) m i w
      | .nowhere => s1) k j

def execLinkWordArrival (link : Nat) (s : State) : Host.Outcome State Fault Refusal := .next (s.arrive link)

/-! ## Bin ports (R274-R276) -/

/-- Bytes of an operation. -/
def BinOp.size (b : BinOp) : Nat := if b.op = 4 then 4 else 16

/-- The operation performs nothing: its address or a word is bad (R276). -/
def BinOp.bad (b : BinOp) : Bool :=
  decide (0xC0000 ≤ b.addr) || decide (b.addr % b.size ≠ 0) || b.trig.err || ([1, 3, 4].contains b.op && b.data.err)

/-- Two operations touch a common byte. -/
def BinOp.overlap (a b : BinOp) : Bool := decide (a.addr < b.addr + b.size) && decide (b.addr < a.addr + a.size)

/-- Operation b may perform after those before it (R275). -/
def binOrder (before : List BinOp) (b : BinOp) : Bool :=
  before.all fun a => a.done || (!b.arc && decide (a.op ≠ 2) && decide (b.op ≠ 3) && !a.overlap b)

/-- The cell holds a lock bit. -/
def Lock.heldByCell (l : Lock) (k : Nat) : Bool := l.held && l.byCell && decide (l.holder = k)

/-- Operation num of a cell has performed with a result, in the cell and in its shadow (R278). -/
def Cell.binDone (c : Cell) (num : Nat) (w : LinkWord) : Cell :=
  { c with
    bin := (c.bin.map fun b => if b.num = num then { b with done := true, waiting := false, res := w } else b).filter
      fun b => !(decide (b.num = num) && !b.gives) }

def State.binDone (s : State) (k num : Nat) (w : LinkWord) : State :=
  let c := s.cell k
  let s1 := s.modCell k fun c =>
    let d := c.binDone num { w with time := s.cycle }
    if d.bin.length < c.bin.length ∧ c.bin.length = 4 then { d with roomAt := Sparse.set 0 d.roomAt 8 s.cycle } else d
  if c.twin && !c.shadow then s1.modCell (shadowOf k) fun c => c.binDone num { w with time := s.cycle } else s1

/-- A bin operation performs (R274, R276). -/
def State.performBin (s : State) (k : Nat) (b : BinOp) : State :=
  let core := coreOfCell k
  let mark := b.trig.mark
  if b.bad then
    if b.gives then s.binDone k b.num (errTok mark)
    else (s.binDone k b.num {}).cellFault k .errToken (if b.trig.err then 0x2F else 0x2E)
  else
    let s1 := s.watchLocal core 255 none b.addr b.size ([0, 2, 4].contains b.op) ([1, 3, 4].contains b.op)
    let old := s1.readLocal core b.addr b.size
    let free (s : State) : State :=
      match lockOf core b.addr with
      | some n => s.modLock n fun l => if l.heldByCell k then { l with held := false, byCell := false, holder := 0, cycles := 0 } else l
      | none => s
    let take (s : State) : State :=
      match lockOf core b.addr with
      | some n => s.modLock n fun l => if l.heldByCell k then l else { l with held := true, byCell := true, holder := k, cycles := 0 }
      | none => s
    match b.op with
    | 0 => s1.binDone k b.num (okWord old mark)
    | 1 => (s1.writeLocal core b.addr 16 b.data.data.toNat).binDone k b.num {}
    | 2 => (take s1).binDone k b.num (okWord old mark)
    | 3 => (free (s1.writeLocal core b.addr 16 b.data.data.toNat)).binDone k b.num {}
    | _ => (s1.writeLocal core b.addr 4 (old + bits b.data.data.toNat 0 32)).binDone k b.num (okWord old mark)

/-- A lockstep beat of the tile has read the bank of a bin operation in this cycle: the operation waits, unless it has waited 15 cycles on end
before this one (R216, R275). One that performs nothing needs no bank. -/
def State.binHeld (s : State) (k : Nat) (b : BinOp) : Bool :=
  let core := coreOfCell k
  !b.bad && !bankDue b.wait b.waitAt (s.coreCycle core) && (s.banksNow core (s.tile core).lockAt).contains (b.addr / 0xC000)

/-- The operation has waited for its bank in this cycle. -/
def State.binWait (s : State) (k num : Nat) : State :=
  let now := s.coreCycle (coreOfCell k)
  s.modCell k fun c =>
    { c with bin := c.bin.map fun b => if b.num = num then { b with wait := bankWaited b.wait b.waitAt now, waitAt := now } else b }

/-- An operation of a cell performs; one that has waited 15 cycles on end takes its bank from lockstep beats. -/
def State.accessBin (s : State) (k : Nat) (b : BinOp) : State :=
  (if !b.bad && bankDue b.wait b.waitAt (s.coreCycle (coreOfCell k)) then s.takeBanks (coreOfCell k) [b.addr / 0xC000] else s).performBin k b

/-- BIN_PORT_PERFORM: operation num of the cell performs, or waits for its bank, or starts to wait for its lock bit (R150, R216, R230, R275). A
new version's waits for the accesses of the old (R303). -/
def State.binPort (s : State) (k num : Nat) : State :=
  let c := s.cell k
  match c.bin.find? (fun b => decide (b.num = num)) with
  | none => s
  | some b =>
    if b.done || b.twin || b.waiting || c.shadow || !s.cellRuns k || (c.loaded && s.verHold (coreOfCell k)) || !binOrder (c.bin.filter fun a => decide (a.num < num)) b then s
    else if s.binHeld k b then s.binWait k num
    else if b.bad || !([2, 4].contains b.op) then s.accessBin k b
    else match lockOf (coreOfCell k) b.addr with
      | none => s.accessBin k b
      | some n =>
        let l := s.lockBit n
        if l.heldByCell k || (!l.held && l.waiters.isEmpty) then s.accessBin k b
        else (s.modLock n fun l => { l with waiters := l.waiters ++ [(true, k, num)] }).modCell k fun c =>
          { c with bin := c.bin.map fun x => if x.num = num then { x with waiting := true } else x }

def execBinPortPerform (k num : Nat) (s : State) : Host.Outcome State Fault Refusal := .next (s.binPort k num)

/-! ## TWIN_COMPARE (R279) -/

/-- Two sinks are equal: data, mark, error and valid bit, or operation, address and data. -/
def TwinSink.same (a b : TwinSink) : Bool :=
  match a, b with
  | .link j w, .link i v =>
    decide (j = i) && decide (w.data = v.data) && decide (w.mark = v.mark) && decide (w.err = v.err) && decide (w.valid = v.valid)
  | .bin o x d _, .bin p y e _ => decide (o = p) && decide (x = y) && decide (d = e)
  | _, _ => false

/-- The oldest sinks of a primary and its shadow are compared. -/
def State.compare (s : State) (k : Nat) : State :=
  let a := s.cell k
  if !a.twin || a.shadow || !s.cellRuns k then s
  else match a.sinks, (s.cell (shadowOf k)).sinks with
    | x :: xs, y :: ys =>
      let drop (s : State) : State :=
        (s.modCell k fun c => { c with sinks := xs, roomAt := if xs.isEmpty then Sparse.set 0 c.roomAt 9 s.cycle else c.roomAt }).modCell
          (shadowOf k) fun c => { c with sinks := ys, roomAt := if ys.isEmpty then Sparse.set 0 c.roomAt 9 s.cycle else c.roomAt }
      if !x.same y then (drop s).cellFault k .twinMismatch 0
      else match x with
        | .link j w => (drop s).modCell k fun c => { c with wires := Sparse.set [] c.wires j (c.wire j ++ [w]) }
        | .bin _ _ _ n =>
          let clear (c : Cell) : Cell := { c with bin := c.bin.map fun b => if b.num = n then { b with twin := false } else b }
          ((drop s).modCell k clear).modCell (shadowOf k) clear
    | _, _ => s

def execTwinCompare (k : Nat) (s : State) : Host.Outcome State Fault Refusal := .next (s.compare k)

end Sys2Proof.Machine
end

