-- ==== Sys2Proof/Machine/Peers.lean ====
section
/-! DEFINITION. Members of the group and packets to them (spec/17_fo_rotor_fabric.md R393, R395, R401-R405, R413). -/

namespace Sys2Proof.Machine

/-! ## Requests of fq (R154, R155) -/

/-- Fields of a control word (R154). -/
def ctlOp (c : Nat) : Nat := bits c 0 4
def ctlSize (c : Nat) : Nat := 2 ^ bits c 6 2
def ctlOrd (c : Nat) : Nat := bits c 8 3
def ctlTag (c : Nat) : Nat := bits c 16 16

/-- A request with a control word and an address word breaks a rule of R155. -/
def malformed (ctl a : Nat) : Bool :=
  decide (12 ≤ ctlOp ctl) || decide (4 ≤ ctlOrd ctl) || decide (bits ctl 32 32 ≠ 0) || decide (bits ctl 11 5 ≠ 0) ||
  decide (bits ctl 4 2 ≠ 0) || decide (a % 2 ^ 48 % ctlSize ctl ≠ 0)

/-- The complete requests at the head of fq, each with its words. -/
def fqParts : Nat → List Word64 → List (List Word64)
  | 0, _ => []
  | _, [] => []
  | n + 1, w :: l =>
    if reqLen w ≤ (w :: l).length then (w :: l).take (reqLen w) :: fqParts n ((w :: l).drop (reqLen w)) else []

/-! ## Requests sent on (R360) -/

/-- A request's body under another PSN, at another address. -/
def moveBody (q a : Nat) : PacketBody → PacketBody
  | .request _ t c _ d => .request q t c a d
  | .stream _ k old wr => .stream q k a (wr.map (List.map fun x => (a + (x.1 - old), x.2)))
  | b => b

/-- A body with the PSN of the packet that carries it. -/
def bodyWithPsn (n : Nat) : PacketBody → PacketBody
  | .request _ t c a d => .request n t c a d
  | .stream _ k a w => .stream n k a w
  | .response _ st old l => .response n st old l
  | .message _ a b c d e f g h i l => .message n a b c d e f g h i l
  | .pull _ a b c d => .pull n a b c d
  | .pullData _ a b c d => .pullData n a b c d
  | .pullDone _ a => .pullDone n a
  | .ack _ => .ack n

/-- Request psn of member m belongs to a third module's memory: it is sent on to address a there (R360), and answered when that module
answers. -/
def State.forwardReq (s : State) (m psn to_ a : Nat) (body : PacketBody) : State :=
  let x : Forward := ⟨m, psn, to_, (s.fab.peer to_).nextPsn⟩
  { s with fab := { s.fab with fwd := s.fab.fwd ++ [x] } }.toPeer to_ 1 fun q => moveBody q a body

/-! ## The fabric region (R399, R402) -/

/-- Bytes written into the fabric region; where its page does not translate to the module's own HBM they are not kept (DESIGN CHOICE, log 67). -/
def State.regionPut (s : State) (off : Nat) (l : List Byte) : Option State :=
  (s.hbmPlace (s.fab.region + off) true).map fun o => s.write .hbm o l

/-- The image of a packet or a response in a member's window, which lies after the relay area: 1,024 entries of 256 bytes for each switch
port. The order of entries and their contents are not given (DESIGN CHOICE, log 67). -/
def State.windowPut (s : State) (m psn : Nat) (body : PacketBody) : State :=
  let l := (Config.packetBytes body).take 256
  (s.regionPut (2 ^ 28 + 2 ^ 18 * (s.fab.ports.idxOf m % 1024) + 256 * (psn % 1024)) (l ++ List.replicate (256 - l.length) 0)).getD s

/-- A response or acknowledgement: it carries no PSN of its own order. -/
def State.replyTo (s : State) (m typ : Nat) (body : PacketBody) : State :=
  s.modPeer m fun p => { p with ctl := p.ctl ++ [(typ, body)] }

/-- Record the response that an arriving request has (R402), and send it. -/
def State.answerPeer (s : State) (m psn : Nat) (body : PacketBody) : State :=
  ((s.modPeer m fun p => { p with answers := p.answers.map fun x => if x.1 = psn then (psn, some body) else x }).windowPut m psn body).replyTo m 2 body

end Sys2Proof.Machine
end

