-- ==== Sys2Proof/Machine/Beat.lean ====
section
/-! DEFINITION. One beat of a stream: the places of its bytes, what it reads, what it stores, the edge ports and virtual channels it
feeds and drains, and how it stops (spec/07_cw_engine_isa.md R205-R219; spec/15_dw_translation_faults.md R359-R365;
spec/17_fo_rotor_fabric.md R405; spec/01_cw_execution_model.md R53). -/

namespace Sys2Proof.Machine

/-! ## Places -/

/-- The place of the byte at an address of a space, as a core's engine reaches it with the translations it holds. -/
def State.spot (s : State) (core : Nat) (xl : List Leaf) (space : Nat) (a : Int) (wr : Bool) : Except Hitch Spot :=
  if space = 4 then
    if a < 0 ∨ (2 ^ 48 : Nat) ≤ a ∨ inRegs a.toNat then .error (.fault 2)
    else match xl.find? (·.covers a.toNat) with
      | some l => s.leafSpot wr ownHops .stream l a.toNat
      | none => .error (.walk a.toNat)
  else if a < 0 ∨ (2 ^ 32 : Nat) ≤ a ∨ (s.region core a.toNat).isNone then .error (.fault 2)
  else .ok (.here (localPlace core a.toNat).1 (localPlace core a.toNat).2)

/-- Translations a command may use: the one it holds, those of the beat under way, then its tile's cache. -/
def State.leaves (s : State) (core : Nat) (c : Cmd) : List Leaf := c.xl.toList ++ c.under ++ (s.tile core).tlb

/-- The translation under which a command reaches a device virtual address. -/
def State.leafOf (s : State) (core : Nat) (c : Cmd) (dva : Nat) : Option Leaf := (s.leaves core c).find? (·.covers dva)

/-- The byte at a spot, which an address of a space leads to; a peer's comes from a line read before. -/
def State.spotByte (s : State) (lines : List (Nat × Nat × List Byte)) (p : Spot) (dva : Nat) : Except Hitch Byte :=
  match p with
  | .here sp o => .ok (s.mem.byte (place sp o))
  | .peer m a =>
    match lines.find? (fun l => decide (l.1 = m) && decide (l.2.1 = a / 64 * 64)) with
    | some l => .ok (l.2.2.getD (a % 64) 0)
    | none => if (s.fab.peer m).unreachable then .error (.fault 7) else .error (.line m (a / 64 * 64) dva)

/-- n bytes from address a, little-endian. -/
def State.fetch (s : State) (core : Nat) (c : Cmd) (space : Nat) (a : Int) : Nat → Except Hitch Nat
  | 0 => .ok 0
  | n + 1 =>
    match s.spot core (s.leaves core c) space a false with
    | .error e => .error e
    | .ok p => match s.spotByte c.lines p a.toNat with
      | .error e => .error e
      | .ok b => match s.fetch core c space (a + 1) n with
        | .error e => .error e
        | .ok v => .ok (b.toNat + 256 * v)

/-- The spots of n bytes to be written. -/
def State.spots (s : State) (core : Nat) (c : Cmd) (space : Nat) (a : Int) : Nat → Except Hitch (List Spot)
  | 0 => .ok []
  | n + 1 =>
    match s.spot core (s.leaves core c) space a true with
    | .error e => .error e
    | .ok p => match s.spots core c space (a + 1) n with
      | .error e => .error e
      | .ok l => match p with
        | .peer m _ => if s.canSend m then .ok (p :: l) else .error .wait
        | _ => .ok (p :: l)

/-! ## What stops a beat -/

/-- The outcome of trying a beat. -/
inductive Tried (α : Type) where
  | got (a : α)
  /-- Held up at an element: its number and address, and whether the access writes. -/
  | held (e : Hitch) (elem va : Nat) (wr : Bool)
  deriving Repr

/-- An address as a fault record shows it: its low 64 bits. -/
def vaOf (a : Int) : Nat := lowBits a 64

/-- Read the pieces of a unit into a word. -/
def State.readPieces (s : State) (core : Nat) (c : Cmd) (space : Nat) : List Piece → Nat → Tried Nat
  | [], acc => .got acc
  | p :: l, acc =>
    match s.fetch core c space p.addr p.n with
    | .error e => .held e p.elem (vaOf p.addr) false
    | .ok v => s.readPieces core c space l (acc ||| (bits v p.bit p.width * 2 ^ p.lane))

/-- A put needs the bytes that stand there. -/
def Put.partial_ (p : Put) : Bool := decide (p.bit ≠ 0) || decide (p.width < p.keep)

/-- Find the spots of all puts, and the old bytes where a put needs them. -/
def State.planPuts (s : State) (core : Nat) (c : Cmd) (space : Nat) : List Put → Tried (List (Put × List Spot))
  | [] => .got []
  | p :: l =>
    match s.spots core c space p.addr p.n with
    | .error e => .held e p.elem (vaOf p.addr) true
    | .ok sp =>
      match if p.partial_ then s.fetch core c space p.addr p.n else .ok 0 with
      | .error e => .held e p.elem (vaOf p.addr) true
      | .ok _ => match s.planPuts core c space l with
        | .got r => .got ((p, sp) :: r)
        | .held e j a w => .held e j a w

/-- The device virtual address of a line of a peer's memory that some of the spots of addresses from `va` on are in. -/
def lineDva (m line va : Nat) (l : List Spot) : Nat :=
  match l.zipIdx.find? fun x => match x.1 with | .peer k a => decide (k = m) && decide (a / 64 * 64 = line) | _ => false with
  | some (.peer _ a, i) => va + i - a % 64
  | _ => va

/-- Bytes written to a peer in one beat, by module and line. -/
def peerWrites (l : List (Spot × Byte)) : List (Nat × Nat × List (Nat × Byte)) :=
  let keys := (l.filterMap fun x => match x.1 with | .peer m a => some (m, a / 64 * 64) | _ => none).eraseDups
  keys.map fun k => (k.1, k.2, l.filterMap fun x => match x.1 with
    | .peer m a => if m = k.1 ∧ a / 64 * 64 = k.2 then some (a, x.2) else none
    | _ => none)

/-- Apply one put: bytes here are stored; those for a peer go into a packet (R401). -/
def State.applyPut (s : State) (core cm : Nat) (space : Nat) (x : Put × List Spot) : State :=
  let c := s.cmd cm
  let old := match s.fetch core c space x.1.addr x.1.n with | .ok v => v | .error _ => 0
  let new := bytesOfNat x.1.n (x.1.apply old)
  let pairs := x.2.zip new
  let s1 := pairs.foldl (fun s y => match y.1 with | .here sp o => s.write sp o [y.2] | _ => s) s
  (peerWrites pairs).foldl (fun s w =>
    let psn := (s.fab.peer w.1).nextPsn
    let dva := lineDva w.1 w.2.1 x.1.addr.toNat x.2
    (s.toPeer w.1 1 (fun n => .stream n cm w.2.1 (some w.2.2)) (s.leafOf core c dva)).modCmd cm fun c =>
      { c with owed := c.owed ++ [{ peer := w.1, psn := psn, elem := x.1.elem, va := vaOf x.1.addr, dva := dva }]
               lines := c.lines.map fun ln => if ln.1 = w.1 ∧ ln.2.1 = w.2.1 then
                 (ln.1, ln.2.1, w.2.2.foldl (fun b y => b.set (y.1 % 64) y.2) ln.2.2) else ln }) s1

/-- Watchpoints on the bytes of an access of a command (R380). -/
def State.watchCmd (s : State) (cm : Nat) (space : Nat) (a : Int) (n : Nat) (wr : Bool) : State :=
  let tk := taskOfCmd cm
  let core := coreOf tk
  if space = 4 then s.watch core (ctxOf tk) (some tk) 2 0 a.toNat n (!wr) wr
  else s.watchLocal core (ctxOf tk) (some tk) a.toNat n (!wr) wr

/-! ## Ports -/

/-- The cell and input index of a wi or ni port of a tile (R198, R243). -/
def portCell (core port : Nat) : Nat × Nat :=
  if port < 0x20 then (core * 256 + port % 16 * 16, 6 + port / 16) else (core * 256 + port % 16, port / 16 - 2)

/-- The cell and output index of eo code 0-15 and so code 16-31. -/
def outCell (core code : Nat) : Nat × Nat :=
  if code < 16 then (core * 256 + code * 16 + 15, 2) else (core * 256 + 240 + code % 16, 4)

/-- A stream's beats under the new version wait for the cell to load, and for its shadow where they reach that too (R278, R285). -/
def State.waitsLoad (s : State) (k ver : Nat) (input : Bool) : Bool :=
  match s.fieldOf (coreOfCell k) with
  | some f => decide ((s.field f).st = .loading) && decide (ver = (s.field f).ver) &&
      (!(s.cell k).loaded || (input && s.mirrored none k && !(s.cell (shadowOf k)).loaded))
  | none => false

/-- A launch of the core's field that loads or is still seeding has a seed to come for an input port of the core: it enters ahead of the
stream beats of its version (R313, R344). -/
def State.seedAhead (s : State) (core port ver : Nat) : Bool :=
  s.intake.launches.any fun l =>
    (decide (l.st = .seeding) || decide (l.st = .loading)) && (match l.fld with
      | some f =>
        let x := s.field f
        (decide (l.st = .seeding) || (x.wave.isSome && decide (ver = x.ver))) &&
        ((List.range (min 6 (l.rcd.getD 2 0).toNat)).drop l.nextSeed).any fun i =>
          let b (o : Nat) : Nat := (l.rcd.getD (32 + 16 * i + o) 0).toNat
          decide (f / 256 * 256 + (x.y0 + b 1) * 12 + x.x0 + b 0 = core) && decide (b 2 = port)
      | none => false)

/-- State of a destination port for the next word: `none` for an input that the pump does not feed, otherwise whether it takes a word
now. -/
def State.portTakes (s : State) (core port ver : Nat) : Option Bool :=
  if 0x40 ≤ port then some (decide (((s.tile core).vc (port - 0x40)).length < 8))
  else
    let p := portCell core port
    if isMgmt core then none
    else if s.waitsLoad p.1 ver true then some false
    else if !pumpIn (s.cell p.1) p.1 p.2 then none
    else some (s.inRoom none p.1 p.2 0)

/-- State of a destination port for a stream's next word: `none` faults with kind 2, otherwise whether it takes a word now. -/
def State.portReady (s : State) (core port ver : Nat) : Option Bool :=
  (s.portTakes core port ver).map fun b => b && (decide (0x40 ≤ port) || !s.seedAhead core port ver)

/-- A word for a port: a link word, or the 64-bit word of a virtual channel. -/
def State.portPut (s : State) (core port ver : Nat) (data mark : Nat) (err : Bool) : State :=
  if 0x40 ≤ port then s.vcPut core (port - 0x40) (BitVec.ofNat 64 (data % 2 ^ 32 + mark * 2 ^ 61))
  else
    let p := portCell core port
    s.deliver none p.1 p.2 { data := BitVec.ofNat 128 data, mark := mark, err := err, valid := true, ver := ver }

/-- The ports that a stream feeds: SMC's are the same port of every tile of its rectangle (R215). -/
def State.targets (s : State) (cm : Nat) : List Nat :=
  let c := s.cmd cm
  let core := coreOf (taskOfCmd cm)
  if c.op = 6 then
    match s.fieldOf core with
    | none => []
    | some k =>
      let f := s.field k
      let v := c.sop.toNat
      (List.range (bits v 56 8)).flatMap fun y => (List.range (bits v 48 8)).map fun x =>
        k / 256 * 256 + (f.y0 + bits v 40 8 + y) * 12 + f.x0 + bits v 32 8 + x
  else [core]

/-- State of a source port: `none` faults with kind 2, otherwise the word at its head. -/
def State.outHead (s : State) (core code ver : Nat) : Option (Option LinkWord) :=
  let p := outCell core code
  if isMgmt core then none
  else if s.waitsLoad p.1 ver false then some none
  else if (pumpOut (s.cell p.1) p.1 p.2).isNone then none
  else some ((s.tile core).outFifo code).head?

/-- Take the head word of an output; its cell sees room. -/
def State.outPop (s : State) (core code : Nat) : State :=
  let p := outCell core code
  s.seeRoom (s.modTile core fun t => { t with outq := Sparse.set [] t.outq code (t.outFifo code).tail }) p.1 p.2

/-! ## Hold-ups (R53, R218, R405) -/

/-- The cause-specific word of RMT_UNKNOWN and RMT_UNREACH for a command (R368). -/
def cmdInfo (m cm : Nat) : Nat := m + 2 ^ 48 + entryOfCmd cm * 2 ^ 52

/-- The peer under a device virtual address of a command, for the record of kind 7. -/
def State.pmodAt (s : State) (core : Nat) (c : Cmd) (a : Nat) : Nat :=
  match s.leafOf core c a with
  | some l => bits l.entry 48 16
  | none => 0xFFFF

/-- Ask a peer for a 64-byte line, once, for an element, under a translation. -/
def State.askLine (s : State) (cm m a elem va : Nat) (lf : Option Leaf) : State :=
  let c := s.cmd cm
  if c.owed.any (fun o => decide (o.peer = m) && decide (o.line = some a)) || !s.canSend m then s
  else
    let psn := (s.fab.peer m).nextPsn
    (s.toPeer m 1 (fun n => .stream n cm a none) lf).modCmd cm fun c =>
      { c with owed := c.owed ++ [{ peer := m, psn := psn, line := some a, elem := elem, va := va }]
               under := c.under ++ lf.toList.filter fun l => !c.under.contains l }

/-- The lines of peers' memory that reads of some ranges of device virtual addresses by the module itself need, and that it has not read: module,
line, and device virtual address (R360). -/
def State.linesNeeded (s : State) (l : List (Nat × Nat)) : List (Nat × Nat × Nat) :=
  l.flatMap fun x => (List.range ((x.1 + x.2 + 63) / 64 - x.1 / 64)).filterMap fun i =>
    let d := (x.1 / 64 + i) * 64
    match s.dvaSpot d false .stream with
    | some (.peer m a) =>
      if (s.cmd dvaKey).lines.any fun k => decide (k.1 = m) && decide (k.2.1 = a / 64 * 64) then none else some (m, a / 64 * 64, d)
    | _ => none

def State.askLines (s : State) (l : List (Nat × Nat × Nat)) : State := l.foldl (fun s x => s.askLine dvaKey x.1 x.2.1 0 x.2.2 none) s

/-- Lines that the module itself has read are used once. -/
def State.dropLines (s : State) : State :=
  if (s.cmd dvaKey).lines.isEmpty then s else s.modCmd dvaKey fun c => { c with lines := [] }

/-- An event that reads ranges of device virtual addresses: where some lie in peers' memory, their lines are asked for first, and the event
completes when it happens again (R360; DESIGN CHOICE, log 94). -/
def State.withLines (s : State) (l : List (Nat × Nat)) (go : State → State) : State :=
  if (s.linesNeeded l).isEmpty then (go s).dropLines else s.askLines (s.linesNeeded l)

/-- The first write that a peer had no page for is made again: its line is translated anew, and the bytes go where it lies now (R53, R370). -/
def State.resendWrite (s : State) (core cm : Nat) (r : Redo) : Except Hitch State :=
  match s.spot core (s.leaves core (s.cmd cm)) 4 r.dva true with
  | .error e => .error e
  | .ok (.here sp o) =>
    .ok ((r.bytes.foldl (fun s x => s.write sp (o + (x.1 - r.addr)) [x.2]) s).modCmd cm fun c => { c with redo := c.redo.tail })
  | .ok (.peer m a) =>
    if !s.canSend m then .error .wait
    else
      let psn := (s.fab.peer m).nextPsn
      .ok ((s.toPeer m 1 (fun n => .stream n cm a (some (r.bytes.map fun x => (a + (x.1 - r.addr), x.2)))) (s.leafOf core (s.cmd cm) r.dva)).modCmd cm
        fun c => { c with redo := c.redo.tail, owed := c.owed ++ [{ peer := m, psn := psn, elem := r.elem, va := r.va, dva := r.dva }] })

/-- A command's access misses in its tile's cache: it goes to the die's walker (R362). -/
def State.missed (s : State) (core cm : Nat) : State :=
  (s.modTile core fun t => { t with txmiss := t.txmiss + 1 }).modDie (dieOf core) fun d =>
    { d with misses := (d.misses.filter fun k => decide (k ≠ cm)) ++ [cm] }

/-- A beat is held up. -/
def State.hold (s : State) (cm : Nat) (e : Hitch) (elem va : Nat) (wr : Bool) : State :=
  let core := coreOf (taskOfCmd cm)
  match e with
  | .fault 1 => s.pauseCmd cm wr va elem
  | .fault 7 => ((s.failCmd cm 7).modCmd cm fun c => { c with count := elem }).raiseAsync (taskOfCmd cm) .rmtUnreach
      (cmdInfo (s.pmodAt core (s.cmd cm) va) cm)
  | .fault k => s.faultCmd cm k wr va elem
  | .walk a =>
    (s.modCmd cm fun c => { c with walk := some ⟨a, wr, elem, va⟩ }).missed core cm
  | .line m a dva => s.askLine cm m a elem va (s.leafOf core (s.cmd cm) dva)
  | .wait => s

/-- A resumed stream makes again the first write that a peer had no page for, or is held up there (R53, R370). -/
def State.sendRedo (s : State) (cm : Nat) : State :=
  match (s.cmd cm).redo with
  | [] => s
  | r :: _ =>
    match s.resendWrite (coreOf (taskOfCmd cm)) cm r with
    | .ok s1 => s1
    | .error e => s.hold cm e r.elem r.va true

/-! ## Beats -/

/-- The engines of a core run: its field does and is not being pre-empted (R22, R373), or it is a management core that runs. -/
def State.pumpRuns (s : State) (core : Nat) : Bool :=
  match s.fieldOf core with
  | some f => (s.field f).runs && !(s.field f).stopping
  | none => isMgmt core && s.pkg.started && !(s.die (dieOf core)).halted

/-- An SBAR of the task before the command has not completed (R219). -/
def State.barred (s : State) (cm : Nat) : Bool :=
  let q := (s.cmd cm).seq
  (List.range 16).any fun e =>
    let b := s.cmd (cmdAt (taskOfCmd cm) e)
    decide (b.op = 9) && !b.ended && decide (b.seq < q)

/-- One beat done: position, element count, beat counter; lines of peers are dropped. -/
def State.stepCmd (s : State) (cm : Nat) : State :=
  let s1 := s.modCmd cm fun c =>
    { c.beatOver with pos := c.pos + 1, count := c.elems (c.pos + 1), wait := 0 }
  s1.modTile (coreOf (taskOfCmd cm)) fun t => { t with tbeats := t.tbeats + 1 }

/-- The command takes the translation that its access used (R218). -/
def State.keepLeaf (s : State) (cm : Nat) (space : Nat) (a : Int) : State :=
  if space = 4 then
    match s.leafOf (coreOf (taskOfCmd cm)) (s.cmd cm) a.toNat with
    | some l => s.modCmd cm fun c => { c with xl := some l }
    | none => s
  else s

/-- The HBM lines of 64 bytes that pieces are read from. -/
def State.hbmLines (s : State) (core : Nat) (c : Cmd) (space : Nat) (l : List Piece) : List Nat :=
  (l.flatMap fun p => (List.range p.n).filterMap fun (i : Nat) =>
    match s.spot core (s.leaves core c) space (p.addr + (i : Int)) false with
    | .ok (.here .hbm x) => some (x / 64)
    | _ => none).eraseDups

/-- The walks that a command's accesses to 64-byte lines of device virtual addresses make beyond the translations that it holds (R360, R430). -/
def State.noteBeyond (s : State) (core : Nat) (c : Cmd) (l : List Nat) : State :=
  l.foldl (fun s x => match s.leafOf core c (64 * x) with | some f => s.noteHops f (64 * x) | none => s) s

/-- Lines of 64 bytes of device virtual addresses that ranges touch. -/
def dvaLines (space : Nat) (l : List (Int × Nat)) : List Nat :=
  if space = 4 then (l.flatMap fun x => lines64 x.1.toNat x.2).eraseDups else []

/-- Effects of reading pieces, their values apart: each line of HBM that the command's accesses before them, `old`, did not read is read once
(R430; that they have it still is a DESIGN CHOICE, log 66). -/
def State.noteReads (s : State) (cm : Nat) (space : Nat) (l old : List Piece) : State :=
  let core := coreOf (taskOfCmd cm)
  let c := s.cmd cm
  let had := s.hbmLines core c space old
  let at_ (l : List Piece) : List Nat := dvaLines space (l.map fun p => (p.addr, p.n))
  let s0 := s.noteBeyond core c ((at_ l).filter fun x => !(at_ old).contains x)
  let s1 := ((s.hbmLines core c space l).filter fun x => !had.contains x).foldl (fun s x => s.hbmRead (64 * x) 64) s0
  l.foldl (fun s p => (s.watchCmd cm space p.addr p.n false).keepLeaf cm space p.addr) s1

/-- The first indexed element of a unit whose index reaches its dimension's extent (R213). -/
def WalkSpec.badIndex (w : WalkSpec) (lo hi : Nat) : Option Nat :=
  match w.idx with
  | none => none
  | some l =>
    let n := hDims w.h
    (List.range (hi - lo)).map (· + lo) |>.find? fun j =>
      decide (hExt w.h (n - 1) ≤ l.getD ((digits w.dims j).getD (n - 1) 0) 0)

/-- Element pieces: the bits that make one element's value. -/
def WalkSpec.elemPieces (w : WalkSpec) (j : Nat) : List Piece :=
  let a := w.addr j
  match hLayout w.h with
  | 0 => [⟨j, a.1, (w.b + 7) / 8, a.2, w.b, 0⟩]
  | _ => (List.range (hPlanes w.h)).map fun q => ⟨j, a.1 + (8 * q : Nat), 8, a.2, 1, w.planes - 1 - q⟩

/-- A command whose unit at u holds elements up to `cut`, where an index is out of range, faults there: after the last link word of the
unit's group has taken the elements before it (R213). -/
def State.cutHere (s : State) (cm u : Nat) (wr : Bool) (cut : Option Nat) : State :=
  let w := (s.cmd cm).spec
  match cut with
  | some j =>
    if hLayout w.h = 1 ∧ u % w.perRun % w.halfPlanes + 1 < w.halfPlanes then s else s.hold cm (.fault 3) j (vaOf (w.addr j).1) wr
  | none => s

/-- A stream from memory to ports: SLD, SGA, SMC (R208, R211, R213, R215). -/
def State.beatOut (s : State) (cm : Nat) : State :=
  let c := s.cmd cm
  let core := coreOf (taskOfCmd cm)
  let w := c.spec
  let ready := (s.targets cm).map fun t => s.portReady t c.o.port c.ver
  let sp := if c.byElem then (c.pos, c.pos + 1) else w.unitSpan c.pos
  let cut := w.badIndex sp.1 sp.2
  let stop := cut.getD sp.2
  let unit (u : Nat) : List Piece := if c.byElem then w.elemPieces u else w.pieces u
  let ps := (unit c.pos).filter fun p => decide (p.elem < stop)
  let old := if c.pos = 0 then [] else unit (c.pos - 1)
  let va := vaOf (w.addr sp.1).1
  if ready.any (·.isNone) then s.hold cm (.fault 2) sp.1 va false
  else if ready.any (· = some false) then s
  else if stop = sp.1 then s.hold cm (.fault 3) sp.1 va false
  else match s.readPieces core c (hSpace w.h) ps 0 with
    | .held e j a r => s.hold cm e j a r
    | .got v =>
      (((s.targets cm).foldl (fun s t => s.portPut t c.o.port c.ver v (w.mark (stop - 1)) false) (s.noteReads cm (hSpace w.h) ps old)).stepCmd
        cm).cutHere cm c.pos false cut

/-- Store puts at the destination walk's space. -/
def State.storePuts (s : State) (cm : Nat) (space : Nat) (l : List Put) : Tried State :=
  let core := coreOf (taskOfCmd cm)
  match s.planPuts core (s.cmd cm) space l with
  | .held e j a w => .held e j a w
  | .got plan => .got (plan.foldl (fun s x =>
      ((s.applyPut core cm space x).watchCmd cm space x.1.addr x.1.n true).keepLeaf cm space x.1.addr)
        (s.noteBeyond core (s.cmd cm) (dvaLines space (l.map fun p => (p.addr, p.n)))))

/-- A stream from an output to memory: SST, SSC (R209). -/
def State.beatIn (s : State) (cm : Nat) : State :=
  let c := s.cmd cm
  let core := coreOf (taskOfCmd cm)
  let w := c.spec
  let code := c.o.port % 32
  let sp := w.unitSpan c.pos
  let va := vaOf (w.addr sp.1).1
  match s.outHead core code c.ver with
  | none => s.hold cm (.fault 2) sp.1 va true
  | some none => s
  | some (some x) =>
    if !x.valid then s.outPop core code
    else if x.err then
      let p := outCell core code
      (((s.outPop core code).failCmd cm 0).cellFault p.1 .errToken (p.2 + 1))
    else
      let cut := w.badIndex sp.1 sp.2
      let stop := cut.getD sp.2
      if stop = sp.1 then s.hold cm (.fault 3) sp.1 va true
      else match s.storePuts cm (hSpace w.h) ((w.unitPuts c.pos x.data.toNat).filter fun p => decide (p.elem < stop)) with
        | .held e j a r => s.hold cm e j a r
        | .got s1 => ((s1.outPop core code).stepCmd cm).cutHere cm c.pos true cut

/-- SREC: D zero words, then words of the output with the walk's marks (R214). -/
def State.beatLoop (s : State) (cm : Nat) : State :=
  let c := s.cmd cm
  let core := coreOf (taskOfCmd cm)
  let mark := c.spec.unitMark c.pos
  let code := c.sop.toNat % 32
  match s.portReady core c.o.port c.ver with
  | none => s.hold cm (.fault 2) (c.elems c.pos) 0 false
  | some false => s
  | some true =>
    if c.pos < bits c.sop.toNat 5 11 then (s.portPut core c.o.port c.ver 0 0 false).stepCmd cm
    else match s.outHead core code c.ver with
      | none => s.hold cm (.fault 2) (c.elems c.pos) 0 false
      | some none => s
      | some (some x) =>
        if !x.valid then s.outPop core code
        else ((s.outPop core code).portPut core c.o.port c.ver x.data.toNat mark x.err).stepCmd cm

/-- Memory to memory: SCP, SGA mem, SFIL (R211, R213). A beat is a packet of one element, which R210's "packet of up to 64 bytes" leaves
open (DESIGN CHOICE, log 52). -/
def State.beatCopy (s : State) (cm : Nat) : State :=
  let c := s.cmd cm
  let core := coreOf (taskOfCmd cm)
  let src := c.spec
  let dst := c.outSpec
  let val : Tried Nat :=
    if c.op = 7 then .got c.sop.toNat
    else match src.badIndex c.pos (c.pos + 1) with
      | some j => .held (.fault 3) j (vaOf (src.addr j).1) false
      | none => s.readPieces core c (hSpace src.h) (src.elemPieces c.pos) 0
  match val with
  | .held e j a r => s.hold cm e j a r
  | .got v =>
    let s1 := if c.op = 7 then s else s.noteReads cm (hSpace src.h) (src.elemPieces c.pos) (if c.pos = 0 then [] else src.elemPieces (c.pos - 1))
    match s1.storePuts cm (hSpace dst.h) (dst.puts c.pos v) with
    | .held e j a r => s.hold cm e j a r
    | .got s2 => s2.stepCmd cm

/-- A beat of one stream command (R210). -/
def State.beatOne (s : State) (cm : Nat) : State :=
  let c := s.cmd cm
  if c.units ≤ c.pos then s
  else match c.op with
    | 0 => s.beatOut cm
    | 1 => s.beatIn cm
    | 2 => s.beatCopy cm
    | 3 => if c.o.port = 0x7F then s.beatCopy cm else s.beatOut cm
    | 4 => s.beatIn cm
    | 5 => s.beatLoop cm
    | 6 => s.beatOut cm
    | _ => s.beatCopy cm

/-! ## Lockstep sets (R216) -/

/-- The lockstep set of a command: the running lockstep streams of its core with its class that have beats left. -/
def State.lockstepSet (s : State) (cm : Nat) : List Nat :=
  let core := coreOf (taskOfCmd cm)
  ((List.range 128).map fun i => core * 128 + i).filter fun k =>
    let d := s.cmd k
    decide (d.st = .running) && decide (d.op = 0) && d.o.ls && decide (d.o.cls = (s.cmd cm).o.cls) && decide (d.pos < d.units) && !d.kill

/-- Bytes that the next beat of a lockstep stream reads. -/
def State.beatBytes (s : State) (cm : Nat) : List Int :=
  let c := s.cmd cm
  ((c.spec.pieces c.pos).flatMap fun p => (List.range p.n).map fun (i : Nat) => p.addr + (i : Int))

/-- The banks that a beat reads. -/
def State.beatBanks (s : State) (cm : Nat) : List Nat := ((s.beatBytes cm).map fun a => a.toNat / 0xC000).eraseDups

/-- A beat outside its stream's half of the bin (R216). -/
def State.wrongGroup (s : State) (cm : Nat) : Bool :=
  let wi := decide ((s.cmd cm).o.port < 0x20)
  (s.beatBytes cm).any fun a => decide (0 ≤ a) && decide (a < (2 ^ 32 : Nat)) && (if wi then decide (0x60000 ≤ a) else decide (a < 0x60000) || decide (0xC0000 ≤ a))

/-- A bank that two members read. -/
def sharedBank : List (List Nat) → Option Nat
  | [] => none
  | b :: l => match b.find? (fun k => l.any (·.contains k)) with
    | some k => some k
    | none => sharedBank l

/-- Banks of its own bin that the next beat of a stream reads or writes. -/
def State.useBanks (s : State) (cm : Nat) : List Nat :=
  let c := s.cmd cm
  let rd (h : Handle) (l : List Piece) : List Int :=
    if hSpace h = 4 then [] else l.flatMap fun p => (List.range p.n).map fun (i : Nat) => p.addr + (i : Int)
  let wr (h : Handle) (l : List Put) : List Int :=
    if hSpace h = 4 then [] else l.flatMap fun p => (List.range p.n).map fun (i : Nat) => p.addr + (i : Int)
  let as : List Int :=
    match c.op with
    | 1 => wr c.h (c.spec.unitPuts c.pos 0)
    | 4 => wr c.h (c.spec.unitPuts c.pos 0)
    | 5 => []
    | 7 => wr c.h (c.spec.puts c.pos 0)
    | _ =>
      if c.byElem then
        rd c.h (c.spec.elemPieces c.pos) ++ (if c.op = 2 ∨ c.o.port = 0x7F then wr c.h2 (c.outSpec.puts c.pos 0) else [])
      else rd c.h (c.spec.pieces c.pos)
  ((as.filter fun (a : Int) => decide (0 ≤ a) && decide (a < 0xC0000)).map fun (a : Int) => a.toNat / 0xC000).eraseDups

/-- A bank that the next beat uses has been read by a lockstep beat in this cycle: the beat waits, unless it has waited 15 cycles on end
before this one (R216). -/
def State.bankHeld (s : State) (cm : Nat) : Bool :=
  let c := s.cmd cm
  let core := coreOf (taskOfCmd cm)
  !bankDue c.wait c.waitAt (s.coreCycle core) && (s.useBanks cm).any (s.banksNow core (s.tile core).lockAt).contains

/-- The beat has waited in this cycle. -/
def State.bankWait (s : State) (cm : Nat) : State :=
  let now := s.coreCycle (coreOf (taskOfCmd cm))
  s.modCmd cm fun c => { c with wait := bankWaited c.wait c.waitAt now, waitAt := now }

/-- A beat that has waited 15 cycles on end takes its banks: lockstep beats keep off them in this cycle. -/
def State.bankTake (s : State) (cm : Nat) : State :=
  let c := s.cmd cm
  let core := coreOf (taskOfCmd cm)
  if bankDue c.wait c.waitAt (s.coreCycle core) then s.takeBanks core (s.useBanks cm) else s

/-- Banks that lockstep beats of the core keep off in this cycle: those of beats and of bin operations that have waited 15 cycles on end, and
those that such have taken. -/
def State.banksOwed (s : State) (core : Nat) : List Nat :=
  let now := s.coreCycle core
  s.banksNow core (s.tile core).takenAt ++
    ((List.range 128).flatMap fun i =>
      let c := s.cmd (core * 128 + i)
      if c.st = .running ∧ bankDue c.wait c.waitAt now then s.useBanks (core * 128 + i) else []) ++
    s.cells.flatMap fun x =>
      if coreOfCell x.1 = core then (x.2.bin.filter fun b => !b.done && bankDue b.wait b.waitAt now).map fun b => b.addr / 0xC000 else []

/-- The next beats of every member, in one cycle, when none has made one in it, each has room and no member's bank is owed to a beat that has waited (R216). A bank
that they share, or share with another set's beats of the cycle, is a BANK_CONFLICT. No group or cell raises it: its record holds 255 in
both places (DESIGN CHOICE, log 53). -/
def State.beatLockstep (s : State) (cm : Nat) : State :=
  let core := coreOf (taskOfCmd cm)
  let set := s.lockstepSet cm
  let bad := set.filter s.wrongGroup
  let good := set.filter fun k => !s.wrongGroup k
  let before := s.banksNow core (s.tile core).lockAt
  let banks := good.map s.beatBanks
  let now := s.coreCycle core + 1
  if set.any (fun k => s.portReady core (s.cmd k).o.port (s.cmd k).ver = some false) || set.any (fun k => decide ((s.cmd k).beatAt = now)) then s
  else if banks.flatten.any (s.banksOwed core).contains then s
  else match sharedBank (before :: banks) with
    | some b =>
      match s.fieldOf core with
      | some f => s.fieldFault f .bankConflict (tileOf core) 255 255 b
      | none => s
    | none =>
      let s0 := set.foldl (fun s k => s.modCmd k fun c => { c with beatAt := now })
        (s.modTile core fun t => { t with lockAt := (now, before ++ banks.flatten) })
      let s1 := good.foldl (fun s k => s.beatOne k) s0
      bad.foldl (fun s k =>
        let c := s.cmd k
        if c.st = .running then s.hold k (.fault 4) (c.spec.unitSpan c.pos).1 (vaOf (c.spec.addr (c.spec.unitSpan c.pos).1).1) false
        else s) s1

/-! ## Walks (R361-R364) -/

/-- A leaf that a running or paused stream of the core holds is not dropped from its cache (R362). -/
def State.leafHeld (s : State) (core : Nat) (l : Leaf) : Bool :=
  (List.range 128).any fun i => let c := s.cmd (core * 128 + i); c.live && decide (c.xl = some l)

/-- The die's walker walks for an access of command `key` of a core: the leaf enters the tile's cache and the command's own entry,
or a fault kind comes back (R361, R362). -/
def State.walkIn (s : State) (core key dva : Nat) (wr : Bool) : Except Nat State :=
  let w := s.walk (s.die (dieOf core)).walker dva
  let s1 := s.modDie (dieOf core) fun d => { d with walker := w.2.foldl (fun m x => Sparse.set 0 m x.1 x.2) d.walker }
  let take (l : Leaf) : State :=
    ({ s1 with fresh := s1.fresh + 1 }.modTile core fun t =>
      { t with tlb := cachePut 512 (s.leafHeld core) (Config.victim s1.fresh) l t.tlb }).modCmd key fun c => { c with xl := some l }
  match w.1.judge wr .stream with
  | .notPresent => .error 1
  | .prot => .error 2
  | .mig l => if wr then .error 1 else .ok (take l)
  | .ok l => .ok (take l)

/-- The walk of a command of the core is one of the die's 16 under way, which start in arrival order (R362). -/
def State.walkBegun (s : State) (core cm : Nat) : Bool :=
  (((s.die (dieOf core)).misses.filter fun k => (s.cmd k).walk.isSome).take 16).contains cm

/-- The walk of a command of the core for an address has ended: it has made its reads (R430). -/
def State.walkOver (s : State) (core cm dva : Nat) : State :=
  ((s.noteWalk (s.die (dieOf core)).walker dva).modCmd cm fun c => { c with walk := none }).modDie (dieOf core) fun d =>
    { d with misses := d.misses.filter fun k => decide (k ≠ cm) }

/-- A walk that a landing or a pull makes as part of its own event: it counts as a miss when it first comes up, and it ends, with the state
or a fault kind, once it is one of the 16 under way; none while it is not (R362, R427). -/
def State.walkNow (s : State) (core cm : Nat) (r : WalkReq) : State × Option (Except Nat State) :=
  let s0 := if (s.cmd cm).walk.isSome then s else (s.modCmd cm fun c => { c with walk := some r }).missed core cm
  if s0.walkBegun core cm then
    let s1 := s0.walkOver core cm r.dva
    (s1, some (s1.walkIn core cm r.dva r.wr))
  else (s0, none)

/-- TRANSLATION_WALK of a command that missed (R218, R362). -/
def State.walkFor (s : State) (cm : Nat) : State :=
  match (s.cmd cm).walk with
  | none => s
  | some r =>
    let core := coreOf (taskOfCmd cm)
    if !s.walkBegun core cm then s else
    let s0 := s.walkOver core cm r.dva
    match s0.walkIn core cm r.dva r.wr with
    | .ok s1 => s1
    | .error k => s0.hold cm (.fault k) r.elem r.va r.wr

end Sys2Proof.Machine
end

