-- ==== Sys2Proof/Machine/Pick.lean ====
section
/-! DEFINITION. The issue picker: fetching a task's next bundle, whether the task is issuable, and which task a core takes
(spec/01_cw_execution_model.md R23-R26, R47; spec/02_cw_slice_file.md R71; spec/03_cw_bundles_encoding.md R84, R105-R107;
spec/07_cw_engine_isa.md R202, R236). -/

namespace Sys2Proof.Machine

/-! ## Fetch (R84, R105, R107) -/

/-- The words of the bundle at an address, up to n of them, and the page of a word that is not loaded. -/
def State.fetchWords (s : State) (core a : Nat) : Nat → List Nat × Option Nat
  | 0 => ([], none)
  | n + 1 =>
    let p := a / 4096 % 16
    if !(s.tile core).pages.getLsbD p then ([], some p)
    else
      let w := s.readLE (.istore core) a 4
      if bitB w 31 then ([w], none)
      else
        let r := s.fetchWords core ((a + 4) % 65536) n
        (w :: r.1, r.2)

/-- What the words at a task's program counter are. -/
inductive Bundle where
  | miss (page : Nat)
  | bad (r : Reject)
  | good (l : List Instr)
  deriving DecidableEq, Repr

/-- Address of a task's next bundle: bits [1:0] of the program counter are ignored (R105). -/
def Task.at_ (t : Task) : Nat := t.pc / 4 * 4

/-- The bundle at a task's program counter, its first word, and its length in words. -/
def State.bundleAt (s : State) (tk : Nat) : Bundle × Nat × Nat :=
  let f := s.fetchWords (coreOf tk) (s.task tk).at_ 4
  (match f.2 with
    | some p => .miss p
    | none => match decodeBundle f.1 with
      | .error e => .bad e
      | .ok l => .good l, f.1.headD 0, f.1.length)

/-- Lines of 64 bytes that n words from an address up lie in. -/
def linesOf (a n : Nat) : List Nat := ((List.range n).map fun i => (a + 4 * i) % 65536 / 64 * 64).eraseDups

/-- Fetch reads the lines of a task's next bundle, as far as its pages are loaded, into the fetch buffer (R106). -/
def State.fetchLines (s : State) (tk : Nat) : State :=
  let n := (s.bundleAt tk).2.2
  s.modTask tk fun t => { t with lines := linesOf t.at_ n }

/-- Every word of a task's next bundle that decoding reads is in its fetch buffer (R23, R106). -/
def State.inBuffer (s : State) (tk : Nat) : Bool :=
  let t := s.task tk
  (linesOf t.at_ (s.bundleAt tk).2.2).all fun a => t.lines.contains a

/-! ## What a slot touches (R71, R236) -/

def rP3 (o : OpP) : List (Nat × Nat) := [(o.d, wBits o.w), (o.a, wBits o.w), (o.b, wBits o.w)]
def rP2 (o : OpP) : List (Nat × Nat) := [(o.d, wBits o.w), (o.a, wBits o.w)]
def rPab (o : OpP) : List (Nat × Nat) := [(o.a, wBits o.w), (o.b, wBits o.w)]
def rW3 (o : OpW) : List (Nat × Nat) := [(o.d, o.wd), (o.a, wBits o.w), (o.b, wBits o.w)]
def rW2 (o : OpW) : List (Nat × Nat) := [(o.d, o.wd), (o.a, wBits o.w)]
def rMem (o : OpI) : List (Nat × Nat) := [(o.d, wBits o.w), (o.a, 32)]

/-- Slice ranges that a slot reads or writes: first slice and width in bits. -/
def slotRanges : Instr → List (Nat × Nat)
  | .add o | .sub o | .logAnd o | .logOr o | .logXor o | .shl o | .shr o | .minS o | .maxS o | .mulh o | .mulhu o
  | .adds o | .subs o | .addsu o | .subsu o | .andn o | .rol o | .ror o | .bfi o | .sel o
  | .fadd o | .fsub o | .fmul o | .fma o | .fmin o | .fmax o | .fsgn o => rP3 o
  | .neg o | .abs o | .logNot o | .brev o | .frcp o | .frsq o => rP2 o
  | .mul o | .bfx o | .pack o => rW3 o
  | .mov o | .clz o | .ctz o | .popc o | .ext o | .fcvt o => rW2 o
  | .addi o => [(o.d, wBits o.w), (o.a, wBits o.w)]
  | .cmp o | .tst o | .fcmp o => rPab o
  | .ld o | .st o | .ldl o | .stu o | .spill o | .fill o => rMem o
  | .movi o => [(o.d, wBits o.w)]
  | .topk o => [(o.d, o.listBits), (o.a, wBits o.w), (o.b, wBits o.w)]
  | .topkc o => [(o.d, o.listBits), (o.a, wBits o.w)]
  | .push o | .hfset o => [(o.a, wBits o.w)]
  | .pop o | .hfld o => [(o.d, wBits o.w)]
  | .sld o | .sst o | .scp o | .sga o | .ssc o | .smc o | .sfil o => [(o.s, 64)]
  | .srec o => [(o.s, 16)]
  | .ssta _ s _ | .sig _ _ s _ | .sigm _ _ s _ => [(s, 64)]
  | .dcset _ s _ => [(s, 32)]
  | .draw o | .fput o | .resv o => [(o.s, 64)]
  | .rtake o _ => [(o.s, 64)]
  | .publ o | .mpost o | .msend o | .hld o | .hst o => [(o.s, 32)]
  | .aadd o | .amin o | .amax o | .aminu o | .amaxu o | .aand o | .aor o | .axor o | .aswp o | .acas o | .ald o | .ast o =>
    [(o.s, 64)]
  | .mprobe o | .mcancel o | .mtest o | .rsyn o => [(o.s, 32)]
  | .tinv _ s _ => [(s, 64)]
  | .brl _ link _ => [(link, 16)]
  | .jmp _ t => [(t, 16)]
  | .loop _ cnt _ => [(cnt, 24)]
  | .waitf _ a v _ => [(a, 32), (v, 64)]
  | .mfs _ d _ => [(d, 32)]
  | .mts _ _ s => [(s, 32)]
  | .eret _ t _ | .hold _ t => [(t, 32)]
  | .ipage _ p => [(p, 64)]
  | _ => []

/-- Predicate of a slot; an E slot has none (R23). -/
def slotPred : Instr → Pred
  | .add o | .sub o | .logAnd o | .logOr o | .logXor o | .shl o | .shr o | .sel o | .cmp o | .minS o | .maxS o | .mulh o
  | .mulhu o | .adds o | .subs o | .addsu o | .subsu o | .neg o | .abs o | .andn o | .logNot o | .rol o | .ror o | .brev o
  | .bfi o | .tst o | .fadd o | .fsub o | .fmul o | .fma o | .fmin o | .fmax o | .fsgn o | .fcmp o | .frcp o | .frsq o
  | .push o | .pop o | .hfld o | .hfset o => o.p
  | .mul o | .mov o | .clz o | .ctz o | .popc o | .ext o | .bfx o | .pack o | .fcvt o => o.p
  | .addi o | .ld o | .st o | .ldl o | .stu o | .spill o | .fill o => o.p
  | .nop c | .br c _ | .brl c _ _ | .jmp c _ | .loop c _ _ | .loopi c _ _ | .lind c _ _ _ _ | .lbrk c _ | .endTask c | .yield c
  | .waitc c _ | .waitf c _ _ _ | .fence c _ _ | .trap c _ | .bkpt c _ | .prio c _ | .mfs c _ _ | .mts c _ _ | .eret c _ _
  | .ipage c _ | .hold c _ => c.p
  | _ => Pred.always

/-- Loop condition of a slot. -/
def slotLoop : Instr → LoopCond
  | .add o | .sub o | .logAnd o | .logOr o | .logXor o | .shl o | .shr o | .sel o | .cmp o | .minS o | .maxS o | .mulh o
  | .mulhu o | .adds o | .subs o | .addsu o | .subsu o | .neg o | .abs o | .andn o | .logNot o | .rol o | .ror o | .brev o
  | .bfi o | .tst o | .fadd o | .fsub o | .fmul o | .fma o | .fmin o | .fmax o | .fsgn o | .fcmp o | .frcp o | .frsq o
  | .push o | .pop o | .hfld o | .hfset o => o.lc
  | .mul o | .mov o | .clz o | .ctz o | .popc o | .ext o | .bfx o | .pack o | .fcvt o => o.lc
  | .addi o | .ld o | .st o | .ldl o | .stu o | .spill o | .fill o => o.lc
  | .topk o | .topkc o => o.lc
  | .movi o => o.lc
  | .sld o | .sst o | .scp o | .sga o | .ssc o | .srec o | .smc o | .sfil o => o.lc
  | .scfg lc _ _ _ | .sbar lc _ _ _ | .skil lc _ _ | .ssta lc _ _ | .sig lc _ _ _ | .sigm lc _ _ _ | .bind lc _ _ | .unbind lc _
  | .dcset lc _ _ | .dcdec lc _ | .hmov lc _ _ | .tinv lc _ _ => lc
  | .draw o | .fput o | .resv o | .publ o | .mpost o | .msend o | .hld o | .hst o => o.lc
  | .rtake o _ => o.lc
  | .aadd o | .amin o | .amax o | .aminu o | .amaxu o | .aand o | .aor o | .axor o | .aswp o | .acas o | .ald o | .ast o => o.lc
  | .mprobe o | .mcancel o | .mtest o | .rsyn o => o.lc
  | .nop c | .br c _ | .brl c _ _ | .jmp c _ | .loop c _ _ | .loopi c _ _ | .lind c _ _ _ _ | .lbrk c _ | .endTask c | .yield c
  | .waitc c _ | .waitf c _ _ _ | .fence c _ _ | .trap c _ | .bkpt c _ | .prio c _ | .mfs c _ _ | .mts c _ _ | .eret c _ _
  | .ipage c _ | .hold c _ => c.lc
  | _ => LoopCond.none

/-- Gates that a slot reads or writes; the predicate that always holds reads none. -/
def slotGates (i : Instr) : List Nat :=
  (if (slotPred i) = Pred.always then [] else [(slotPred i).gate]) ++
  (match i with
    | .cmp o | .tst o | .fcmp o => [o.d % 16]
    | .waitf _ _ _ g => [g]
    | _ => [])

/-- Handle registers that a slot names, without their scale handles. -/
def slotHandles : Instr → List Nat
  | .scp o => [o.h, o.h2]
  | .sld o | .sst o | .srec o | .smc o | .sfil o => o.h :: (if o.h2 = 0 then [] else [o.h2])
  | .sga o => o.h :: (if o.port = 0x7F then [o.h2] else [])
  | .ssc o => [o.h]
  | .scfg _ h _ _ => [h]
  | .draw o | .fput o | .resv o | .publ o | .mpost o | .msend o | .hld o | .hst o => [o.h]
  | .rtake o _ => [o.h]
  | .aadd o | .amin o | .amax o | .aminu o | .amaxu o | .aand o | .aor o | .axor o | .aswp o | .acas o | .ald o | .ast o => [o.h]
  | .hmov _ h h2 => [h, h2]
  | .hfld o => [o.a]
  | .hfset o => [o.d]
  | _ => []

/-- A slot touches a pending slice or a pending handle (R71, R236). -/
def Task.touchesPending (t : Task) (i : Instr) : Bool :=
  (slotRanges i).any (fun r => decide (t.pend &&& pendMask r.1 (r.2 / 4) ≠ 0)) ||
  (slotGates i).any (fun g => t.pend.getLsbD (g / 4)) ||
  (slotHandles i).any fun h => t.hpend.getLsbD h || (hSce (hGet t.hs h) && t.hpend.getLsbD (hSch (hGet t.hs h)))

/-- The loop levels as the acting slots of the bundle leave them for the sequencer; none where it does not act behind them: END, a branch, or a
loop of count 0 (R160-R164). -/
def State.levelsAfter (s : State) (v : Sparse Level) : List Instr → Option (Sparse Level)
  | [] => some v
  | i :: l =>
    let enter (count fin : Nat) : Option (Sparse Level) :=
      let n := activeCount v
      if count = 0 then none
      else some (Sparse.set {} v n
        { levelOf v n with bs := s.issue.next, be := (s.issue.addr + 4 * fin) % 65536, remaining := count, iter := 0 })
    match i with
    | .endTask _ | .br _ _ | .brl _ _ _ | .jmp _ _ => none
    | .loop _ cnt fin => (enter (s.rd cnt 24) fin).bind fun v => s.levelsAfter v l
    | .loopi _ count fin => (enter count fin).bind fun v => s.levelsAfter v l
    | .lind _ i lvl w stride => s.levelsAfter (Sparse.set {} v lvl { levelOf v lvl with ind := some ⟨i, w, BitVec.ofInt 16 stride⟩ }) l
    | .lbrk _ lvl =>
      s.levelsAfter (if (levelOf v lvl).remaining = 0 then v else Sparse.set {} v lvl { levelOf v lvl with remaining := 1 }) l
    | _ => s.levelsAfter v l

/-- The induction steps that the sequencer takes at the end of the bundle, whose acting slots are l, write a pending slice (R71, R161). -/
def State.inductionPending (s : State) (l : List Instr) : Bool :=
  let t := s.task s.me
  match s.levelsAfter t.levels l with
  | none => false
  | some v =>
    (sequencer s.issue.addr s.issue.sf 7 { t with levels := v, flight := [] }).1.flight.any fun f =>
      match f.dst with
      | .range a n => decide (t.pend &&& pendMask a n ≠ 0)
      | _ => false

/-! ## Issuable (R23) -/

/-- What the slots of a task's bundle read: the task as it stands before the bundle (R69, R156, R201). -/
def State.issueOf (s : State) (tk : Nat) (word len : Nat) : Issue :=
  let t := s.task tk
  { task := tk, addr := t.at_, next := (t.at_ + 4 * len) % 65536, word := word, sf := t.sf, hs := t.hs, levels := t.levels
    noAct := t.noAct, skip := t.skip, reqNo := t.reqNo, voutdst := t.voutdst, vc := t.vc }

/-- A queue command takes an entry of the pump queue (R199, R202). -/
def isQueueCmd : Instr → Bool
  | .sld _ | .sst _ | .scp _ | .sga _ | .ssc _ | .srec _ | .smc _ | .sfil _ | .scfg _ _ _ _ | .sbar _ _ _ _ | .msend _ => true
  | _ => false

/-- A .sc atomic (R47). -/
def isScAtomic : Instr → Bool
  | .aadd o | .amin o | .amax o | .aminu o | .amaxu o | .aand o | .aor o | .axor o | .aswp o | .acas o | .ald o | .ast o =>
    decide (o.ord = 4)
  | _ => false

/-- FIFO that an acting slot pushes (true) or pops (false), by number. -/
def fifoUse : Instr → Option (Bool × Nat)
  | .push o => some (true, o.b)
  | .pop o => some (false, o.b)
  | _ => none

/-- A supervisor-only form (R104, R168, R169, R239). -/
def isSupervisor : Instr → Bool
  | .eret _ _ _ | .hold _ _ | .ipage _ _ | .tinv _ _ _ => true
  | .mfs _ _ r | .mts _ r _ => sysregSupervisor r
  | _ => false

/-- Words that FIFO f can give or take now. -/
def State.fifoCount (s : State) (push : Bool) (f : Nat) : Nat :=
  let t := s.task s.me
  if push then (if f = 1 then 8 - (s.voutWords s.me).length else 16 - t.fq.length)
  else (if f = 0 then s.vin.length else t.fr.length)

/-- Acting slots find their words and room, but for the FIFOs in a list (R23). -/
def State.fifosReady (s : State) (skip : List (Bool × Nat)) (l : List Instr) : Bool :=
  let u := l.filterMap fifoUse
  u.all fun x => skip.contains x || decide ((u.filter (· = x)).length ≤ s.fifoCount x.1 x.2)

/-- Entries of the issuing task's queue that are free from its next on (R202). -/
def State.freeRun (s : State) (tk : Nat) : Nat → Nat
  | 0 => 0
  | n + 1 => if (s.cmd (cmdAt tk (((s.task tk).q + (15 - n)) % 16))).ended then 1 + s.freeRun tk n else 0

/-- The queue commands that act fit (R23). -/
def State.queuesFit (s : State) (l : List Instr) : Bool := decide ((l.filter isQueueCmd).length ≤ s.freeRun s.me 16)

/-- Wheel cycles that a core's present cycle overlaps: at a slower clock step than 2.4 GHz it reaches into the next (R47, R388). -/
def State.wheelSpan (s : State) (core : Nat) : List Nat :=
  match s.fieldOf core with
  | some k => if (s.field k).step = 0 then [s.cycle] else [s.cycle, s.cycle + 1]
  | none => [s.cycle]

/-- The wheel cycle that a .sc bundle of the core would take now: its position is the core's, and no bundle of the module has taken it or a later
one, past which the wheel stands no more (R47; DEDUCED, log 37). -/
def State.wheelCycle (s : State) (core : Nat) : Option Nat :=
  (s.wheelSpan core).find? fun w =>
    (s.tile core).wheel.contains (w % 1024) && (match s.pkg.scLast with | some u => decide (u < w) | none => true)

/-- The SC wheel stands at a position that the core holds (R23, R47). -/
def State.onWheel (s : State) (core : Nat) : Bool := (s.wheelCycle core).isSome

/-- The core's field runs, or it is a management core that runs: its picker is not stopped (R22, R367, R385). -/
def State.coreRuns (s : State) (core : Nat) : Bool := s.pumpRuns core

/-- The slots of a legal bundle that act, on the state with the bundle's issue record in place. -/
def State.acting (s : State) (l : List Instr) : List Instr := l.filter fun i => s.acts (slotLoop i) (slotPred i)

/-- A legal bundle of the task may issue, but for a pump queue that is full in a lenient field, and for the FIFOs in a list. -/
def State.bundleReady (s : State) (skip : List (Bool × Nat)) (l : List Instr) : Bool :=
  let t := s.task s.me
  let u := s.acting l
  !l.any t.touchesPending && !s.inductionPending u && s.fifosReady skip u &&
  (!u.any isScAtomic || s.onWheel s.myCore)

/-- Only a full pump queue holds the bundle, in a lenient field (R202). -/
def State.queueHolds (s : State) (l : List Instr) : Bool := !s.strictAt s.myCore && !s.queuesFit (s.acting l)

/-- How a task stands before the picker. -/
inductive Ready where
  | no
  /-- Held by a full pump queue alone (R202, R427 QSTALL). -/
  | queue
  | yes
  deriving DecidableEq, Repr

/-- A task's standing, but for the FIFOs in a list: its results that are due have landed in the slice file that its bundle reads
(R69, R70). A bundle that decoding faults is not held by anything (R23). Nothing of the task issues while a WAITF of its last bundle waits
unresolved behind earlier accesses of its port, since whether the task parks is not known (DEDUCED from R21 and R39, log 48), or while an
MTS to a device register waits for them (R168, R358). -/
def State.readyBut (s : State) (skip : List (Bool × Nat)) (tk : Nat) : Ready :=
  let t := s.task tk
  if t.st ≠ .runnable ∨ t.fetch ∨ t.waitfInPort ∨ !t.mts.isEmpty then .no
  else
    let s1 := s.modTask tk Task.landDue
    match s1.bundleAt tk with
    | (.good l, w, n) =>
      let s2 := { s1 with issue := s1.issueOf tk w n }
      if l.any isSupervisor && !s2.supervisor then .yes
      else if !s2.bundleReady skip l then .no else if s2.queueHolds l then .queue else .yes
    | _ => .yes

def State.ready (s : State) (tk : Nat) : Ready := s.readyBut [] tk

/-- The task's next bundle is not issuable only because a POP names an empty vin (R348). -/
def State.starved (s : State) (tk : Nat) : Bool := decide (s.ready tk = .no) && decide (s.readyBut [(false, 0)] tk = .yes)

/-- Contexts of a core that stand in one way before the picker; one whose bundle may issue has it in its fetch buffer. -/
def State.standing (s : State) (core : Nat) (r : Ready) : List Nat :=
  (List.range 8).filter fun x => decide (s.ready (taskAt core x) = r) && (decide (r ≠ .yes) || s.inBuffer (taskAt core x))

/-! ## The pick (R24, R26) -/

/-- Contexts in order after one, wrapping. -/
def after (x : Nat) : List Nat := (List.range 8).map fun i => (x + 1 + i) % 8

/-- The first of the contexts at a priority, in round-robin order after the one last issued there; before any issue at the priority the order
starts at context 0 (DESIGN CHOICE, log 35: R24 does not say). -/
def State.pickAt (s : State) (core : Nat) (ready : List Nat) (p : Nat) : Option Nat :=
  (after (Sparse.get 7 (s.tile core).last p)).find? fun x => ready.contains x && decide ((s.task (taskAt core x)).prio = p)

/-- The priority that the core's present cycle is reserved for (R26). -/
def reserved (floor : Nat) (cycle : Nat) : Option Nat :=
  let n := cycle % 64
  let a := min 32 (bits floor 0 6)
  let b := min 32 (a + bits floor 8 6)
  let c := min 32 (b + bits floor 16 6)
  if n < a then some 0 else if n < b then some 1 else if n < c then some 2 else none

/-- The context that the picker takes among the issuable ones. -/
def State.pick (s : State) (core : Nat) (ready : List Nat) : Option Nat :=
  let free := [3, 2, 1, 0].findSome? (s.pickAt core ready)
  match reserved (s.tile core).pickfloor.toNat (s.tile core).corecycle with
  | some p => match s.pickAt core ready p with
    | some x => some x
    | none => free
  | none => free

/-- The picker takes a context: it becomes the one last issued at its priority, also when its bundle faults (DESIGN CHOICE, log 35: R24 names
the context last issued, and R23 has the picker take such a bundle as it takes any). -/
def State.taking (s : State) (core x : Nat) : State :=
  s.modTile core fun t => { t with last := Sparse.set 7 t.last (s.task (taskAt core x)).prio x }

/-- The cycle's marks: fetches that follow a taken branch are made, and stalls on a full queue are counted. -/
def State.marks (s : State) (core : Nat) (stalled : List Nat) : State :=
  (List.range 8).foldl (fun s x => s.modTask (taskAt core x) fun t =>
    { t with fetch := false, qstall := if stalled.contains x then t.qstall + 1 else t.qstall }) s

/-- The core counts a cycle. -/
def State.countCycle (s : State) (core : Nat) : State := s.modTile core fun t => { t with corecycle := t.corecycle + 1 }

end Sys2Proof.Machine
end

