-- ==== Sys2Proof/Machine/Receive.lean ====
section
/-! DEFINITION. The receive engine and sends: posts, probes, cancels, tests, matching, landings, pulls and completions
(spec/06_cw_receive_engine.md R171-R197; spec/07_cw_engine_isa.md R232-R234). -/

namespace Sys2Proof.Machine

/-! ## Payload bytes of a row walk (R114, R188, R233) -/

/-- Bytes of one dimension-0 run. -/
def WalkSpec.runBytes (w : WalkSpec) : Nat := (w.e0 * w.b + 7) / 8

/-- Bytes of the first run's elements from element eoff on. -/
def WalkSpec.firstBytes (w : WalkSpec) (eoff : Nat) : Nat := ((w.e0 - eoff % w.e0) * w.b + 7) / 8

/-- Byte size of the elements from eoff to the end of the walk (R188). -/
def WalkSpec.capacity (w : WalkSpec) (eoff : Nat) : Nat :=
  if w.total ≤ eoff then 0 else w.firstBytes eoff + (w.total / w.e0 - eoff / w.e0 - 1) * w.runBytes

/-- First bit of element j in the payload of a landing that starts at element eoff. Packed elements that start in mid-byte, or in a run that is
not landed whole, are packed densely from that element, and the first run's part is rounded up to whole bytes on its own (R188 with R114;
DESIGN CHOICE, log 99). -/
def WalkSpec.payBit (w : WalkSpec) (eoff j : Nat) : Nat :=
  let r := j / w.e0
  if r = eoff / w.e0 then (j - eoff) * w.b
  else 8 * (w.firstBytes eoff + (r - eoff / w.e0 - 1) * w.runBytes) + j % w.e0 * w.b

/-- Value of b bits from bit p of the first n bytes of a payload, given its bytes from byte p / 8 on; later bits are zero. -/
def payValue (l : List Byte) (n p b : Nat) : Nat := bits (wordOfBytes (l.take (n - p / 8))) (p % 8) b

/-- The access that reads payload byte q: its element, address, bytes, and the bits of its last byte that belong to the walk. -/
def WalkSpec.payloadAt (w : WalkSpec) (q : Nat) : Nat × Int × Nat × Nat :=
  let r := q / w.runBytes
  let k := q % w.runBytes
  if 8 ≤ w.b then
    let n := w.b / 8
    let j := r * w.e0 + k / n
    (j, (w.addr j).1 + (k % n : Nat), n - k % n, 8)
  else (r * w.e0 + k * 8 / w.b, (w.addr (r * w.e0)).1 + (k : Int), 1, min 8 (w.e0 * w.b - 8 * k))

/-- Read the payload of an MSEND from byte q on: the bytes of one access. -/
def State.readPayload (s : State) (cm q : Nat) : Tried (List Byte) :=
  let c := s.cmd cm
  let w := plainWalk c.h
  let a := w.payloadAt q
  match s.fetch (coreOf (taskOfCmd cm)) c (hSpace c.h) a.2.1 a.2.2.1 with
  | .error e => .held e a.1 (vaOf a.2.1) false
  | .ok v => .got (bytesOfNat a.2.2.1 (v % 2 ^ (8 * (a.2.2.1 - 1) + a.2.2.2)))

/-- Effects of such a read, its value apart. -/
def State.noteRead (s : State) (cm q : Nat) : State :=
  let w := plainWalk (s.cmd cm).h
  let piece (q : Nat) : Piece := let a := w.payloadAt q; ⟨a.1, a.2.1, a.2.2.1, 0, 8 * a.2.2.1, 0⟩
  s.noteReads cm (hSpace w.h) [piece q] (if q = 0 then [] else [piece (q - 1)])

/-! ## The engine's own state -/

def State.entry (s : State) (e : Nat) : Entry := Sparse.get {} s.rx.entries e

def State.modEntry (s : State) (e : Nat) (f : Entry → Entry) : State :=
  { s with rx := { s.rx with entries := Sparse.modify {} s.rx.entries e f } }

/-- The command slot of the landing into an entry: its translation, and its packets to peers (R189). -/
def landKey (e : Nat) : Nat := 2 ^ 20 + e

/-- Receive ID of an entry (R177). -/
def State.rid (s : State) (e : Nat) : Nat := e + (s.entry e).gen % 2 ^ 19 * 2 ^ 13

/-- The engine is in use (R183). -/
def State.rxOn (s : State) : Bool := bitB s.pkg.rxctl.toNat 31

/-- Base of the receive region (R358). -/
def State.rxBase (s : State) : Nat := s.pkg.rxrgnh.toNat % 65536 * 2 ^ 32 + s.pkg.rxrgnl.toNat / 2 ^ 21 * 2 ^ 21

/-- Switch port of a source module (R183). -/
def State.portOfModule (s : State) (m : Nat) : Nat :=
  if m = s.fab.modid then (if s.fab.applied then s.fab.port else 0) else s.fab.ports.idxOf m

/-- Address of a source's reorder-table entry (R183). -/
def State.seqAddr (s : State) (src : Nat) : Nat := s.rxBase + 4 * (1024 * s.portOfModule (src / 1024) + src % 1024)

/-- An access of the engine to its region does not translate: EN clears and a record goes to die 0 (R183). -/
def State.rxFail (s : State) (va : Nat) (wr : Bool) : State :=
  let kind := match (s.walk [] va).1 with | .notPresent => 1 | _ => 2
  { s with pkg := { s.pkg with rxctl := s.pkg.rxctl &&& 0x7FFFFFFF#32 } }.pushRec
    ⟨3, .streamFault, 0, 255, 0, 255, 8, 0, 255, 255, kind + 256 * b2n wr, va, 0, s.cycle⟩

/-- The HBM place of an address of the region, whose pages are valid, writable and of TGT 0 (R183). A write to a page that migrates does
not translate: R365 names streams, landings and pulls, and no access of the engine to its region (DESIGN CHOICE, log 97). -/
def State.rxPlace (s : State) (va : Nat) (wr : Bool) : Option Nat := s.hbmPlace va wr

/-! ## Places of messages (R179, R181) -/

/-- Units of 64 bytes that a message occupies in the HBM part: a spilled header, and an eager payload. -/
def Msg.need (m : Msg) : Nat := b2n (!m.onChip) + (if m.rts then 0 else (m.len + 63) / 64)

/-- Messages that hold a place: those not yet matched, and eager ones whose landing still reads their payload. -/
def Rx.placed (r : Rx) : List Msg :=
  r.eligible ++ r.hold ++ r.cistern ++
    (r.entries.filterMap fun x => match x.2.msg with
      | some m => if x.2.fin.isNone && !m.rts then some m else none
      | none => none)

/-- The lowest n units that are not in use (which units a message takes is a DESIGN CHOICE, log 63). -/
def freeUnits (used : List Nat) (n : Nat) : List Nat :=
  ((List.range (used.length + n)).filter fun k => !used.contains k).take n

/-- A message with a place reserved, on chip or not; none when a place cannot be reserved. -/
def State.reserve (s : State) (m : Msg) : Option Msg :=
  let l := s.rx.placed
  let m : Msg := { m with onChip := decide ((l.filter (·.onChip)).length < 4096) }
  let used := l.flatMap (·.units)
  if m.need = 0 ∨ used.length + m.need ≤ s.pkg.rxctl.toNat % 1024 * 2 ^ 15 then some { m with units := freeUnits used m.need } else none

/-- Address of a unit of the cistern's HBM part (R183). -/
def State.unitAddr (s : State) (k : Nat) : Nat := 2 ^ 22 + (s.rxBase + 64 * k)

/-- Address of a spilled header, and of byte q of a payload. -/
def State.headAddr (s : State) (m : Msg) : Nat := s.unitAddr (m.units.headD 0)
def State.payAddr (s : State) (m : Msg) (q : Nat) : Nat := s.unitAddr (m.units.getD (b2n (!m.onChip) + q / 64) 0) + q % 64

/-- Bytes written at addresses of the region; an error is the address that does not translate. -/
def State.putRegion (s : State) : List (Nat × Byte) → Except Nat State
  | [] => .ok s
  | x :: l =>
    match s.rxPlace x.1 true with
    | some pa => ({ s with mem := s.mem.put (place .hbm pa) x.2 }).putRegion l
    | none => .error x.1

/-- Bytes of a payload written into their room, from byte q on. -/
def State.roomBytes (s : State) (m : Msg) (q : Nat) (l : List Byte) : Except Nat State :=
  s.putRegion (l.zipIdx.map fun x => (s.payAddr m (q + x.2), x.1))

/-- A spilled header written to its place; what its 64 bytes hold is free (R181). -/
def State.storeHead (s : State) (m : Msg) : Except Nat State :=
  if m.onChip || m.kept then .ok s
  else match s.rxPlace (s.headAddr m) true with
    | some pa => .ok (s.writeLE .hbm pa 64 (Config.headerImage m.src m.tag m.seq))
    | none => .error (s.headAddr m)

/-- A message takes its place in the cistern: its header, and the payload that has arrived (R179, R181). -/
def State.store (s : State) (m : Msg) : Except Nat (State × Msg) :=
  match s.storeHead m with
  | .error a => .error a
  | .ok s0 =>
    let room := (List.range m.payload.length).map fun i => s.payAddr m (m.stored + i)
    let s1 := s0.notePages ((if m.onChip || m.kept then [] else [s.headAddr m]) ++ room)
    match s1.roomBytes m m.stored m.payload with
    | .error a => .error a
    | .ok s2 => .ok (s2, { m with kept := true, stored := m.stored + m.payload.length, payload := [] })

/-- Payload bytes that have arrived. -/
def Msg.arrived (m : Msg) : Nat := m.stored + m.payload.length

/-- Byte q of a payload, read from its room where it stands there; an error is the address that does not translate. -/
def State.payByte (s : State) (m : Msg) (q : Nat) : Except Nat Byte :=
  if m.stored ≤ q then .ok (m.payload.getD (q - m.stored) 0)
  else match s.rxPlace (s.payAddr m q) false with
    | some pa => .ok (s.mem.byte (place .hbm pa))
    | none => .error (s.payAddr m q)

/-- n bytes of a payload from byte q on. -/
def State.payBytes (s : State) (m : Msg) (q : Nat) : Nat → Except Nat (List Byte)
  | 0 => .ok []
  | n + 1 => match s.payByte m q, s.payBytes m (q + 1) n with
    | .ok b, .ok l => .ok (b :: l)
    | .error a, _ => .error a
    | _, .error a => .error a

/-- HBM reads of a stored payload's 64-byte units that bits [p, p + b) enter first (R430). -/
def State.noteStored (s : State) (m : Msg) (p b : Nat) : State :=
  ((List.range ((p % 8 + b + 7) / 8)).map (· + p / 8)).foldl (fun s q =>
    if q % 64 = 0 ∧ p ≤ 8 * q ∧ q < m.stored then
      match s.rxPlace (s.payAddr m q) false with
      | some pa => (s.noteWalks (s.payAddr m q)).hbmRead pa 64
      | none => s
    else s) s

/-- An earlier message of the source is under refusal (R182). -/
def Rx.refused (r : Rx) (m : Msg) : Bool :=
  r.refusing.any fun x => decide (x.1 = m.src) && decide (x.2 ≠ m.seq) && decide ((m.seq + 2 ^ 32 - x.2) % 2 ^ 32 < 2 ^ 31)

/-- Held messages of a source that are next become eligible in turn (R178): the next expected SEQ after them. -/
def Rx.release : Nat → Rx → Nat → Nat → Nat → Rx × Nat
  | 0, r, _, q, _ => (r, q)
  | n + 1, r, src, q, cyc =>
    match r.hold.find? (fun m => decide (m.src = src) && decide (m.seq = q)) with
    | some m =>
      let r := { r with hold := r.hold.filter (fun x => decide (x ≠ m)), eligible := r.eligible ++ [{ m with cycle := cyc }] }
      Rx.release n r src ((q + 1) % 2 ^ 32) cyc
    | none => (r, q)

/-- A message is refused and counted; later ones of its source are refused until it is accepted (R182). -/
def State.refuseMsg (s : State) (m : Msg) : State :=
  { s with
    pkg := { s.pkg with mrefuse := s.pkg.mrefuse + 1 }
    rx := { s.rx with refusing := if s.rx.refusing.contains (m.src, m.seq) then s.rx.refusing else s.rx.refusing ++ [(m.src, m.seq)] } }

/-- A message is accepted, its place reserved: its refusal, if there was one, is over. -/
def Rx.accepted (r : Rx) (m : Msg) : Rx := { r with refusing := r.refusing.filter fun x => decide (x ≠ (m.src, m.seq)) }

/-- A message ahead of its turn is held. -/
def Rx.keep (r : Rx) (m : Msg) : Rx := { r with hold := r.hold ++ [m] }

/-- A message whose turn it is becomes eligible, and the held ones that follow it; also the next SEQ expected. -/
def Rx.takeNext (r : Rx) (m : Msg) (cyc : Nat) : Rx × Nat :=
  Rx.release (r.hold.length + 1) { r with eligible := r.eligible ++ [{ m with cycle := cyc }] } m.src ((m.seq + 1) % 2 ^ 32) cyc

/-- The cycle in which a message of now becomes eligible: this one, unless the matching unit has performed an operation in it, which a
message of this cycle would have preceded (R184, R197). -/
def State.eligibleCycle (s : State) : Nat := if s.rx.lastMatch.any (fun x => decide (x.1 = s.cycle)) then s.cycle + 1 else s.cycle

/-- A message with a place, the expected SEQ of its source standing at an HBM address (R178, R179). -/
def State.placeMsg (s : State) (m : Msg) (pa : Nat) : Bool × State :=
  let r := s.rx.accepted m
  if m.seq ≠ s.readLE .hbm pa 4 then
    if 2048 ≤ s.rx.hold.length then (false, s.refuseMsg m)
    else match s.store m with
      | .error a => (false, (s.rxFail a true).refuseMsg m)
      | .ok x => (true, { x.1 with rx := r.keep x.2 })
  else if (s.rxPlace (s.seqAddr m.src) true).isNone then (false, (s.rxFail (s.seqAddr m.src) true).refuseMsg m)
  else (true, { s with rx := (r.takeNext m s.eligibleCycle).1 }.writeLE .hbm pa 4 (r.takeNext m s.eligibleCycle).2)

/-- The engine looks up the SEQ that it expects of an arriving message's source, and takes or refuses the message. -/
def State.takeSeq (s : State) (m : Msg) : Bool × State :=
  match s.rxPlace (s.seqAddr m.src) false with
  | none => (false, (s.rxFail (s.seqAddr m.src) false).refuseMsg m)
  | some pa => match (s.hbmRead pa 4).reserve m with
    | none => (false, (s.hbmRead pa 4).refuseMsg m)
    | some m => (s.hbmRead pa 4).placeMsg m pa

/-- An arriving message is refused (false), held ahead of sequence, or becomes eligible (R178, R179, R182). -/
def State.takeIn (s : State) (m : Msg) : Bool × State :=
  if !s.rxOn || s.rx.refused m then (false, s.refuseMsg m) else (s.noteWalks (s.seqAddr m.src)).takeSeq m

/-- MESSAGE_ARRIVAL: message i of those on their way from this module's own tiles; a refused one is sent again (R182). -/
def State.arrival (s : State) (i : Nat) : State :=
  match s.rx.arrivals[i]? with
  | none => s
  | some m =>
    let x := s.takeIn m
    if x.1 then { x.2 with rx := { x.2.rx with arrivals := x.2.rx.arrivals.eraseIdx i } } else x.2

def execMessageArrival (i : Nat) (s : State) : Host.Outcome State Fault Refusal := .next (s.arrival i)

/-! ## Completion (R192, R234) -/

/-- A post descriptor as the engine reads it (R175). -/
structure Descr where
  pat : Pattern
  /-- src and srcmask leave bits [31:26] zero. -/
  srcOk : Bool
  /-- tkind and targ are valid. -/
  targetOk : Bool
  /-- The status address is valid. -/
  statOk : Bool
  deriving DecidableEq, Repr

/-- An address in the own bin or the field's window (R175). -/
def State.ownPlace (s : State) (core a n : Nat) : Bool := (s.chk core a n).isNone && decide (a < 0x20000000)

/-- The descriptor at an address. A pattern's src and srcmask are 26 bits: a MALFORMED record shows the low 26 bits of a src that has more
(R192; DESIGN CHOICE, log 98). -/
def State.descr (s : State) (core a : Nat) : Descr :=
  let v := s.readLocal core a 32
  let tk := bits v 136 8
  let targ := bits v 144 16
  { pat := ⟨bits v 0 26, bits v 32 26, bits v 64 32, bits v 96 32, bits v 128 8, tk, targ, bits v 160 32, bits v 192 64⟩
    srcOk := decide (bits v 26 6 = 0) && decide (bits v 58 6 = 0)
    targetOk := decide (tk ≤ 2) && decide (targ < 32) && (decide (tk ≠ 0) || decide (targ = 0))
    statOk := decide (bits v 160 32 % 32 = 0) && s.ownPlace core (bits v 160 32) 32 }

/-- A status record (R192): 32 bytes as one value. -/
def statusRecord (rid status ctx : Nat) (rts : Bool) (src tag sent got : Nat) : Nat :=
  rid % 2 ^ 32 + status * 2 ^ 32 + ctx % 256 * 2 ^ 40 + b2n rts * 2 ^ 48 + src % 2 ^ 32 * 2 ^ 64 + tag % 2 ^ 32 * 2 ^ 96 +
    sent % 2 ^ 64 * 2 ^ 128 + got % 2 ^ 64 * 2 ^ 192

/-- Fire a completion target of a core: a counter decrement or a token (R192, R234). -/
def State.fireTarget (s : State) (core kind targ word : Nat) : State :=
  match kind with
  | 1 => s.decCounter core targ
  | 2 => s.send none core targ (BitVec.ofNat 64 word) false
  | _ => s

/-- Write a status record and fire the target. -/
def State.report (s : State) (core : Nat) (p : Pattern) (rid status : Nat) (m : Option Msg) (got : Nat) : State :=
  let v := match m with
    | some m => statusRecord rid status m.ctx m.rts m.src m.tag m.len got
    | none => statusRecord rid status p.ctx false p.src p.tag 0 got
  ((s.watchLocal core 8 none p.stat 32 false true).writeLocal core p.stat 32 v).fireTarget core p.tkind p.targ (rid % 2 ^ 32 + status * 2 ^ 32)

/-- A match operation has completed (R427, R430). -/
def State.matchDone (s : State) : State := { s with pkg := { s.pkg with mmatch := s.pkg.mmatch + 1 } }.sampleFree 17

/-- The key under which the pump of an evicted field keeps an MSEND (notes/assumptions/31.md). -/
def parkKey (f cm : Nat) : Nat := 2 ^ 24 * (1 + f) + cm

/-- The kept MSEND of an evicted field with a command key, if one satisfies a condition. -/
def State.keptSend (s : State) (cm : Nat) (ok : Cmd → Bool) : Option Nat :=
  (s.cmds.find? fun x => decide (2 ^ 24 ≤ x.1) && decide (x.1 % 2 ^ 24 = cm) && ok x.2).map (·.1)

/-- The sender of a request-to-send learns that its message has been read, discarded or ended (R234). -/
def State.releaseSender (s : State) (m : Msg) : State :=
  if !m.rts then s
  else match m.peer with
    | none =>
      let c := s.cmd m.cmd
      match s.keptSend m.cmd fun c => decide (c.mseq = m.seq) with
      | some k => s.modCmd k fun c => { c with mdone := true }
      | none => if decide (c.op = 0x31) && c.live && decide (c.mseq = m.seq) then s.modCmd m.cmd fun c => { c with mdone := true } else s
    | some p => if (s.fab.peer p).unreachable then s else s.toPeer p 4 fun n => .pullDone n m.cmd

/-! ## Landings (R188-R191) -/

/-- Bytes delivered after k elements of an entry's landing (R192). -/
def Entry.gotBytes (en : Entry) : Nat :=
  let w := plainWalk en.h
  if en.got = 0 then 0 else (w.payBit en.pat.eoff (en.pat.eoff + en.got - 1) + w.b + 7) / 8

/-- Bytes that land: min(LEN, C). -/
def Entry.landBytes (en : Entry) (m : Msg) : Nat := min m.len ((plainWalk en.h).capacity en.pat.eoff)

/-- The landing is over: every byte has landed. -/
def Entry.landed (en : Entry) (m : Msg) : Bool :=
  let w := plainWalk en.h
  let j := en.pat.eoff + en.got
  decide (w.total ≤ j) || decide (8 * en.landBytes m ≤ w.payBit en.pat.eoff j)

/-- A stream record of a landing (R190, R368). -/
def State.landRec (s : State) (e kind : Nat) (va : Nat) (count : Option Nat := none) : State :=
  let en := s.entry e
  let k := coreOf en.task
  let fld := match en.fld with | some f => f % 256 | none => 255
  let ver := match en.fld with | some f => (s.field f).ver | none => 0
  s.pushRec ⟨3, .streamFault, dieOf k, fld, ver, tileOf k, 8, 0, 255, 255, kind + 256, va, count.getD en.got, s.cycle⟩

/-- The posting field runs, so that landings into its bins and window, and completions, go on (R191). -/
def State.entryRuns (s : State) (en : Entry) : Bool :=
  match en.fld with
  | some f => (s.field f).runs
  | none => s.pumpRuns (coreOf en.task)

/-- The elements from one on are not delivered: those before the first that faulted are (R190, R192). -/
def Entry.cut (en : Entry) (l : List Nat) : Entry := { en with got := l.foldl (fun g j => min g (j - en.pat.eoff)) en.got }

/-- A landing stops with FAULT: every write that a peer had no page for is given up. What stays delivered is the bytes before the first
faulting element: where it stands, one of `l`, or one whose write was to be made again (R190). -/
def State.landStop (s : State) (e : Nat) (l : List Nat) : State :=
  (s.modEntry e fun en =>
    { en.cut (l ++ (s.cmd (landKey e)).redo.map (·.elem)) with fin := some 4, paused := false }).modCmd (landKey e) fun c =>
      { c.beatOver with redo := [], walk := none }

/-- A landing ends with FAULT: the rest of the message is discarded (R190). -/
def State.landFault (s : State) (e : Nat) (l : List Nat := []) : State :=
  let s1 := s.landStop e l
  match (s.entry e).msg with
  | some m => if (s.entry e).fin.isNone then s1.releaseSender m else s1
  | none => s1

/-- The landing pauses at a page that is not present, with a record (R190). -/
def State.landPause (s : State) (e va : Nat) (count : Option Nat := none) : State :=
  ((s.modEntry e fun en => { en with paused := true }).modCmd (landKey e) fun c => { c.beatOver with walk := none }).landRec e 1 va count

/-- A hold-up of a landing at element j of its destination's walk, at address va. -/
def State.landHold (s : State) (e : Nat) (h : Hitch) (j va : Nat) : State × Bool :=
  let core := coreOf (s.entry e).task
  match h with
  | .walk a =>
    match s.walkNow core (landKey e) ⟨a, true, j, va⟩ with
    | (s0, none) => (s0, false)
    | (_, some (.ok s1)) => (s1, true)
    | (s0, some (.error 1)) => (s0.landPause e va, false)
    | (s0, some (.error k)) => ((s0.landRec e k va).landFault e, false)
  | .fault 1 => (s.landPause e va, false)
  | .fault 7 => (s.landFault e, false)
  | .fault k => ((s.landRec e k va).landFault e, false)
  | .line m a dva => (s.askLine (landKey e) m a j va (s.leafOf core (s.cmd (landKey e)) dva), false)
  | .wait => (s, false)

/-- More of a message's payload arrives: where the message has taken its place, it goes into its room (R179). -/
def State.moreOf (s : State) (m : Msg) (l : List Byte) : State × Msg :=
  let m : Msg := { m with payload := m.payload ++ l }
  if m.kept && !m.rts then
    match s.roomBytes m m.stored m.payload with
    | .ok s1 => (s1, { m with stored := m.stored + m.payload.length, payload := [] })
    | .error a => (s.rxFail a true, m)
  else (s, m)

/-- The payload of a landing grows. -/
def State.grow (s : State) (e : Nat) (l : List Byte) : State :=
  match (s.entry e).msg with
  | some m => (s.moreOf m l).1.modEntry e fun en => { en with msg := some (s.moreOf m l).2 }
  | none => s

/-- More of a request-to-send's payload is pulled from its sender in this module, or asked of its sender elsewhere (R189, R234). -/
def State.pullMore (s : State) (e : Nat) (m : Msg) (n : Nat) : State × Bool :=
  match m.peer with
  | some p =>
    let k := landKey e
    if !s.reachable p then (s.landFault e, false)
    else if (s.cmd k).sent || !s.canSend p then (s, false)
    else ((s.toPeer p 4 fun psn => .pull psn m.cmd e 0 n).modCmd k fun c => { c with sent := true }, false)
  | none =>
    let cm := m.cmd
    let c := s.cmd cm
    let core := coreOf (taskOfCmd cm)
    if (s.keptSend cm fun c => decide (c.mseq = m.seq)).isSome then (s, false)
    else if !(decide (c.op = 0x31) && c.live && decide (c.mseq = m.seq)) then (s.landFault e, false)
    else if c.st = .paused ∨ !s.pumpRuns core ∨ (hSpace c.h ≠ 4 ∧ s.barred cm) then (s, false)
    else match s.readPayload cm m.arrived with
      | .got l =>
        let l := l.take (n - m.arrived)
        let s1 := (s.noteRead cm m.arrived).grow e l
        let pos := m.arrived + l.length
        ((s1.modCmd cm fun c => { c.beatOver with pos := pos, count := pos, mdone := decide (n ≤ pos) }).modTile (coreOf (s.entry e).task)
          fun t => { t with tbeats := t.tbeats + 1 }, true)
      | .held (.walk a) j va _ =>
        match s.walkNow core cm ⟨a, false, j, va⟩ with
        | (s0, none) => (s0, false)
        | (_, some (.ok s1)) => (s1, true)
        | (s0, some (.error 1)) => ((s0.hold cm (.fault 1) j va false).modCmd cm fun c => { c with count := c.pos }, false)
        | (s0, some (.error k)) => ((s0.hold cm (.fault k) j va false).landFault e, false)
      | .held (.fault 1) j va _ => ((s.hold cm (.fault 1) j va false).modCmd cm fun c => { c with count := c.pos }, false)
      | .held (.fault k) j va _ => ((s.hold cm (.fault k) j va false).landFault e, false)
      | .held h j va _ => (s.hold cm h j va false, false)

/-- One step of the landing into an entry: an element lands, or its bytes are pulled, or it is held up. The flag says whether the
landing can go on. -/
def State.landOne (s : State) (e : Nat) : State × Bool :=
  let en := s.entry e
  match en.msg with
  | none => (s, false)
  | some m =>
    let w := plainWalk en.h
    let core := coreOf en.task
    let n := en.landBytes m
    let j := en.pat.eoff + en.got
    let p := w.payBit en.pat.eoff j
    if !en.delivering || en.paused then (s, false)
    else match (s.cmd (landKey e)).redo with
    | r :: _ =>
      match s.resendWrite core (landKey e) r with
      | .ok s1 => (s1, true)
      | .error h => s.landHold e h r.elem r.va
    | [] =>
    if en.fin.isSome then (s, false)
    else if en.landed m then
      let s1 := s.modEntry e fun en => { en with fin := some (if n < m.len then 1 else 0) }
      (if m.arrived < m.len then s1.releaseSender m else s1, false)
    else if hSpace en.h ≠ 4 ∧ !s.entryRuns en then (s, false)
    else if m.arrived < min n ((p + w.b + 7) / 8) then
      (if m.rts then s.pullMore e m n else (s, false))
    else match s.payBytes m (p / 8) (min n ((p + w.b + 7) / 8) - p / 8) with
    | .error a => ((s.rxFail a false).landFault e, false)
    | .ok l =>
      let puts := w.puts j (payValue l n p w.b)
      match s.planPuts core (s.cmd (landKey e)) (hSpace en.h) puts with
      | .held h j va _ => s.landHold e h j va
      | .got plan =>
        let a := (w.addr j).1
        let s0 := (s.noteStored m p w.b).noteBeyond core (s.cmd (landKey e)) (dvaLines (hSpace en.h) (puts.map fun p => (p.addr, p.n)))
        let s1 := plan.foldl (fun s x => s.applyPut core (landKey e) (hSpace en.h) x) s0
        let s2 := if hSpace en.h = 4 then s1.watch core 8 none 2 0 a.toNat ((w.b + 7) / 8) false true
          else s1.watchLocal core 8 none a.toNat ((w.b + 7) / 8) false true
        ((s2.modEntry e fun en => { en with got := en.got + 1 }).modCmd (landKey e) Cmd.beatOver, true)

/-- Land what can land now. -/
def State.landLoop : Nat → Nat → State → State
  | 0, _, s => s
  | n + 1, e, s =>
    let r := s.landOne e
    if r.2 then State.landLoop n e r.1 else r.1

/-- Steps that a landing may take: each element twice, each payload byte, and their walks. -/
def Entry.landFuel (en : Entry) : Nat :=
  match en.msg with
  | some m => 4 * en.landBytes m * 2 + 4 * (plainWalk en.h).total + 8
  | none => 0

/-- The landing into an entry goes on as far as it can. -/
def State.landAll (s : State) (e : Nat) : State := State.landLoop (s.entry e).landFuel e s

/-- A message is delivered into an entry (R188). -/
def State.deliverMsg (s : State) (m : Msg) (e : Nat) : State :=
  ((s.modEntry e fun en => { en with delivering := true, msg := some m, got := 0, paused := false, fin := none }).modCmd (landKey e)
    fun _ => { st := .running }).landAll e

/-! ## Matching (R176, R184-R186) -/

/-- The message fits the pattern posted by a tile. -/
def fits (m : Msg) (p : Pattern) (tile : Nat) : Bool :=
  decide ((m.src ^^^ p.src) &&& (2 ^ 26 - 1 - p.srcmask) = 0) && decide ((m.tag ^^^ p.tag) &&& (2 ^ 32 - 1 - p.tagmask) = 0) &&
  decide (m.ctx = p.ctx) && (decide (m.dtile = 0x3FF) || decide (m.dtile = tile))

/-- The oldest POSTED entry that a message fits. -/
def Rx.oldestFit (r : Rx) (m : Msg) : Option Nat :=
  let l := r.entries.filter fun x => x.2.busy && !x.2.delivering && fits m x.2.pat (moduleTile (coreOf x.2.task))
  match l with
  | [] => none
  | x :: l => some (l.foldl (fun a b => if b.2.order < a.2.order then b else a) x).1

/-- A message precedes another in the match order: it became eligible in an earlier cycle, or in the same one with a lower source
word (R184). Messages of one source stand in SEQ order. -/
def Msg.before (a b : Msg) : Bool := decide (a.cycle < b.cycle) || (decide (a.cycle = b.cycle) && decide (a.src < b.src))

/-- Eligible message i, if it is the next in the match order. -/
def State.nextEligible (s : State) (i : Nat) : Option Msg :=
  match s.rx.eligible[i]? with
  | none => none
  | some m =>
    if decide (m.cycle ≤ s.cycle) && !s.rx.eligible.any (·.before m) && !(s.rx.eligible.take i).any (fun x => decide (x.src = m.src))
    then some m else none

/-- A message that no post fits enters the cistern. Should its place not translate, the engine keeps what it has of it (DESIGN CHOICE,
log 63). -/
def State.toCistern (s : State) (m : Msg) : State :=
  match if m.kept then .ok (s, m) else s.store m with
  | .ok x => { x.1 with rx := { x.1.rx with cistern := x.1.rx.cistern ++ [x.2] } }
  | .error a => let s1 := s.rxFail a true; { s1 with rx := { s1.rx with cistern := s1.rx.cistern ++ [m] } }

/-- MATCH_ELIGIBLE_MESSAGE: eligible message i, when the match order comes to it (R184, R185). -/
def State.matchMessage (s : State) (i : Nat) : State :=
  match s.nextEligible i with
  | none => s
  | some m =>
    let s1 := { s with rx := { s.rx with eligible := s.rx.eligible.eraseIdx i, lastMatch := some (s.cycle, 0) } }.matchDone
    match s1.rx.oldestFit m with
    | some e => s1.deliverMsg m e
    | none => s1.toCistern m

def execMatchEligibleMessage (i : Nat) (s : State) : Host.Outcome State Fault Refusal := .next (s.matchMessage i)

/-- Rank of a task's operation among those that reach the unit in one cycle: cancels, tests, probes, posts, each by (tile, context)
(R184). Eligible messages have rank 0. -/
def RxReq.rank (o : RxReq) : Nat :=
  (match o.op with
    | .cancel _ => 1
    | .test _ _ => 2
    | .probe _ => 3
    | .post _ _ => 4) * 2 ^ 16 + moduleTile (coreOf o.task) * 8 + o.task % 8

/-- The operation of request i, which reaches the unit now, if nothing of its task comes before it (R184, R193), no message that is
eligible waits, and no operation of this cycle should have come after it. -/
def State.rxTurn (s : State) (i : Nat) : Option RxReq :=
  match s.rx.ops[i]? with
  | none => none
  | some o =>
    if decide (o.behind ≠ 0) || (s.rx.ops.take i).any (fun x => decide (x.task = o.task)) ||
        s.rx.eligible.any (fun m => decide (m.cycle ≤ s.cycle)) ||
        s.rx.lastMatch.any (fun x => decide (x.1 = s.cycle) && decide (o.rank < x.2)) then none
    else some o

/-- Request i leaves. -/
def State.takeReq (s : State) (i : Nat) : State :=
  { s with rx := { s.rx with
      ops := s.rx.ops.eraseIdx i
      lastMatch := some (s.cycle, ((s.rx.ops[i]?).map RxReq.rank).getD 0) } }.matchDone

/-- Spilled headers that a search of the cistern reads: 64 at a time in cistern order, up to the first message that fits (R187). -/
def Rx.searched (r : Rx) (p : Pattern) (tile : Nat) : List Msg :=
  let near := (r.cistern.takeWhile fun m => !fits m p tile).filter fun m => !m.onChip
  let k := near.length + b2n ((r.cistern.find? fun m => fits m p tile).any fun m => !m.onChip)
  (r.cistern.filter fun m => !m.onChip).take ((k + 63) / 64 * 64)

/-- Headers read from the HBM part at some addresses, up to one that does not translate. -/
def State.readHeads (s : State) : List Nat → State
  | [] => s
  | a :: l => match s.rxPlace a false with
    | some pa => ((s.noteWalks a).hbmRead pa 64).readHeads l
    | none => (s.noteWalks a).rxFail a false

/-- The state after a search of the cistern: EN is clear where an HBM header could not be read (R183, R187). -/
def State.search (s : State) (p : Pattern) (tile : Nat) : State := if s.rxOn then s.readHeads ((s.rx.searched p tile).map s.headAddr) else s

/-- The entry that a post takes: the lowest free one, while the engine is in use (R183, R186). -/
def State.freePost (s : State) : Option Nat := if s.rxOn then (List.range 8192).find? (fun e => !(s.entry e).busy) else none

/-- MATCH_POST (R186). A search of its own that meets an address which does not translate clears EN, and the post completes FULL with no entry
taken, as one does while EN is 0 (DESIGN CHOICE, log 97). The PENDING record has the pattern's ctx, as no message applies yet (R192;
DESIGN CHOICE, log 98). -/
def State.matchPost (s : State) (i : Nat) : State :=
  match s.rxTurn i with
  | some ⟨tk, _, .post a h⟩ =>
    let core := coreOf tk
    let s1 := (s.takeReq i).watchLocal core 8 none a 32 true false
    let d := s1.descr core a
    if !d.statOk then s1
    else if !d.srcOk || !d.targetOk then
      s1.report core (if d.targetOk then d.pat else { d.pat with tkind := 0 }) 0xFFFFFFFF 5 none 0
    else
      let s1 := if (s1.freePost).isSome then s1.search d.pat (moduleTile core) else s1
      match s1.freePost with
      | none => s1.report core d.pat 0xFFFFFFFF 3 none 0
      | some e =>
        let s2 := s1.modEntry e fun en =>
          { busy := true, gen := (en.gen + 1) % 2 ^ 19, task := tk, fld := s1.fieldOf core, order := s1.rx.nextOrder, pat := d.pat, h := h }
        let s3 := { s2 with rx := { s2.rx with nextOrder := s2.rx.nextOrder + 1 } }
        let s4 := (s3.watchLocal core 8 none d.pat.stat 32 false true).writeLocal core d.pat.stat 32 (statusRecord (s3.rid e) 0xFF d.pat.ctx false d.pat.src d.pat.tag 0 0)
        match s4.rx.cistern.find? (fun m => fits m d.pat (moduleTile core)) with
        | some m => { s4 with rx := { s4.rx with cistern := s4.rx.cistern.erase m } }.deliverMsg m e
        | none => s4
  | _ => s

def execMatchPost (i : Nat) (s : State) : Host.Outcome State Fault Refusal := .next (s.matchPost i)

/-- MATCH_PROBE (R183, R194). A search that meets an address which does not translate clears EN, and the probe completes PROBE_MISS (DESIGN
CHOICE, log 97). -/
def State.matchProbe (s : State) (i : Nat) : State :=
  match s.rxTurn i with
  | some ⟨tk, _, .probe a⟩ =>
    let core := coreOf tk
    let s1 := (s.takeReq i).watchLocal core 8 none a 32 true false
    let d := s1.descr core a
    if !d.statOk then s1
    else if !d.srcOk || !d.targetOk then
      s1.report core (if d.targetOk then d.pat else { d.pat with tkind := 0 }) 0xFFFFFFFF 5 none 0
    else
      let s1 := s1.search d.pat (moduleTile core)
      match if s1.rxOn then s1.rx.cistern.find? (fun m => fits m d.pat (moduleTile core)) else none with
      | some m => s1.report core d.pat 0xFFFFFFFF 0x10 (some m) 0
      | none => s1.report core d.pat 0xFFFFFFFF 0x11 none 0
  | _ => s

def execMatchProbe (i : Nat) (s : State) : Host.Outcome State Fault Refusal := .next (s.matchProbe i)

/-- The entry that a receive ID names, if its generation matches. -/
def State.ridEntry (s : State) (r : Nat) : Option Nat :=
  if r ≠ 0xFFFFFFFF ∧ r < 2 ^ 32 ∧ (s.entry (r % 8192)).busy ∧ s.rid (r % 8192) = r then some (r % 8192) else none

/-- Free an entry; its generation stays. -/
def State.freeEntry (s : State) (e : Nat) : State :=
  (s.modEntry e fun en => { gen := en.gen }).modCmd (landKey e) fun _ => {}

/-- MATCH_CANCEL (R195). -/
def State.matchCancel (s : State) (i : Nat) : State :=
  match s.rxTurn i with
  | some ⟨_, _, .cancel r⟩ =>
    let s1 := s.takeReq i
    match s1.ridEntry r with
    | some e =>
      let en := s1.entry e
      if en.delivering then s1 else (s1.report (coreOf en.task) en.pat (s1.rid e) 2 none 0).freeEntry e
    | none => s1
  | _ => s

def execMatchCancel (i : Nat) (s : State) : Host.Outcome State Fault Refusal := .next (s.matchCancel i)

/-- MATCH_TEST (R196). -/
def State.matchTest (s : State) (i : Nat) : State :=
  match s.rxTurn i with
  | some ⟨tk, _, .test r ret⟩ =>
    let s1 := s.takeReq i
    let v := match s1.ridEntry r with
      | some e => if (s1.entry e).delivering then 2 else 1
      | none => 0
    s1.modTask tk fun t => t.fillRet ret v false
  | _ => s

def execMatchTest (i : Nat) (s : State) : Host.Outcome State Fault Refusal := .next (s.matchTest i)

/-- The request-to-send that an entry has pulled from this module has accesses to release that have not performed: the receive completes after
them (R306). -/
def State.awaitsSender (s : State) (en : Entry) : Bool :=
  match en.msg with
  | some m => let c := s.cmd m.cmd; m.rts && m.peer.isNone && decide (c.op = 0x31) && c.live && decide (c.mseq = m.seq) && decide (0 < c.rel)
  | none => false

/-- RECEIVE_COMPLETE: the landing goes on if it can; once it has ended and every write to a peer is answered, the entry completes
(R190-R192). The completion of a landing that ends while its field is FROZEN, as one into device virtual addresses can (R191), waits until
the field runs: its status record and its target are the field's (DESIGN CHOICE, log 90). -/
def State.receiveComplete (s : State) (e : Nat) : State :=
  let s1 := s.landAll e
  let en := s1.entry e
  match en.fin with
  | some st =>
    if !(s1.cmd (landKey e)).owed.isEmpty || !(s1.cmd (landKey e)).redo.isEmpty || !s1.entryRuns en || s1.awaitsSender en then s1
    else (s1.report (coreOf en.task) en.pat (s1.rid e) st en.msg en.gotBytes).freeEntry e
  | none => s1

def execReceiveComplete (e : Nat) (s : State) : Host.Outcome State Fault Refusal := .next (s.receiveComplete e)

/-- Posts of a field that is unloaded are freed without completion; messages being delivered are discarded (R191). -/
def State.freePosts (s : State) (f : Nat) : State :=
  let mine := s.rx.entries.filter fun x => x.2.busy && decide (x.2.fld = some f)
  let s1 := mine.foldl (fun s x => (match x.2.msg with | some m => s.releaseSender m | none => s).freeEntry x.1) s
  { s1 with rx := { s1.rx with ops := s1.rx.ops.filter fun o => decide (s.fieldOf (coreOf o.task) ≠ some f) } }

/-! ## Issue (R232) -/

/-- Check of a descriptor address (R175). -/
def descrCause (a : Nat) (s : State) : Option (Cause × Nat) :=
  let info := 32 * 2 ^ 32 + a
  firstCause [when_ (decide (a % 32 ≠ 0)) .accessBound info, s.chkCause a 32, when_ (decide (0x20000000 ≤ a)) .accessProt info]

def mpostCause (o : OpHS) (s : State) : Option (Cause × Nat) :=
  firstCause [s.chkHandle o.h, when_ (decide (hLayout (s.hnd o.h) ≠ 0)) .handleBad o.h, descrCause (s.rd o.s 32) s]

/-- A task's operation is on its way to the matching unit. -/
def State.rxSend (s : State) (op : RxOp) : State :=
  { s with rx := { s.rx with ops := s.rx.ops ++ [⟨s.me, (s.task s.me).port.length, op⟩] } }

def execMpost (o : OpHS) (s : State) : Host.Outcome State Fault Refusal :=
  slotOr s (s.acts o.lc Pred.always) (mpostCause o s) fun s => s.rxSend (.post (s.rd o.s 32) (s.hnd o.h))

def execMprobe (o : OpS) (s : State) : Host.Outcome State Fault Refusal :=
  slotOr s (s.acts o.lc Pred.always) (descrCause (s.rd o.s 32) s) fun s => s.rxSend (.probe (s.rd o.s 32))

def execMcancel (o : OpS) (s : State) : Host.Outcome State Fault Refusal :=
  slot s (s.acts o.lc Pred.always) fun s => s.rxSend (.cancel (s.rd o.s 32))

def execMtest (o : OpS) (s : State) : Host.Outcome State Fault Refusal :=
  slot s (s.acts o.lc Pred.always) fun s =>
    (s.modTask s.me fun t => t.addRet (some (o.s, 8)) none none).rxSend (.test (s.rd o.s 32) (s.task s.me).nextRet)

/-! ## MSEND (R178, R233, R234) -/

/-- Fields of a send descriptor. -/
def sdTag (d : List Byte) : Nat := wordOfBytes (d.take 4)
def sdMod (d : List Byte) : Nat := wordOfBytes ((d.drop 4).take 2)
def sdTile (d : List Byte) : Nat := wordOfBytes ((d.drop 6).take 2)
def sdCtx (d : List Byte) : Nat := wordOfBytes ((d.drop 8).take 1)
def sdKind (d : List Byte) : Nat := wordOfBytes ((d.drop 9).take 1)
def sdTarg (d : List Byte) : Nat := wordOfBytes ((d.drop 10).take 2)

/-- A valid descriptor. -/
def sdOk (d : List Byte) : Bool :=
  decide (sdTile d < 1024) && decide (sdKind d ≤ 2) && decide (sdTarg d < 32) && (decide (sdKind d ≠ 0) || decide (sdTarg d = 0))

/-- The message goes through this module's own engine (R173). -/
def State.ownModule (s : State) (m : Nat) : Bool := decide (m = s.fab.modid)

/-- An MSEND's destination is unreachable before sending (R234). -/
def State.sendUnreach (s : State) (cm m : Nat) : State := (s.failCmd cm 7).raiseAsync (taskOfCmd cm) .rmtUnreach (cmdInfo m cm)

/-- The pump reads the descriptor and assigns SEQ when the command starts (R233). -/
def State.startSend (s : State) (cm : Nat) : State :=
  let c := s.cmd cm
  let tk := taskOfCmd cm
  let core := coreOf tk
  let d := s.read (localPlace core c.sop.toNat).1 (localPlace core c.sop.toNat).2 16
  let s := s.watchLocal core (ctxOf tk) (some tk) c.sop.toNat 16 true false
  if !sdOk d then (s.failCmd cm 6).streamRec cm 6 false c.sop.toNat 0
  else if !s.ownModule (sdMod d) && !s.reachable (sdMod d) then s.sendUnreach cm (sdMod d)
  else
    let key := sdMod d * 1024 + moduleTile core
    let q := Sparse.get 0 s.rx.sendSeq key
    { s with rx := { s.rx with sendSeq := Sparse.set 0 s.rx.sendSeq key ((q + 1) % 2 ^ 32) } }.modCmd cm fun c =>
      { c with mdesc := d, mseq := q, mkind := if 16384 < c.units then 1 else 0 }

/-- Parts of an eager payload as packets carry them. -/
def chunks : Nat → Nat → List Byte → List (Nat × List Byte)
  | 0, _, _ => []
  | n + 1, off, l => (off, l.take 128) :: (if l.length ≤ 128 then [] else chunks n (off + 128) (l.drop 128))

/-- The message leaves: to this module's engine, or as packets (R173, R393). An eager one waits for the accesses that the MSEND releases; after a
request-to-send the receive's completion does (R306). -/
def State.sendOut (s : State) (cm : Nat) : State :=
  let c := s.cmd cm
  let d := c.mdesc
  let src := s.fab.modid * 1024 + moduleTile (coreOf (taskOfCmd cm))
  if c.mkind = 0 ∧ 0 < c.rel then s
  else if s.ownModule (sdMod d) then
    let m : Msg := ⟨src, sdTile d, sdCtx d, sdTag d, c.mseq, c.units, decide (c.mkind = 1), c.buf, cm, none, false, [], false, 0, 0⟩
    { s with rx := { s.rx with arrivals := s.rx.arrivals ++ [m] } }.modCmd cm fun c => { c with sent := true, buf := [] }
  else if !s.reachable (sdMod d) then s.sendUnreach cm (sdMod d)
  else if !s.canSend (sdMod d) then s
  else
    ((chunks 129 0 c.buf).foldl (fun s x => s.toPeer (sdMod d) 3 fun n =>
      .message n src (sdTile d) (sdCtx d) (sdTag d) c.mseq c.units c.mkind cm x.1 x.2) s).modCmd cm fun c => { c with sent := true, buf := [] }

/-- An MSEND's read is held up; its COUNT shows bytes (R203). -/
def State.sendHold (s : State) (cm : Nat) (h : Hitch) (j va : Nat) : State :=
  (s.hold cm h j va false).modCmd cm fun c => { c with count := c.pos }

/-- A beat of an MSEND: part of an eager payload is read, the message leaves, or part of a pull's bytes go to the puller. The last of these go
once the accesses that the MSEND releases have performed: the receive completes after them (R306). -/
def State.beatSend (s : State) (cm : Nat) : State :=
  let c := s.cmd cm
  if !c.sent then
    if c.mkind = 0 ∧ c.pos < c.units then
      match s.readPayload cm c.pos with
      | .held h j va _ => s.sendHold cm h j va
      | .got l => ((s.noteRead cm c.pos).modCmd cm fun c =>
          { c.beatOver with buf := c.buf ++ l, pos := c.pos + l.length, count := c.pos + l.length }).modTile (coreOf (taskOfCmd cm))
            fun t => { t with tbeats := t.tbeats + 1 }
    else s.sendOut cm
  else match c.pull with
    | none => s
    | some (p, e, n) =>
      if n ≤ c.pos then
        if c.buf.isEmpty then s.modCmd cm fun c => { c with mdone := true, pull := none }
        else if 0 < c.rel ∨ !s.canSend p then s
        else (s.toPeer p 4 fun psn => .pullData psn e (c.pos - c.buf.length) true c.buf).modCmd cm fun c => { c with mdone := true, buf := [] }
      else if !s.canSend p then s
      else match s.readPayload cm c.pos with
        | .held h j va _ =>
          let s1 := s.sendHold cm h j va
          if (s1.cmd cm).ended then s1.toPeer p 4 fun psn => .pullData psn e c.pos false [] else s1
        | .got l =>
          let l := l.take (n - c.pos)
          let last := decide (n ≤ c.pos + l.length)
          let s1 := s.noteRead cm c.pos
          ((if last && decide (0 < c.rel) then s1.modCmd cm fun c => { c with buf := l }
            else (s1.toPeer p 4 fun psn => .pullData psn e c.pos true l).modCmd cm fun c => { c with mdone := last }).modCmd cm fun c =>
            { c.beatOver with pos := c.pos + l.length, count := c.pos + l.length }).modTile (coreOf (taskOfCmd cm)) fun t => { t with tbeats := t.tbeats + 1 }

/-- MSEND_COMPLETE: an eager message has left, or a request-to-send has been read or discarded (R234). -/
def State.sendComplete (s : State) (cm : Nat) : State :=
  let c := s.cmd cm
  if decide (c.op = 0x31) && c.live && c.sent && (decide (c.mkind = 0) || c.mdone && decide (c.rel = 0)) then
    (s.doneCmd cm).fireTarget (coreOf (taskOfCmd cm)) (sdKind c.mdesc) (sdTarg c.mdesc) (c.mseq % 2 ^ 32)
  else s

def execMsendComplete (cm : Nat) (s : State) : Host.Outcome State Fault Refusal := .next (s.sendComplete cm)

end Sys2Proof.Machine
end

