-- ==== Sys2Proof/Machine/Fields.lean ====
section
/-! DEFINITION. Rest, the completion of launches, and the unloading of a field (spec/14_dw_host_launch.md R348-R352;
spec/01_cw_execution_model.md R15; spec/08_cw_cell_words.md R284). -/

namespace Sys2Proof.Machine

/-! ## Quiescence and rest (R284, R348) -/

/-- Port codes of the pump that belong to a cell's edges (R198). -/
def edgePorts (k : Nat) : List Nat :=
  let x := cellX k
  let y := cellY k
  (if x = 0 then [y, 0x10 + y] else []) ++ (if y = 0 then [0x20 + x, 0x30 + x] else []) ++ (if x = 15 then [0x60 + y] else []) ++
    (if y = 15 then [0x70 + x] else [])

/-- A stream command goes to or from a port: an SMC does in the tiles of its rectangle, SGA to memory does nowhere. -/
def Cmd.usesPort (c : Cmd) (p : Nat) : Bool :=
  ((decide (c.op ≤ 1) || (decide (c.op = 3) && decide (c.o.port ≠ 0x7F)) || (decide (4 ≤ c.op) && decide (c.op ≤ 6))) && decide (c.o.port = p)) ||
  (decide (c.op = 5) && decide (0x60 + c.sop.toNat % 32 = p))

/-- A stream of the cell's tile runs to or from one of its edge ports. -/
def State.edgeStream (s : State) (k : Nat) : Bool :=
  (List.range 128).any fun i =>
    let cm := coreOfCell k * 128 + i
    let c := s.cmd cm
    decide (c.st = .running) && (edgePorts k).any c.usesPort && (decide (c.op ≠ 6) || (s.targets cm).contains (coreOfCell k))

/-- A link input that the cell's step reads is empty. -/
def Cell.inputEmpty (c : Cell) : Bool := (insOf (c.moves c.step)).any fun p => isLink p && (c.fifo (p - 1)).isEmpty

/-- The cell is quiescent (R284). -/
def State.quiescent (s : State) (k : Nat) : Bool :=
  let c := s.cell k
  (!c.en || c.stopped || (c.inputEmpty && !s.edgeStream k)) && c.bin.all (·.done) && c.sinks.isEmpty

/-- A cell belongs to a field. -/
def State.cellIn (s : State) (f k : Nat) : Bool := decide (s.fieldOf (coreOfCell k) = some f)

/-- The task is at rest (R348). -/
def State.taskRests (s : State) (tk : Nat) : Bool :=
  let t := s.task tk
  decide (t.st = .free) || (decide (t.st = .parked) && decide (t.kind = .endK) && !s.wordWaits tk) ||
  (decide (t.st = .runnable) && decide (t.pc = t.entry) && s.starved tk)

/-- No queue command of the field but one waits, runs or is paused. -/
def State.queuesIdle (s : State) (f : Nat) (but : Option Nat) : Bool :=
  s.cmds.all fun x => decide (s.fieldOf (coreOf (taskOfCmd x.1)) ≠ some f) || x.2.ended || decide (but = some x.1)

/-- The conditions of rest, but for one command (R348, R378). -/
def State.restBut (s : State) (f : Nat) (but : Option Nat) : Bool :=
  (s.fieldCores f).all (fun c => (List.range 8).all fun x =>
    let tk := taskAt c x
    s.taskRests tk && decide ((s.task tk).fqComplete = 0) && (s.task tk).reqs.isEmpty) &&
  s.queuesIdle f but && s.cells.all fun x => !s.cellIn f x.1 || s.quiescent x.1

/-- The field is at rest. -/
def State.atRest (s : State) (f : Nat) : Bool := decide ((s.field f).st = .live) && s.restBut f none

/-! ## LAUNCH_COMPLETE (R348) -/

/-- LAUNCH_COMPLETE: at rest, every running launch of the field completes; a protection fault completes them FAULTED (R348, R349). -/
def State.launchRest (s : State) (id : Nat) : State :=
  match s.intake.launches.find? (fun l => decide (l.id = id)) with
  | none => s
  | some l => match l.fld with
    | none => s
    | some f =>
      if (s.field f).ended then s.completeAll f 4 0x0B fun _ => true
      else if l.st = .running ∧ s.atRest f then s.completeAll f 0 0 fun l => decide (l.st = .running)
      else s

def execLaunchComplete (id : Nat) (s : State) : Host.Outcome State Fault Refusal := .next (s.launchRest id)

/-! ## Unloading (R15, R21, R191, R350) -/

/-- A context after its state is discarded: numbers that outstanding answers name go on. -/
def Task.discard (t : Task) : Task := { nextRet := t.nextRet, reqNo := t.reqNo, rsynFrom := t.reqNo }

/-- Free the lock bits of tasks and cells, and drop their waiting requests (R15, R285). -/
def State.dropLocks (s : State) (task cell : Nat → Bool) : State :=
  { s with locks := Sparse.mapAll {} (fun _ l =>
      let mine := l.held && (if l.byCell then cell l.holder else task l.holder)
      let w := l.waiters.filter fun x => !(if x.1 then cell x.2.1 else task x.2.1)
      if mine then { l with held := false, byCell := false, holder := 0, cycles := 0, waiters := w } else { l with waiters := w }) s.locks }

/-- Drop a task's words that still occupy its vout. -/
def State.dropVout (s : State) (task : Nat → Bool) : State :=
  { s with mesh := s.mesh.filter fun m => !(m.vout && (match m.src with | some t => task t | none => false)) }

/-- Clear one core: contexts, queues, channels, counters, cells and the edge FIFOs (R15). -/
def State.clearCore (s : State) (c : Nat) : State :=
  let s0 := (s.cells.filter fun x => decide (coreOfCell x.1 = c)).foldl (fun s x => s.flushGap x.1) s
  let s1 := (List.range 8).foldl (fun s x => s.modTask (taskAt c x) Task.discard) s0
  let s2 : State := { s1 with
    cmds := s1.cmds.filter fun x => decide (x.1 / 128 ≠ c) || decide (2 ^ 20 ≤ x.1)
    cells := s1.cells.filter fun x => decide (x.1 / 256 ≠ c) }
  s2.modTile c fun t => { corecycle := t.corecycle, tlb := t.tlb, fld := t.fld, ver := t.ver }

/-- The cores of a field. -/
def State.holds (s : State) (f c : Nat) : Bool := decide (s.fieldOf c = some f)

/-- Everything that a field's tiles hold is discarded; the tiles still belong to it. -/
def State.clearField (s : State) (f : Nat) : State :=
  let cs := s.fieldCores f
  let s1 := s.dropLocks (fun t => s.holds f (coreOf t)) (fun k => s.holds f (coreOfCell k))
  cs.foldl State.clearCore (s1.dropVout fun t => s.holds f (coreOf t))

/-- The tiles of a field belong to none. -/
def State.releaseTiles (s : State) (f : Nat) : State :=
  (s.fieldCores f).foldl (fun s c => s.modTile c fun t => { t with fld := none, ver := 0, pages := 0, wheel := [] }) s

/-- Unload a field: state discarded, posts freed, tiles UNLOADED (R15, R350). An evicted field holds no tile. The step, the step
ceiling and the wait-well limit of the field number stay (R358, R389). -/
def State.unloadField (s : State) (f : Nat) : State :=
  let s1 := s.freePosts f
  let s2 := if (s.field f).evicted then { s1 with cmds := s1.cmds.filter fun x => decide (x.1 / 2 ^ 24 ≠ 1 + f) }
    else (s1.clearField f).releaseTiles f
  s2.modField f fun x => { step := x.step, ceil := x.ceil, wwlim := x.wwlim }

end Sys2Proof.Machine
end

