-- ==== Sys2Proof/Machine/Image.lean ====
section
/-! DEFINITION. Field images: their framing and the loader's checks (spec/14_dw_host_launch.md R353, R354, R356;
spec/08_cw_cell_words.md R241, R244-R251, R257, R265, R277, R280-R282). -/

namespace Sys2Proof.Machine

/-! ## Framing (R353, R354) -/

/-- A task record of a section. -/
structure ImgTask where
  ctx : Nat
  vc : Nat
  prio : Nat
  entry : Nat
  vout : Nat
  sf : Nat
  hs : List Nat
  deriving DecidableEq, Repr

/-- A data segment: space, local address, bytes. -/
structure Seg where
  space : Nat
  addr : Nat
  data : List Byte
  deriving DecidableEq, Repr

/-- A tile section: each cell's words, the core header, pages, tasks, segments. -/
structure Sect where
  cells : List (Sparse Word128)
  pickfloor : Nat
  mask : Nat
  pages : List (List Byte)
  tasks : List ImgTask
  segs : List Seg
  deriving DecidableEq, Repr

/-- An image. -/
structure Image where
  w : Nat
  h : Nat
  ver : Nat
  lenient : Bool
  gwbase : Nat
  gwsize : Nat
  map : List Nat
  sects : List Sect
  deriving DecidableEq, Repr

/-- n bytes at offset o. -/
def part (l : List Byte) (o n : Nat) : List Byte := (l.drop o).take n

/-- The little-endian value of n bytes at offset o. -/
def leAt (l : List Byte) (o n : Nat) : Nat := wordOfBytes (part l o n)

/-- The words of a cell record, zero words left out. -/
def cellWords (l : List Byte) : Sparse Word128 :=
  ((List.range 20).map fun i => (i, BitVec.ofNat 128 (leAt l (16 * i) 16))).filter fun x => decide (x.2 ≠ 0)

/-- Consecutive parts of n bytes. -/
def partsOf (n : Nat) : Nat → List Byte → List (List Byte)
  | 0, _ => []
  | m + 1, l => l.take n :: partsOf n m (l.drop n)

/-- A task record; none when one of its own rules is broken (R354, R356). -/
def imgTask (l : List Byte) : Option ImgTask :=
  let t : ImgTask := ⟨leAt l 0 1, leAt l 1 1, leAt l 2 1, leAt l 4 2, leAt l 8 4, leAt l 16 64, (List.range 16).map fun i => leAt l (80 + 32 * i) 32⟩
  if 8 ≤ t.ctx ∨ 32 ≤ t.vc ∨ 4 ≤ t.prio ∨ leAt l 3 1 ≠ 0 ∨ t.entry % 4 ≠ 0 ∨ leAt l 6 2 ≠ 0 ∨ leAt l 12 4 ≠ 0 ∨ t.sf % 2 = 0 ∨
      143 < bits t.vout 8 8 ∨ bits t.vout 18 11 ≠ 0 ∨ bits t.vout 5 3 ≠ 0 then none
  else some t

/-- The data segments of a section, n of them; none when they run past its end or break a rule. -/
def imgSegs : Nat → List Byte → Option (List Seg)
  | 0, _ => some []
  | n + 1, l =>
    let len := leAt l 8 4
    let pad := (len + 15) / 16 * 16
    if l.length < 16 + pad ∨ leAt l 1 3 ≠ 0 ∨ leAt l 12 4 ≠ 0 ∨ (leAt l 0 1 ≠ 1 ∧ leAt l 0 1 ≠ 2) then none
    else (imgSegs n (l.drop (16 + pad))).map (⟨leAt l 0 1, leAt l 4 4, part l 16 len⟩ :: ·)

/-- No two of a list are equal. -/
def allDiffer (l : List Nat) : Bool := decide (l.eraseDups.length = l.length)

/-- A section from its bytes. -/
def imgSect (l : List Byte) : Option Sect :=
  let head := part l 81920 16
  let mask := leAt head 4 2
  let np := ((List.range 16).filter fun i => bitB mask i).length
  let nt := leAt head 6 1
  let ns := leAt head 8 4
  let tasks := ((partsOf 592 nt (l.drop (81936 + 4096 * np))).map imgTask)
  if l.length < 81936 + 4096 * np + 592 * nt ∨ 8 < nt ∨ leAt head 7 1 ≠ 0 ∨ leAt head 12 4 ≠ 0 ∨ l.length < 16 * ns ∨
      tasks.any (·.isNone) then none
  else
    let ts := tasks.filterMap id
    match imgSegs ns (l.drop (81936 + 4096 * np + 592 * nt)) with
    | none => none
    | some segs =>
      if allDiffer (ts.map (·.ctx)) && allDiffer (ts.map (·.vc)) && ts.all (fun t => bitB mask (t.entry / 4096)) then
        some ⟨(partsOf 320 256 l).map cellWords, leAt head 0 4, mask, partsOf 4096 np (l.drop 81936), ts, segs⟩
      else none

/-- A segment lies in the tile's bin or in the image's window. -/
def Seg.inside (g : Seg) (base size : Nat) : Bool :=
  if g.space = 1 then decide (g.addr + g.data.length ≤ 0xC0000)
  else decide (size ≠ 0) && decide (base ≤ g.addr) && decide (g.addr + g.data.length ≤ base + size)

/-- An image for a rectangle of w by h tiles; none for reason 0x0A (R356). -/
def parseImage (l : List Byte) (w h : Nat) : Option Image :=
  let len := leAt l 40 8
  let nsect := leAt l 20 4
  let tmap := leAt l 24 8
  let stab := leAt l 32 8
  let gb := leAt l 12 4
  let gs := leAt l 16 4
  let l := l.take len
  if l.length < 64 ∨ l.length < len ∨ leAt l 0 4 ≠ 0x51464D49 ∨ leAt l 4 2 ≠ 1 ∨ leAt l 6 1 ≠ w ∨ leAt l 7 1 ≠ h ∨ 1 < leAt l 10 1 ∨
      leAt l 11 1 ≠ 0 ∨ leAt l 48 16 ≠ 0 ∨ nsect = 0 ∨ 144 < nsect ∨ len < tmap + 4 * (w * h) ∨ len < stab + 16 * nsect ∨ gs % 4096 ≠ 0 ∨
      (gs ≠ 0 ∧ (gb % 4096 ≠ 0 ∨ gb < 0x10000000 ∨ 0x16000000 < gb + gs)) then none
  else
    let map := (List.range (w * h)).map fun i => leAt l (tmap + 4 * i) 4
    let tab := (List.range nsect).map fun i => (leAt l (stab + 16 * i) 8, leAt l (stab + 16 * i + 8) 8)
    if map.any (fun i => decide (nsect ≤ i)) || tab.any (fun x => decide (len < x.1 + x.2)) then none
    else
      let ss := tab.map fun x => imgSect (part l x.1 x.2)
      if ss.any (·.isNone) then none
      else
        let ss := ss.filterMap id
        if ss.all fun s => s.segs.all fun g => g.inside gb gs then
          some ⟨w, h, leAt l 8 2, decide (leAt l 10 1 = 1), if gs = 0 then 0 else gb, gs, map, ss⟩
        else none

/-- The cells of an image whose framing is bad, where its tables lead to them: their reasons are lower than 0x0A, and the lowest is reported
(R280). -/
def looseImage (l : List Byte) (w h : Nat) : Option Image :=
  let nsect := leAt l 20 4
  let tmap := leAt l 24 8
  let stab := leAt l 32 8
  let map := (List.range (w * h)).map fun i => leAt l (tmap + 4 * i) 4
  let tab := (List.range (min 144 nsect)).map fun i => (leAt l (stab + 16 * i) 8, leAt l (stab + 16 * i + 8) 8)
  if leAt l 6 1 ≠ w ∨ leAt l 7 1 ≠ h ∨ l.length < tmap + 4 * (w * h) ∨ l.length < stab + 16 * tab.length ∨ map.any (fun i => decide (tab.length ≤ i)) ∨
      tab.any (fun x => decide (x.2 < 81920) || decide (l.length < x.1 + 81920)) then none
  else some ⟨w, h, 0, false, 0, 0, map, tab.map fun x => ⟨(partsOf 320 256 (part l x.1 81920)).map cellWords, 0, 0, [], [], []⟩⟩

/-- The section of tile i of the rectangle, row by row. -/
def Image.sect (im : Image) (i : Nat) : Option Sect := im.sects[im.map.getD i 0]?

/-- The cell of the image at field coordinates (x, y), as a cell that holds its words. -/
def Image.cell (im : Image) (x y : Nat) : Cell :=
  match im.sect (y / 16 * im.w + x / 16) with
  | some s => { prog := s.cells.getD (y % 16 * 16 + x % 16) [] }
  | none => {}

/-! ## Checks of one cell (R280 0x01-0x04) -/

/-- Reserved operations of a trigger's unit (R263-R274). -/
def opReserved (dst op : Nat) : Bool :=
  if dst = 0x22 then decide (op = 0x0E) || decide (op = 0x0F) || decide (0x1A ≤ op)
  else if dst = 0x27 then decide (5 ≤ op)
  else if dst = 0x29 then decide (3 ≤ op)
  else if dst = 0x2C then decide (1 ≤ op)
  else if dst = 0x2D then (decide (0x0A ≤ op) && decide (op ≤ 0x10)) || decide (0x18 ≤ op)
  else decide (5 ≤ op)

/-- Modifiers that an operation permits (R263-R274). -/
def modOk (c : Cell) (dst op m : Nat) : Bool :=
  if dst = 0x22 then decide (m = 0) || decide (op = 0x16) || decide (op = 0x17)
  else if dst = 0x2F then decide (m < 2)
  else if 0x30 ≤ dst then decide (m = 0) || (decide (op = 0) && c.dpl) || (decide (op = 2) && decide (m = 1))
  else decide (m = 0)

def srcAssigned (p : Nat) : Bool :=
  (decide (1 ≤ p) && decide (p ≤ 8)) || (decide (0x10 ≤ p) && decide (p ≤ 0x19)) || (decide (0x20 ≤ p) && decide (p ≤ 0x29))

def dstAssigned (p : Nat) : Bool :=
  isLink p || isTrough p || (decide (0x20 ≤ p) && decide (p ≤ 0x3F)) || decide (p = 0x40) || decide (p = 0x41)

/-- The four moves of step n, empty ones included. -/
def Cell.rawMoves (c : Cell) (n : Nat) : List Move := (List.range 4).map (moveOf (c.word n))

/-- Every move of the program. -/
def Cell.allMoves (c : Cell) : List Move := (List.range 16).flatMap c.moves

/-- Entry of the rota whose code is reserved. -/
def rotaReserved (v : Nat) : Bool := (decide (9 ≤ v) && decide (v ≤ 15)) || decide (0x18 ≤ v)

/-- Edge bits of a cell at (x, y) of its tile that stand off their edge (R248). -/
def Cell.strayEdge (c : Cell) (x y : Nat) : Bool :=
  (decide (x ≠ 0) && decide (bits c.sw0 36 2 ≠ 0)) || (decide (y ≠ 0) && decide (bits c.sw0 38 2 ≠ 0)) ||
  (decide (x ≠ 15) && bitB c.sw0 40) || (decide (y ≠ 15) && bitB c.sw0 41)

/-- Reason 0x01. A shadow's edge bits are judged as any cell's (R248): its words being its member's own (R277), a member whose edge bits would
stand off the shadow's edge is not accepted. -/
def Cell.bad1 (c : Cell) (x y : Nat) : Bool :=
  if !c.en then decide (c.prog ≠ [])
  else
    decide (bits c.sw0 42 86 ≠ 0) || bitB c.sw0 35 || bitB c.sw0 23 || bitB c.sw0 19 || decide (5 ≤ c.afmt) || decide (12 ≤ c.dfa) ||
    decide (12 ≤ c.dfb) || c.strayEdge x y || decide (bits c.sw1 104 24 ≠ 0) || decide (bits c.sw1 21 3 ≠ 0) ||
    decide (16 < c.nrota) ||
    (List.range 16).any (fun e => if e < c.nrota then rotaReserved (c.rotaAt e) else decide (c.rotaAt e ≠ 0)) ||
    c.allMoves.any fun m => !srcAssigned m.src || (decide (m.dst ≠ 0) && !dstAssigned m.dst) ||
      (isTrigger m.dst && opReserved m.dst m.op)

/-- Reason 0x02: R241 gives a shadow no bin port of its own in row 0's stead. -/
def Cell.bad2 (c : Cell) (x y : Nat) : Bool :=
  c.allMoves.any fun m =>
    ((decide (m.dst = 0x27) || decide (m.src = 0x22)) && (decide (x % 2 = 1) || decide (y % 2 = 1))) ||
    ((decide (m.dst = 0x2E) || decide (m.dst = 0x2F) || decide (m.src = 0x29)) && decide (x ≠ 0) && decide (y ≠ 0))

/-- The DOT-unit setup is a row of R265's table. -/
def Cell.dotSetup (c : Cell) : Bool :=
  let both (l : List Nat) := l.contains c.dfa && l.contains c.dfb
  (decide (c.dfa = 0) && decide (c.dfb = 0) && !c.dpl && !c.dsc) || (both [1, 2] && !c.dpl && !c.dsc) ||
  (both [3, 4, 6, 9] && !c.dpl) || (both [5, 7] && !c.dpl) || (both [7, 8] && c.dpl && !c.dsc)

/-- Reason 0x03. -/
def Cell.bad3 (c : Cell) : Bool :=
  c.en && (!c.dotSetup || c.allMoves.any fun m =>
    (decide (m.dst = 0x22) &&
      ((decide (0x10 ≤ m.op) && decide (c.afmt < 2)) || (decide (m.op = 0x17) && decide (2 ≤ m.m) && decide (c.afmt < 3)))) ||
    (decide (0x30 ≤ m.dst) && decide (m.dst ≤ 0x3F) &&
      (decide (c.dfa = 0) || (decide (m.op = 1) && !([3, 4, 5, 6, 7, 9].contains c.dfa)))) ||
    ([0x26, 0x40, 0x41].contains m.dst && !c.dsc))

/-- The unit of a trigger port. -/
def unitOf (dst : Nat) : Nat := if 0x30 ≤ dst then 0x30 else dst

/-- Reason 0x04. -/
def Cell.bad4 (c : Cell) : Bool :=
  (List.range 16).any fun n =>
    let l := c.moves n
    let d := l.map (·.dst)
    let t := (d.filter isTrigger).map unitOf
    !allDiffer d || !allDiffer t ||
    (c.rawMoves n).any (fun m => decide (m.src = 0) && decide (m ≠ ⟨0, 0, 0, 0, 0, 0⟩)) ||
    l.any fun m => decide (m.dst = 0) || (!isTrigger m.dst && (decide (m.op ≠ 0) || decide (m.m ≠ 0))) ||
      (isTrigger m.dst && !modOk c m.dst m.op m.m) ||
      (if m.gk = 5 ∨ m.gk = 6 then decide (m.gn = 0) else decide (m.gn ≠ 0))

/-! ## Checks of links (R280 0x05, 0x06) -/

/-- The far end of a link. -/
inductive Far where
  | pump
  | outside
  | cell (x y i : Nat)
  deriving DecidableEq, Repr

/-- Coordinates of the neighbour in the direction of index i. -/
def Image.next (im : Image) (x y i : Nat) : Option (Nat × Nat) :=
  match i / 2 with
  | 0 => if y = 0 then none else some (x, y - 1)
  | 1 => if 16 * im.w ≤ x + 1 then none else some (x + 1, y)
  | 2 => if 16 * im.h ≤ y + 1 then none else some (x, y + 1)
  | _ => if x = 0 then none else some (x - 1, y)

/-- Index of a cell in its tile. -/
def cellIdx (x y : Nat) : Nat := y % 16 * 16 + x % 16

/-- Where output j goes. -/
def Image.outFar (im : Image) (x y j : Nat) : Far :=
  if (pumpOut (im.cell x y) (cellIdx x y) j).isSome then .pump
  else match im.next x y j with
    | none => .outside
    | some p =>
      let d := im.cell p.1 p.2
      if !d.en || pumpIn d (cellIdx p.1 p.2) (facing j) then .outside else .cell p.1 p.2 (facing j)

/-- What feeds input i. -/
def Image.inFar (im : Image) (x y i : Nat) : Far :=
  if pumpIn (im.cell x y) (cellIdx x y) i then .pump
  else match im.next x y i with
    | none => .outside
    | some p =>
      let d := im.cell p.1 p.2
      if !d.en || (pumpOut d (cellIdx p.1 p.2) (facing i)).isSome then .outside else .cell p.1 p.2 (facing i)

/-- Rota entries of a cell with a code. -/
def Cell.rotaCount (c : Cell) (code : Nat) : Nat := ((List.range c.nrota).filter fun e => decide (c.rotaAt e = code)).length

/-- Link inputs that moves read and outputs they write, as indices. -/
def Cell.usedIn (c : Cell) : List Nat := ((c.allMoves.map (·.src)).filter isLink).eraseDups.map (· - 1)
def Cell.usedOut (c : Cell) : List Nat := ((c.allMoves.map (·.dst)).filter isLink).eraseDups.map (· - 1)

/-- The far end of a link of a cell, which `far` gives for each cell. A shadow's link to a shadow of its group joins the two; any other stands
for its primary's (R278). -/
def Image.endOf (im : Image) (far : Nat → Nat → Nat → Far) (x y i : Nat) : Far :=
  let c := im.cell x y
  let mine : Bool := match far x y i with
    | .cell u v _ => (im.cell u v).shadow && decide ((im.cell u v).group = c.group)
    | _ => false
  if c.shadow && decide (8 ≤ y % 16) && !mine then far x (y - 8) i else far x y i

/-- Reason 0x05. -/
def Image.bad5 (im : Image) (x y : Nat) : Bool :=
  let c := im.cell x y
  c.usedIn.any (fun i => decide (im.endOf im.inFar x y i = .outside)) || c.usedOut.any fun j => decide (im.endOf im.outFar x y j = .outside)

/-- Reason 0x06. -/
def Image.bad6 (im : Image) (x y : Nat) : Bool :=
  let c := im.cell x y
  c.usedIn.any (fun i => decide (c.rotaCount i = 0) || (match im.endOf im.inFar x y i with
    | .cell u v j => decide ((im.cell u v).rotaCount (0x10 + j) = 0)
    | _ => false)) ||
   c.usedOut.any fun j => decide (c.rotaCount (0x10 + j) = 0) || (match im.endOf im.outFar x y j with
    | .cell u v i => decide ((im.cell u v).rotaCount i = 0)
    | _ => false)

/-! ## Twin groups (R277, reason 0x09) -/

/-- Every configured cell with its coordinates. -/
def Image.configured (im : Image) : List (Nat × Nat × Cell) :=
  ((List.range (16 * im.h)).flatMap fun y => (List.range (16 * im.w)).map fun x => (x, y, im.cell x y)).filter fun c => c.2.2.en

/-- A link of the cell joins it to a shadow. -/
def Image.meetsShadow (im : Image) (x y : Nat) : Bool :=
  let c := im.cell x y
  let sh (f : Far) : Bool := match f with | .cell u v _ => (im.cell u v).shadow | _ => false
  c.usedIn.any (fun i => sh (im.inFar x y i)) || c.usedOut.any fun j => sh (im.outFar x y j)

/-- Words of a shadow that copies a member. -/
def Cell.asShadow (c : Cell) : Sparse Word128 := Sparse.set 0 c.prog 16 (BitVec.ofNat 128 (c.sw0 + (if c.shadow then 0 else 2 ^ 17)))

/-- Reason 0x09. -/
def Image.bad9 (im : Image) (l : List (Nat × Nat × Cell)) : Bool :=
  l.any fun a =>
    let x := a.1
    let y := a.2.1
    let c := a.2.2
    if c.shadow then
      !c.twin || decide (y % 16 < 8) || (let p := im.cell x (y - 8); !p.en || p.shadow || !p.twin || decide (p.asShadow ≠ c.prog))
    else if c.twin then
      decide (8 ≤ y % 16) || decide ((im.cell x (y + 8)).prog ≠ c.asShadow) || im.meetsShadow x y ||
      l.any fun b => decide (b.2.2.group = c.group) && !b.2.2.shadow &&
        (!b.2.2.twin || decide (b.1 / 16 ≠ x / 16) || decide (b.2.1 / 16 ≠ y / 16))
    else im.meetsShadow x y

/-! ## Rates and the period (R281, R282) -/

/-- A link between two cells, by cell number y * 16 w + x: producer, consumer, words put and taken in a period, initial tokens. -/
structure Rate where
  x : Nat
  y : Nat
  p : Nat
  c : Nat
  tok : Nat
  deriving DecidableEq, Repr

/-- The links that a rota names. -/
def Image.rates (im : Image) (l : List (Nat × Nat × Cell)) : List Rate :=
  (l.filter fun a => !a.2.2.shadow).flatMap fun a =>
    (List.range 8).filterMap fun j =>
      match im.outFar a.1 a.2.1 j with
      | .cell u v i =>
        let d := im.cell u v
        let p := a.2.2.rotaCount (0x10 + j)
        let c := d.rotaCount i
        if (p = 0 ∧ c = 0) ∨ d.shadow then none
        else some ⟨a.2.1 * (16 * im.w) + a.1, v * (16 * im.w) + u, p, c, a.2.2.itok j⟩
      | _ => none

/-- A positive rational in lowest terms. -/
def frac (a b : Nat) : Nat × Nat := (a / Nat.gcd a b, b / Nat.gcd a b)

/-- Rates that follow from one link: an end that has a rate gives the other end one; false when they disagree. -/
def stepRate (m : Sparse (Nat × Nat)) (r : Rate) : Sparse (Nat × Nat) × Bool :=
  let a := Sparse.get (0, 0) m r.x
  let b := Sparse.get (0, 0) m r.y
  if a.1 = 0 ∧ b.1 = 0 then (m, true)
  else if b.1 = 0 then (Sparse.set (0, 0) m r.y (frac (a.1 * r.p) (a.2 * r.c)), true)
  else if a.1 = 0 then (Sparse.set (0, 0) m r.x (frac (b.1 * r.c) (b.2 * r.p)), true)
  else (m, decide (a.1 * r.p * b.2 = b.1 * r.c * a.2))

/-- Go over the links n times. -/
def spread (l : List Rate) : Nat → Sparse (Nat × Nat) → Sparse (Nat × Nat)
  | 0, m => m
  | n + 1, m => spread l n (l.foldl (fun m r => (stepRate m r).1) m)

/-- The connected set of a cell, as the cells that get a rate from it, with the smallest whole rates; none when inconsistent. -/
def component (l : List Rate) (n k : Nat) : Option (Sparse Nat) :=
  let m := spread l n [(k, (1, 1))]
  if l.all fun r => (stepRate m r).2 then
    let d := m.foldl (fun d x => Nat.lcm d x.2.2) 1
    let g := m.foldl (fun g x => Nat.gcd g (x.2.1 * (d / x.2.2))) 0
    some (m.map fun x => (x.1, x.2.1 * (d / x.2.2) / g))
  else none

/-- One period: left firings by cell, words by link. Fire the first cell that can, n times at most. -/
def runPeriod (l : List (Nat × Rate)) : Nat → Sparse Nat → Sparse Nat → Bool
  | 0, left, _ => left.isEmpty
  | n + 1, left, words =>
    match left with
    | [] => true
    | _ =>
      let can (k : Nat) : Bool := l.all fun r =>
        (decide (r.2.y ≠ k) || decide (r.2.c ≤ Sparse.get 0 words r.1)) &&
        (decide (r.2.x ≠ k) || decide (Sparse.get 0 words r.1 + r.2.p ≤ 4))
      match (left.map (·.1)).find? can with
      | none => false
      | some k =>
        let words := l.foldl (fun m r =>
          let w := Sparse.get 0 m r.1
          let w := if r.2.y = k then w - r.2.c else w
          Sparse.set 0 m r.1 (if r.2.x = k then w + r.2.p else w)) words
        runPeriod l n (Sparse.set 0 left k (Sparse.get 0 left k - 1)) words

/-- Number the links. -/
def numbered : Nat → List Rate → List (Nat × Rate)
  | _, [] => []
  | n, r :: l => (n, r) :: numbered (n + 1) l

/-- Reasons 0x07 and 0x08 for the connected sets of the cells that links join, one after another. -/
def rateReason (l : List Rate) : Nat → List Nat → Option Nat
  | 0, _ => none
  | _, [] => none
  | n + 1, k :: ks =>
    match component l (l.length + 1) k with
    | none => some 7
    | some q =>
      let mine := numbered 0 (l.filter fun r => (q.map (·.1)).contains r.x)
      let rest := rateReason l n (ks.filter fun x => !(q.map (·.1)).contains x)
      let words := mine.foldl (fun m r => Sparse.set 0 m r.1 r.2.tok) []
      if runPeriod mine (q.map (·.2)).sum q words then rest
      else match rest with
        | some 7 => some 7
        | _ => some 8

/-! ## The verdict (R280) -/

/-- The lowest reason that some cells give by themselves: each with its place in its tile. -/
def cellReason (l : List (Nat × Nat × Cell)) : Option Nat :=
  if l.any (fun a => a.2.2.bad1 a.1 a.2.1) then some 1
  else if l.any (fun a => a.2.2.en && a.2.2.bad2 a.1 a.2.1) then some 2
  else if l.any (fun a => a.2.2.bad3) then some 3
  else if l.any (fun a => a.2.2.bad4) then some 4
  else none

/-- The lowest reason code that applies to the cells of an image, if any. -/
def Image.reason (im : Image) : Option Nat :=
  let all := (List.range (16 * im.h)).flatMap fun y => (List.range (16 * im.w)).map fun x => (x % 16, y % 16, im.cell x y)
  let l := im.configured
  let rs := im.rates l
  match cellReason all with
  | some r => some r
  | none =>
  if l.any (fun a => im.bad5 a.1 a.2.1) then some 5
  else if l.any (fun a => im.bad6 a.1 a.2.1) then some 6
  else if rs.any (fun r => decide (r.p = 0) || decide (r.c = 0)) then some 7
  else
    let ends := (rs.flatMap fun r => [r.x, r.y]).eraseDups
    match rateReason rs (ends.length + 1) ends with
    | some r => some r
    | none => if im.bad9 l then some 9 else none

/-- The cells of the sections that the tile map of an image names and the image holds, whatever else of its framing is bad. -/
def looseCells (l : List Byte) : List (Nat × Nat × Cell) :=
  let tmap := leAt l 24 8
  let stab := leAt l 32 8
  let named := ((List.range (leAt l 6 1 * leAt l 7 1)).filterMap fun i =>
    if tmap + 4 * i + 4 ≤ l.length then some (leAt l (tmap + 4 * i) 4) else none).eraseDups
  named.flatMap fun i =>
    let o := leAt l (stab + 16 * i) 8
    if i < min 144 (leAt l 20 4) ∧ stab + 16 * i + 16 ≤ l.length ∧ 81920 ≤ leAt l (stab + 16 * i + 8) 8 ∧ o + 81920 ≤ l.length then
      (partsOf 320 256 (part l o 81920)).zipIdx.map fun x => (x.2 % 16, x.2 / 16, { prog := cellWords x.1 })
    else []

/-- The reason of an image whose framing is bad: 0x0A, or the lowest that its cells give (R280). Cells that a table does not lead to give
none; reasons that concern links are given where every table is whole. -/
def looseReason (l : List Byte) (w h : Nat) : Nat :=
  ((match looseImage l w h with
    | some im => im.reason
    | none => cellReason (looseCells l)).getD 0x0A)

end Sys2Proof.Machine
end

