-- ==== Sys2Proof/Machine/Loader.lean ====
section
/-! DEFINITION. Loads: reading an image, the loader's verdict, configuration waves, the declaration of tiles, the loading of cells and
the end of a wave (spec/08_cw_cell_words.md R280-R287; spec/14_dw_host_launch.md R353-R357; spec/01_cw_execution_model.md R11-R15;
spec/09_cw_memory_model.md R303; spec/16_dw_boot_security_power.md R386). -/

namespace Sys2Proof.Machine

/-! ## Reading an image (R353) -/

/-- Bytes at an image address: a granary local address of the die, or a device virtual address. -/
def State.imageBytes (s : State) (die : Nat) (g : Bool) (a n : Nat) : Option (List Byte) :=
  if g then
    if 0x10000000 ≤ a ∧ a + n ≤ 0x16000000 then some (s.read (.granary die) (a - 0x10000000) n) else none
  else s.readDva .stream a n

/-- The image at an address: its header says how long it is. -/
def State.readImage (s : State) (die : Nat) (g : Bool) (a : Nat) : Option (List Byte) :=
  match s.imageBytes die g a 64 with
  | some h => s.imageBytes die g a (max 64 (leAt h 40 8))
  | none => none

/-- The ranges of device virtual addresses that reading an image takes, as far as they are known. -/
def State.imageRanges (s : State) (die : Nat) (g : Bool) (a : Nat) : List (Nat × Nat) :=
  if g then []
  else (a, 64) :: match s.imageBytes die g a 64 with
    | some h => [(a, max 64 (leAt h 40 8))]
    | none => []

/-- Effects of the configuration reader's reading of an image for a launch of field f, its bytes apart: a watch of it as one access, whose
record names no tile and no context, and samples of HBM reads (R288, R380, R430). -/
def State.noteImageRead (s : State) (f : Nat) (g : Bool) (a : Nat) (bytes : Option (List Byte)) : State :=
  match bytes with
  | none => if g then s else s.noteDva a 64
  | some l =>
    let s1 := s.watchBy (f / 256) (f % 256) (s.field f).ver 255 255 none (if g then 0 else 2) 0 a l.length true false
    if g then s1 else s1.noteDva a l.length

/-! ## The verdict (R280, R357) -/

/-- Two ranges of local addresses meet; an empty range meets none. -/
def meets (a n b m : Nat) : Bool := decide (n ≠ 0) && decide (m ≠ 0) && decide (a < b + m) && decide (b < a + n)

/-- Windows of a field: its own, and those of accepted images whose waves are crossing it or held (R353, R357). -/
def Field.windows (x : Field) : List (Nat × Nat) :=
  (x.gwbase, x.gwsize) :: (x.wave.toList ++ x.held.toList).map fun w => (leAt w.bytes 12 4, leAt w.bytes 16 4)

/-- A window overlaps one of another field of the die, the fault ring, or a busy attestation buffer (R357). -/
def State.windowTaken (s : State) (die own base size : Nat) : Bool :=
  let d := s.die die
  s.fields.any (fun x => decide (x.1 / 256 = die) && decide (x.1 ≠ own) && decide (x.2.st ≠ .unloaded) && !x.2.evicted &&
    x.2.windows.any fun w => meets base size w.1 w.2) ||
  (bitB (d.reg 0x109) 31 && meets base size (d.reg 0x108) (64 * 2 ^ bits (d.reg 0x109) 12 4)) ||
  (d.attBusy && meets base size d.attAddr 768)

/-- The loader's verdict on an image for field `own` of a die, w by h tiles: the image, or the reason it is rejected. -/
def State.judgeImage (s : State) (die own w h : Nat) (l : Option (List Byte)) : Except Nat Image :=
  match l.bind fun b => parseImage b w h with
  | none => .error ((l.map fun b => looseReason b w h).getD 0x0A)
  | some im =>
    match im.reason with
    | some r => .error r
    | none => if s.windowTaken die own im.gwbase im.gwsize then .error 0x0B else .ok im

/-- The record of a load refusal (R368). -/
def State.refuseRec (s : State) (die num ver reason : Nat) : State :=
  s.pushRec ⟨4, .configReject, die, num, ver, 255, 255, 0, 255, 255, reason, 0, 0, s.cycle⟩

/-! ## Cold loads (R15, R355, R375) -/

/-- Granules of a space that the segments of a section touch. -/
def Sect.granules (x : Sect) (space base : Nat) : List Nat :=
  (x.segs.filter fun g => decide (g.space = space)).flatMap fun g => Machine.granules (g.addr - base) g.data.length

/-- Clear every byte at the places of a predicate. -/
def State.zeroFill (s : State) (p : Nat → Bool) : State := { s with mem := s.mem.filter fun x => !p x.1 }

/-- Granules of the field's bins and window that no segment writes become zero (R375). -/
def State.zeroGranules (s : State) (f : Nat) (im : Image) : State :=
  let die := f / 256
  let s1 := (s.fieldCores f).zipIdx.foldl (fun s x =>
    let keep := match im.sect x.2 with | some t => t.granules 1 0 | none => []
    let p0 := place (.bin x.1) 0
    s.zeroFill fun p => decide (p0 ≤ p) && decide (p < p0 + 0xC0000) && !keep.contains ((p - p0) / 4096)) s
  let keep := (List.range (im.w * im.h)).flatMap fun i => match im.sect i with | some t => t.granules 2 0x10000000 | none => []
  let p0 := place (.granary die) 0
  let lo := p0 + (im.gwbase - 0x10000000)
  s1.zeroFill fun p => decide (lo ≤ p) && decide (p < lo + im.gwsize) && !keep.contains ((p - p0) / 4096)

/-- A cold load's wave enters. R47 leaves which wheel positions a core gets: it gets one, that of its number in the module (DESIGN CHOICE,
log 59): the rectangle becomes the field's, cleared (R11, R15, R355, R376, R389). -/
def State.coldWave (s : State) (f x0 y0 image : Nat) (g : Bool) (im : Image) (wave : Wave) : State :=
  let s1 := s.modField f fun o =>
    { st := .loading, x0 := x0, y0 := y0, w := im.w, h := im.h, ver := im.ver, image := image, imageG := g, coldImage := image
      coldG := g, gwbase := im.gwbase, gwsize := im.gwsize, strict := !im.lenient, wave := some wave, step := o.ceil, ceil := o.ceil }
  let cs := s1.fieldCores f
  let s2 := cs.foldl (fun s c =>
    (s.clearCore c).modTile c fun t => { t with fld := some (f % 256), ver := im.ver, wheel := [moduleTile c % 1024] }) s1
  s2.zeroGranules f im

/-! ## Reconfigurations (R11, R283, R349, R378) -/

/-- A reconfiguration's wave enters the field. Its launches are judged in that cycle. -/
def State.enterWave (s : State) (f : Nat) (wave : Wave) (image : Nat) (g : Bool) : State :=
  let s1 := s.completeAll f (if s.atRest f then 0 else 7) 0 Launch.atWork
  let s2 := s1.modField f fun x =>
    { x with st := .loading, ver := (x.ver + 1) % 65536, image := image, imageG := g, wave := some wave, held := none }
  let s3 : State := { s2 with
    cells := Sparse.mapAll {} (fun k (c : Cell) => if s.cellIn f k then { c with loaded := false } else c) s2.cells }
  let s4 := (s.fieldCores f).foldl (fun s c => s.modTile c fun t => { t with declared := false }) s3
  match wave.by_ with
  | .scfg cm => s4.modCmd cm fun c => { c with entered := true }
  | .launch _ => s4

/-- A wave is due to enter: it waits behind the field's stop flag, or enters (R378). -/
def State.waveDue (s : State) (f : Nat) (wave : Wave) (image : Nat) (g : Bool) : State :=
  if (s.field f).armed then s.modField f fun x => { x with held := some wave, heldImage := (image, g) }
  else s.enterWave f wave image g

/-- The wave that the stop flag holds, unless its command has been killed or its launch has ended. -/
def State.heldWave (s : State) (f : Nat) : Option Wave :=
  match (s.field f).held with
  | some w => match w.by_ with
    | .scfg cm => if (s.cmd cm).op = 8 ∧ (s.cmd cm).live then some w else none
    | .launch id => if s.intake.launches.any (fun l => decide (l.id = id)) then some w else none
  | none => none

/-- A wave held by the stop flag enters. -/
def State.releaseWave (s : State) (f : Nat) : State :=
  match s.heldWave f with
  | some w => s.enterWave f w (s.field f).heldImage.1 (s.field f).heldImage.2
  | none => s

/-! ## TILE_DECLARE (R13, R15, R303, R355) -/

/-- The command that started a wave. -/
def Wave.scfg (w : Wave) : Option Nat := match w.by_ with | .scfg c => some c | .launch _ => none

/-- Write the segments of a section; a cold load's writes set no dirty bit (R375). -/
def State.writeSegs (s : State) (core : Nat) (cold : Bool) (l : List Seg) : State :=
  l.foldl (fun s g =>
    let p := if g.space = 1 then (Space.bin core, g.addr) else (Space.granary (dieOf core), g.addr - 0x10000000)
    if cold then s.writeQuiet p.1 p.2 g.data else s.write p.1 p.2 g.data) s

/-- Load the pages of a section. -/
def State.writePages (s : State) (core : Nat) (x : Sect) : State :=
  let ns := (List.range 16).filter fun i => bitB x.mask i
  (ns.zip x.pages).foldl (fun s p => s.writeQuiet (.istore core) (p.1 * 4096) p.2) s

/-- A context as its task record declares it (R13): numbers that outstanding answers name go on. -/
def Task.declare (t : Task) (r : ImgTask) : Task :=
  { t.discard with
    st := .parked, kind := .endK, prio := r.prio, vc := some r.vc, pc := r.entry, entry := r.entry, voutdst := BitVec.ofNat 32 (keepBits r.vout voutMask)
    sf := BitVec.ofNat 512 r.sf ||| 1#512
    hs := (r.hs.zipIdx).foldl (fun m x => Sparse.set 0 m x.2 (BitVec.ofNat 256 x.1)) [] }

/-- Declare one context: its FIFOs, locks, vout words and queue entries go, but for the wave's own command (R15). -/
def State.declareTask (s : State) (core : Nat) (scfg : Option Nat) (r : ImgTask) : State :=
  let tk := taskAt core r.ctx
  let drop := (s.task tk).vc.toList ++ [r.vc]
  let s1 := s.modTile core fun t => { t with vcs := drop.foldl (fun m n => Sparse.set [] m n []) t.vcs }
  let s2 := (s1.dropLocks (fun t => decide (t = tk)) fun _ => false).dropVout fun t => decide (t = tk)
  let s3 := (List.range 16).foldl (fun s e => if scfg = some (cmdAt tk e) then s else s.modCmd (cmdAt tk e) fun _ => {}) s2
  (s3.unbindVc core r.vc).modTask tk fun t => t.declare r

/-- Prepare a tile before its first cell loads. -/
def State.declareTile (s : State) (core : Nat) (w : Wave) (ver : Nat) (x : Sect) : State :=
  let s1 := (s.writeSegs core w.cold x.segs).writePages core x
  let s2 := s1.modTile core fun t =>
    { t with pages := BitVec.ofNat 16 x.mask, pickfloor := BitVec.ofNat 32 (keepBits x.pickfloor pickMask), declared := true, ver := ver }
  x.tasks.foldl (fun s r => s.declareTask core w.scfg r) s2

/-- The wave has reached a tile: its paused commands of earlier versions are killed (R303). -/
def State.killPaused (s : State) (core : Nat) (w : Wave) (ver : Nat) : State :=
  (List.range 128).foldl (fun s i =>
    let cm := core * 128 + i
    let c := s.cmd cm
    if decide (c.st = .paused) && decide (c.ver ≠ ver) && decide (w.scfg ≠ some cm) then s.killCmd cm else s) s

/-- Nothing of an earlier version is left to wait for at a tile: its queue commands have ended, and the requests and the accesses of the
contexts that the section declares (R15, R303). An access that waits for a lock bit holds the wave no longer: it goes with its context, and
what comes after it in the port (DESIGN CHOICE, log 72). -/
def State.tileReady (s : State) (core : Nat) (w : Wave) (ver : Nat) (x : Sect) : Bool :=
  ((List.range 128).all fun i =>
    let cm := core * 128 + i
    let c := s.cmd cm
    c.ended || decide (c.ver = ver) || decide (w.scfg = some cm)) &&
  x.tasks.all fun r =>
    let tk := taskAt core r.ctx
    let t := s.task tk
    t.reqs.isEmpty && (t.port.isEmpty || t.waitLock.isSome) && !s.rx.ops.any fun (o : RxReq) => decide (o.task = tk)

/-! ## CELL_LOAD (R283-R285) -/

/-- The neighbours to the north and the west, where the field has them, have loaded. -/
def State.waveAt (s : State) (k : Nat) : Bool :=
  (match s.neighbour k 0 with | some m => (s.cell m).loaded | none => true) &&
  (match s.neighbour k 6 with | some m => (s.cell m).loaded | none => true)

/-- The cell that feeds input i of a cell; none for the pump and for no cell. A shadow takes what its primary takes from outside the
group (R278). -/
def State.producerOf (s : State) (k i : Nat) : Option Nat :=
  let feeds (m : Nat) : Option Nat := if (pumpOut (s.cell m) m (facing i)).isSome then none else some m
  if (s.cell k).shadow then
    let p := k - 128
    if pumpIn (s.cell p) p i then none
    else match s.neighbour p i with
      | some m => if sameTwin (s.cell m) (s.cell p) m p then s.neighbour k i else feeds m
      | none => none
  else if pumpIn (s.cell k) k i then none
  else match s.neighbour k i with
    | some m => if (s.cell m).shadow then none else feeds m
    | none => none

/-- The initial tokens of output j of a cell. -/
def State.tokens (s : State) (k j : Nat) : List LinkWord :=
  let c := s.cell k
  List.replicate (c.itok j) { valid := true, ver := c.ver, time := s.cycle }

/-- Once both ends of a link have loaded, input i of a cell holds its producer's initial tokens. -/
def State.linkInput (s : State) (k i : Nat) : State :=
  match s.producerOf k i with
  | some m =>
    if (s.cell m).loaded && (s.cell k).loaded then
      s.modCell k fun c => { c with inp := Sparse.set [] c.inp i (s.tokens m (facing i)) }
    else s
  | none => s

/-- The links of a cell that has just loaded: its inputs, and the inputs and pump FIFOs that it feeds. -/
def State.linkCell (s : State) (k : Nat) : State :=
  let s1 := (List.range 8).foldl (fun s i => s.linkInput k i) s
  (List.range 8).foldl (fun s j =>
    match pumpOut (s.cell k) k j with
    | some code => s.modTile (coreOfCell k) fun t => { t with outq := Sparse.set [] t.outq code (s.tokens k j) }
    | none => match s.neighbour k j with
      | some m => [m, shadowOf m].foldl (fun s d => if s.producerOf d (facing j) = some k then s.linkInput d (facing j) else s) s
      | none => s) s1

/-- A cell takes its new words; its lock bits are freed and its state is reset (R285). -/
def State.loadCell (s : State) (k ver : Nat) (prog : Sparse Word128) : State :=
  let s1 := (s.flushGap k).dropLocks (fun _ => false) fun x => decide (x = k)
  let s2 := (s1.modCell k fun c => { prog := prog, ver := ver, loaded := true, wires := c.wires, was := bits c.sw0 40 2 }).linkCell k
  (List.range 8).foldl (fun s2 j => s.seeRoom s2 k j) (s.gainRoom s2 k (List.range 8))

/-- Once the wave has loaded every cell of the field, the task-port accesses of the new version perform (R303). -/
def State.versionOpen (s : State) (f : Nat) : State :=
  if !s.allLoaded f then s
  else (s.fieldCores f).foldl (fun s c => (List.range 8).foldl (fun s x => s.drain (taskAt c x)) s) s

/-- The section of a core of a field, under the wave in progress. -/
def State.sectOf (s : State) (f core : Nat) (im : Image) : Option Sect :=
  im.sect ((s.fieldCores f).idxOf core)

/-- CELL_LOAD: the wave at a cell that it has reached. -/
def State.cellLoad (s : State) (k : Nat) : State :=
  let core := coreOfCell k
  match s.fieldOf core with
  | none => s
  | some f =>
    let fl := s.field f
    match fl.wave with
    | none => s
    | some w =>
      if fl.st ≠ .loading ∨ (s.cell k).loaded ∨ !s.waveAt k then s
      else match parseImage w.bytes fl.w fl.h with
        | none => s
        | some im => match s.sectOf f core im with
          | none => s
          | some x =>
            let s1 := if (s.tile core).declared then s else s.killPaused core w fl.ver
            if !(s1.tile core).declared && !s1.tileReady core w fl.ver x || !s1.quiescent k then s1
            else
              let s2 := if (s1.tile core).declared then s1 else s1.declareTile core w fl.ver x
              (s2.loadCell k fl.ver (x.cells.getD (k % 256) [])).versionOpen f

def execCellLoad (k : Nat) (s : State) : Host.Outcome State Fault Refusal := .next (s.cellLoad k)

/-! ## IMAGE_READ_COMPLETE (R386) -/

/-- An image's bytes in the order in which the configuration reader reads them: the header, the tile map and the section table, which say
where the sections are, and then the sections in section order, each once (R283, R289). It never reads the seed table. That the first three
come first is DEDUCED (log 58). -/
def readOrder (l : List Byte) : List Byte :=
  let n := leAt l 20 4
  let stab := leAt l 32 8
  part l 0 64 ++ part l (leAt l 24 8) (4 * (leAt l 6 1 * leAt l 7 1)) ++ part l stab (16 * n) ++
    (List.range n).flatMap fun i => part l (leAt l (stab + 16 * i) 8) (leAt l (stab + 16 * i + 8) 8)

/-- A die's measurement takes an image. -/
def State.measure (s : State) (f ver : Nat) (bytes : List Byte) : State :=
  s.modDie (f / 256) fun d =>
    { d with
      meas := sha512 (d.meas ++ sha512 (readOrder bytes) ++ [BitVec.ofNat 8 (f / 256), BitVec.ofNat 8 (f % 256)] ++ bytesOfNat 2 ver)
      measN := d.measN + 1 }

/-- IMAGE_READ_COMPLETE: the configuration reader has read the last byte of the image of the field's wave. -/
def State.imageRead (s : State) (f : Nat) : State :=
  let fl := s.field f
  match fl.wave with
  | some w =>
    if w.measured then s
    else (s.measure f fl.ver w.bytes).modField f fun x => { x with wave := some { w with measured := true } }
  | none => s

def execImageReadComplete (f : Nat) (s : State) : Host.Outcome State Fault Refusal := .next (s.imageRead f)

/-! ## CONFIG_COMPLETE_WAVE (R220, R286, R347, R353) -/

/-- The wave's launch goes on to its seeds. -/
def State.modLaunch (s : State) (id : Nat) (g : Launch → Launch) : State :=
  { s with intake := { s.intake with launches := s.intake.launches.map fun (l : Launch) => if l.id = id then g l else l } }

/-- The launches that wait for a field to be LIVE go on warm (R346). -/
def State.warmWaiting (s : State) (f : Nat) : State :=
  let warm (l : Launch) : Launch := if l.fld = some f ∧ l.st = .waiting then { l with st := .seeding } else l
  { s with intake := { s.intake with launches := s.intake.launches.map warm } }

/-- CONFIG_COMPLETE_WAVE. -/
def State.waveDone (s : State) (f : Nat) : State :=
  let fl := s.field f
  match fl.wave with
  | none => s
  | some w =>
    if fl.st ≠ .loading ∨ !w.measured ∨ !s.allLoaded f then s
    else match parseImage w.bytes fl.w fl.h with
      | none => s
      | some im =>
        let s1 := ((s.modField f fun x =>
          { x with st := .live, wave := none, gwbase := im.gwbase, gwsize := im.gwsize, strict := !im.lenient }).traceEvent
            (f / 256) 1 0 0 (f % 256) fl.ver).warmWaiting f
        match w.by_ with
        | .scfg cm => if (s1.cmd cm).live then s1.doneCmd cm else s1
        | .launch id => s1.modLaunch id fun l => { l with st := .seeding }

def execConfigCompleteWave (f : Nat) (s : State) : Host.Outcome State Fault Refusal := .next (s.waveDone f)

end Sys2Proof.Machine
end

