-- ==== Sys2Proof/Machine/Streams.lean ====
section
/-! DEFINITION. The life of a queue command: its start, its beats, its walks, its completion, SBAR's and SCFG's
(spec/07_cw_engine_isa.md R204, R210, R216-R220, R233; spec/01_cw_execution_model.md R14). -/

namespace Sys2Proof.Machine

/-! ## QUEUE_COMMAND_START (R210, R233) -/

/-- Commands of a tile that hold one of its pump's running places: those that run, and those that are paused, as R210 does not say whether these
give theirs up (DESIGN CHOICE, log 101). -/
def State.runningCount (s : State) (core : Nat) : Nat :=
  ((List.range 128).filter fun i => (s.cmd (core * 128 + i)).live).length

/-- No earlier command of the task still waits to start. -/
def State.startsNext (s : State) (cm : Nat) : Bool :=
  (List.range 16).all fun e =>
    let c := s.cmd (cmdAt (taskOfCmd cm) e)
    decide (c.st ≠ .waiting) || decide ((s.cmd cm).seq ≤ c.seq)

/-- An MSEND may read its descriptor: it is of its task's oldest MSENDs that have not, no SBAR bars the read (R219, R300), and the task's
acquires and fences before it have performed (R299). -/
def State.maySend (s : State) (cm : Nat) : Bool :=
  let c := s.cmd cm
  decide (c.behind = 0) && !s.barred cm && (List.range 16).all fun e =>
    let d := s.cmd (cmdAt (taskOfCmd cm) e)
    decide (d.op ≠ 0x31) || decide (d.st ≠ .running) || !d.mdesc.isEmpty || decide (c.seq ≤ d.seq)

/-- The command starts, once a running place is free (R210). It waits for nothing in its task's port (R299). An MSEND reads its descriptor as
soon as it may (R233). -/
def State.startCmd (s : State) (cm : Nat) : State :=
  let c := s.cmd cm
  let core := coreOf (taskOfCmd cm)
  if c.st ≠ .waiting ∨ !s.pumpRuns core ∨ 64 ≤ s.runningCount core ∨ !s.startsNext cm then s
  else
    let s1 := s.modCmd cm fun c => { c with st := .running, start := s.cycle }
    if c.op = 0x31 ∧ s1.maySend cm then s1.startSend cm else s1

def execQueueCommandStart (cm : Nat) (s : State) : Host.Outcome State Fault Refusal := .next (s.startCmd cm)

/-! ## SCFG's image (R220) -/

/-- One byte of an image through a handle of space 2 or 4, translated as any stream's (R218, R362). -/
def State.imageByte (s : State) (core : Nat) (c : Cmd) (a : Int) : Except Hitch Byte :=
  match s.spot core (s.leaves core c) (if hSpace c.h ≠ 4 then 2 else 4) a false with
  | .error e => .error e
  | .ok p => s.spotByte c.lines p a.toNat

/-- The bytes of the walk from element j on, n of them. -/
def State.imageWalk (s : State) (core : Nat) (c : Cmd) : Nat → Nat → Tried (List Byte)
  | _, 0 => .got []
  | j, n + 1 =>
    let a := (c.spec.addr j).1
    match s.imageByte core c a with
    | .error e => .held e j (vaOf a) false
    | .ok b => match s.imageWalk core c (j + 1) n with
      | .got l => .got (b :: l)
      | .held e k v w => .held e k v w

/-- Effects of reading SCFG's image, its bytes apart: watches of its elements, and samples of HBM reads. -/
def State.noteImage (s : State) (cm : Nat) : State :=
  let c := s.cmd cm
  s.noteReads cm (hSpace c.h) ((List.range c.spec.total).map fun j => ⟨j, (c.spec.addr j).1, 1, 0, 8, 0⟩) []

/-- SCFG while its wave has not entered: the image is read and judged, and its wave is due, or the command ends with kind 5. A management
task has no field to configure, and R220 gives its SCFG no outcome: the command ends FAULTED with kind 2, and the core halts as for any
fault of its streams (DESIGN CHOICE, log 100). -/
def State.beatConfig (s : State) (cm : Nat) : State :=
  let c := s.cmd cm
  let core := coreOf (taskOfCmd cm)
  match s.fieldOf core with
  | none => s.faultCmd cm 2 false (vaOf (hAddr c.h)) 0
  | some f =>
    let x := s.field f
    if c.entered ∨ x.st ≠ .live ∨ (s.heldWave f).isSome then s
    else match s.imageWalk core c 0 c.spec.total with
      | .held e j va wr => s.hold cm e j va wr
      | .got l =>
        let v := s.judgeImage (f / 256) f x.w x.h (some l)
        let s := s.noteImage cm
        match v with
        | .error r => (s.failCmd cm 5).refuseRec (f / 256) (f % 256) x.ver r
        | .ok _ =>
          let n := leAt l 40 8
          (s.modCmd cm fun c => { c.beatOver with pos := c.spec.total }).waveDue f ⟨l.take n, .scfg cm, false, false⟩ (hBase c.h)
            (decide (hSpace c.h ≠ 4))

/-! ## STREAM_BEAT (R216, R218, R219) -/

/-- The command reads a bin or the granary. -/
def Cmd.readsLocal (c : Cmd) : Bool :=
  decide (hSpace c.h ≠ 4) && (decide (c.op = 0) || decide (c.op = 2) || decide (c.op = 3) || decide (c.op = 6) || decide (c.op = 8) ||
    decide (c.op = 0x31))

/-- A beat of the command waits for its task's accesses (R299, R303), or for the field's accesses of the version before (R303). SREC accesses
no memory. -/
def State.beatWaits (s : State) (cm : Nat) : Bool :=
  let c := s.cmd cm
  decide (c.op ≠ 5) && (decide (c.behind ≠ 0) || (decide (c.op = 8) && decide (c.rel ≠ 0)) || s.verHold (coreOf (taskOfCmd cm)))

/-- A beat of a command that runs, with its translation in hand. -/
def State.streamBeat (s : State) (cm : Nat) : State :=
  let c := s.cmd cm
  if c.st ≠ .running ∨ c.kill ∨ c.walk.isSome ∨ !s.pumpRuns (coreOf (taskOfCmd cm)) ∨ (c.readsLocal ∧ s.barred cm) ∨ s.beatWaits cm then s
  else if !c.redo.isEmpty then s.sendRedo cm
  else if c.op = 0x31 then (if c.mdesc.isEmpty then (if s.maySend cm then s.startSend cm else s) else s.beatSend cm)
  else if c.op = 8 then s.beatConfig cm
  else if c.op = 9 then s
  else if c.op = 0 ∧ c.o.ls then
    (if (s.lockstepSet cm).any (fun k => s.barred k || s.beatWaits k) then s else s.beatLockstep cm)
  else if s.bankHeld cm then s.bankWait cm
  else (s.bankTake cm).beatOne cm

def execStreamBeat (cm : Nat) (s : State) : Host.Outcome State Fault Refusal := .next (s.streamBeat cm)

/-- TRANSLATION_WALK (R361, R362). -/
def State.translate (s : State) (cm : Nat) : State :=
  if (s.cmd cm).st = .running ∧ s.pumpRuns (coreOf (taskOfCmd cm)) then s.walkFor cm else s

def execTranslationWalk (cm : Nat) (s : State) : Host.Outcome State Fault Refusal := .next (s.translate cm)

/-! ## STREAM_COMPLETE and SBAR_COMPLETE (R217, R219) -/

/-- STREAM_COMPLETE: every beat has been made, and every packet to a peer is answered. -/
def State.streamComplete (s : State) (cm : Nat) : State :=
  let c := s.cmd cm
  if c.st = .running ∧ c.op ≤ 7 ∧ !c.kill ∧ c.units ≤ c.pos ∧ c.owed.isEmpty ∧ c.redo.isEmpty ∧ s.pumpRuns (coreOf (taskOfCmd cm)) then s.doneCmd cm else s

def execStreamComplete (cm : Nat) (s : State) : Host.Outcome State Fault Refusal := .next (s.streamComplete cm)

/-- The command writes memory: SST, SCP, SGA to memory, SSC and SFIL (R209-R214). -/
def Cmd.writesMem (c : Cmd) : Bool :=
  decide (c.op = 1) || decide (c.op = 2) || (decide (c.op = 3) && decide (c.o.port = 0x7F)) || decide (c.op = 4) || decide (c.op = 7)

/-- The commands that an SBAR waits for: its task's earlier streams that write memory, of the classes in its mask. -/
def State.sbarHolds (s : State) (cm : Nat) : Bool :=
  let b := s.cmd cm
  (List.range 16).any fun e =>
    let c := s.cmd (cmdAt (taskOfCmd cm) e)
    !c.ended && c.writesMem && decide (c.seq < b.seq) && bitB (sbarMask b.o) c.o.cls

/-- SBAR_COMPLETE. -/
def State.sbarComplete (s : State) (cm : Nat) : State :=
  let c := s.cmd cm
  if c.op = 9 ∧ c.st = .running ∧ !s.sbarHolds cm ∧ s.pumpRuns (coreOf (taskOfCmd cm)) then s.doneCmd cm else s

def execSbarComplete (cm : Nat) (s : State) : Host.Outcome State Fault Refusal := .next (s.sbarComplete cm)

end Sys2Proof.Machine
end

