-- ==== Sys2Proof/Machine/Fabric.lean ====
section
/-! DEFINITION. Fabric control: the end of traffic to a peer, the commands APPLY, KEY, LOCK, OPEN, DRAIN and DARK, the fabric
registers, and the health monitors' registers (spec/17_fo_rotor_fabric.md R395-R397, R405, R409, R411-R419; spec/06_cw_receive_engine.md
R180; spec/07_cw_engine_isa.md R234; spec/19_fo_health.md R429-R432). -/

namespace Sys2Proof.Machine

/-! ## Ends (R234, R405, R416, R419) -/

/-- A request of a task ends without a response: RMT_UNKNOWN or RMT_UNREACH (R155, R368). -/
def State.endReq (s : State) (tk : Nat) (r : Req) (sent : Bool) : State :=
  ((s.modTask tk fun t => { t with reqs := t.reqs.filter fun x => decide (x.num ≠ r.num) }.countEnd r.num false).raiseAsync tk
    (if sent then .rmtUnknown else .rmtUnreach) (r.target + r.tag * 2 ^ 32)).drain tk

/-- The packet with a PSN to peer m has been sent and not refused since. -/
def State.wasSent (s : State) (m psn : Nat) : Bool :=
  match (s.fab.peer m).out.find? (fun p => decide (p.psn = psn)) with
  | some p => decide (0 < p.sends) && !p.refused
  | none => true

/-- End the requests of tasks to a peer. -/
def State.endReqs (s : State) (m : Nat) : State :=
  s.tasks.foldl (fun a x =>
    (x.2.reqs.filter fun r => decide (r.target = m) && r.psn.isSome && r.resp.isNone).foldl (fun a r =>
      a.endReq x.1 r (s.wasSent m (r.psn.getD 0))) a) s

/-- A complete request in fq, with its number, that goes to a module: one that is not malformed (R155, R405). -/
def fqGoing (m : Nat) (x : Nat × List Word64) : Bool :=
  let a := (x.2.getD 1 0).toNat
  decide (a / 2 ^ 48 = m) && !malformed (x.2.headD 0).toNat a

/-- The record of a request that leaves fq unsent. -/
def unsentReq (m : Nat) (x : Nat × List Word64) : Req :=
  let c := (x.2.headD 0).toNat
  ⟨x.1, ctlTag c, ctlOp c, ctlOrd c, m, x.2, none, false, none⟩

/-- End the requests to a module that wait in a task's fq: they are never sent (R405, R416). An RSYN sees each of them end (R238). -/
def State.endQueued (s : State) (m tk : Nat) : State :=
  let t := s.task tk
  let l := t.fqNums.zip (fqParts t.fq.length t.fq)
  let rest := t.fq.drop ((l.map fun x => x.2.length).sum)
  let dead := l.filter (fqGoing m)
  if dead.isEmpty then s
  else
    dead.foldl (fun a x => a.endReq tk (unsentReq m x) false)
      (s.modTask tk fun t =>
        { t with
          fq := ((l.filter fun x => !fqGoing m x).flatMap (·.2)) ++ rest, gone := t.gone ++ dead.map (·.1)
          reqs := t.reqs ++ dead.map (unsentReq m) })

/-- The same for every task. -/
def State.endWaiting (s : State) (m : Nat) : State := s.tasks.foldl (fun a x => a.endQueued m x.1) s

/-- End a stream that has packets to a peer, or the landing whose writes go there. What the peer had no page for is unsent (R53). -/
def State.endOwed (s : State) (m : Nat) : State :=
  s.cmds.foldl (fun a x =>
    match (x.2.owed ++ x.2.redo.map fun (r : Redo) => ({ peer := r.peer, psn := (s.fab.peer m).nextPsn, elem := r.elem, va := r.va } : Owed)).find? (fun o => decide (o.peer = m)) with
    | none => a
    | some o =>
      if 2 ^ 20 + 8192 ≤ x.1 then a.modCmd x.1 fun c => { c with owed := c.owed.filter fun o => decide (o.peer ≠ m), fault := 2 }
      else if 2 ^ 20 ≤ x.1 then
        (a.modCmd x.1 fun c => { c with owed := c.owed.filter fun o => decide (o.peer ≠ m) }).landFault (x.1 - 2 ^ 20)
          ((x.2.owed.filter fun o => decide (o.peer = m)).map (·.elem))
      else if x.2.kill then
        (if x.2.owed.all fun o => decide (o.peer = m) then a.endKilled x.1
         else a.modCmd x.1 fun c => { c with owed := c.owed.filter fun o => decide (o.peer ≠ m) })
      else
        let sent := x.2.owed.any (fun o => decide (o.peer = m)) && s.wasSent m o.psn
        ((a.failCmd x.1 (if sent then 8 else 7)).modCmd x.1 fun c => { c with count := if c.op = 0x31 then c.pos else o.elem }).raiseAsync (taskOfCmd x.1) (if sent then .rmtUnknown else .rmtUnreach)
          (cmdInfo m x.1)) s

/-- MSEND commands with message packets to a peer that are not acknowledged. -/
def Peer.sending (p : Peer) : List (Nat × Bool) :=
  p.out.filterMap fun k => match k.body with
    | .message _ _ _ _ _ _ _ _ cmd _ _ => some (cmd, decide (0 < k.sends) && !k.refused)
    | _ => none

/-- End sends to a peer: those that have not completed end with kind 7 or 8, and an eager send that has completed raises
RMT_UNKNOWN alone; where an APPLY drops the member and none of its packets stands sent, RMT_UNREACH, as the message was not delivered (R415,
R416; DESIGN CHOICE, log 96). A request-to-send whose header has been acknowledged ends with kind 7 where an APPLY drops the member (R416), and with
kind 8 where the member has become unreachable. -/
def State.endSends (s : State) (m : Nat) (dropped : Bool) : State :=
  let l := (s.fab.peer m).sending
  let live := s.cmds.filter fun x =>
    decide (x.1 < 2 ^ 20) && decide (x.2.op = 0x31) && x.2.live && !x.2.mdesc.isEmpty && decide (sdMod x.2.mdesc = m) && !x.2.mdone
  let s1 := live.foldl (fun a x =>
    let sent := x.2.sent && ((!dropped && !l.any (fun y => decide (y.1 = x.1))) || l.any fun y => decide (y.1 = x.1) && y.2)
    (a.failCmd x.1 (if sent then 8 else 7)).raiseAsync (taskOfCmd x.1) (if sent then .rmtUnknown else .rmtUnreach) (cmdInfo m x.1)) s
  ((l.map (·.1)).eraseDups.filter fun c => !(live.map (·.1)).contains c).foldl (fun a c =>
    a.raiseAsync (taskOfCmd c) (if dropped && !l.contains (c, true) then .rmtUnreach else .rmtUnknown) (cmdInfo m c)) s1

/-- End landings that wait for bytes from a peer. -/
def State.endLandings (s : State) (m : Nat) : State :=
  s.rx.entries.foldl (fun a x =>
    match x.2.msg with
    | some g =>
      if decide (g.peer = some m) && x.2.fin.isNone && decide (g.arrived < x.2.landBytes g) then
        a.landStop x.1 []
      else a
    | none => a) s

/-- End the requests that were sent on to a peer (R360): one that has not been sent is refused; one that has is answered no more, whether it
was performed or not (DESIGN CHOICE, log 54). -/
def State.endForwards (s : State) (m : Nat) : State :=
  let l := s.fab.fwd.filter fun f => decide (f.to_ = m)
  let s1 : State := { s with fab := { s.fab with fwd := s.fab.fwd.filter fun f => decide (f.to_ ≠ m) && decide (f.src ≠ m) } }
  l.foldl (fun a f =>
    if s.wasSent m f.toPsn then a.modPeer f.src fun p => { p with answers := p.answers.filter fun x => decide (x.1 ≠ f.psn) }
    else a.answerPeer f.src f.psn (.response f.psn 2 none [])) s1

/-- A peer can no longer be reached, or leaves the group: everything to it ends. -/
def State.endPeer (s : State) (m : Nat) (dropped : Bool) : State :=
  ((((((s.endReqs m).endWaiting m).endForwards m).endOwed m).endSends m dropped).endLandings m).modPeer m fun p =>
    { p with unreachable := true, out := [], ctl := [], notices := [], granted := [] }

/-- Where an access is held up as it would go to a module that cannot be reached: its element and address, and whether it writes. -/
def Tried.lost {α : Type} : Tried α → Option (Nat × Nat × Bool)
  | .held (.fault 7) j va wr => some (j, va, wr)
  | _ => none

/-- A write that is to be made again would go to such a module. -/
def State.redoLost (s : State) (core cm : Nat) (r : Redo) : Option (Nat × Nat × Bool) :=
  match s.resendWrite core cm r with
  | .error (.fault 7) => some (r.elem, r.va, true)
  | _ => none

/-- The next access of a stream or an MSEND, under the translations that it holds, goes to a module that cannot be reached (R405): whether its
engine could make it now is not asked. -/
def State.nextLost (s : State) (cm : Nat) : Option (Nat × Nat × Bool) :=
  let c := s.cmd cm
  let core := coreOf (taskOfCmd cm)
  let rd (l : List Piece) : Option (Nat × Nat × Bool) := (s.readPieces core c (hSpace c.h) l 0).lost
  let wr (h : Handle) (l : List Put) : Option (Nat × Nat × Bool) := (s.planPuts core c (hSpace h) l).lost
  let copy : Option (Nat × Nat × Bool) :=
    match if c.op = 7 then .got 0 else s.readPieces core c (hSpace c.h) (c.spec.elemPieces c.pos) 0 with
    | .got _ => wr c.outSpec.h (c.outSpec.puts c.pos 0)
    | t => t.lost
  match c.redo with
  | r :: _ => s.redoLost core cm r
  | [] =>
    if c.units ≤ c.pos then none
    else match c.op with
      | 0x31 => if c.mdesc.isEmpty then none else (s.readPayload cm c.pos).lost
      | 1 => wr c.h (c.spec.unitPuts c.pos 0)
      | 4 => wr c.h (c.spec.unitPuts c.pos 0)
      | 5 => none
      | 2 => copy
      | 7 => copy
      | 3 => if c.o.port = 0x7F then copy else rd (c.spec.elemPieces c.pos)
      | 0 => rd (c.spec.pieces c.pos)
      | 6 => rd (if c.byElem then c.spec.elemPieces c.pos else c.spec.pieces c.pos)
      | _ => none

/-- The next write of a landing goes to such a module. -/
def State.landLost (s : State) (e : Nat) : Option (Nat × Nat × Bool) :=
  let en := s.entry e
  let core := coreOf en.task
  match en.msg, (s.cmd (landKey e)).redo with
  | none, _ => none
  | some _, r :: _ => s.redoLost core (landKey e) r
  | some m, [] =>
    if !en.delivering || en.fin.isSome || en.landed m then none
    else (s.planPuts core (s.cmd (landKey e)) (hSpace en.h) ((plainWalk en.h).puts (en.pat.eoff + en.got) 0)).lost

/-- A stream or an MSEND ends as its next access would go to a module that cannot be reached; the puller of an MSEND's bytes learns it. -/
def State.loseCmd (s : State) (cm : Nat) (x : Nat × Nat × Bool) : State :=
  let c := s.cmd cm
  if c.op = 0x31 then
    let s1 := s.sendHold cm (.fault 7) x.1 x.2.1
    match c.pull with
    | some (p, e, _) => if s.reachable p then s1.toPeer p 4 fun psn => .pullData psn e c.pos false [] else s1
    | none => s1
  else s.hold cm (.fault 7) x.1 x.2.1 x.2.2

/-- Streams, MSENDs and landings whose next packet would go to a module that can no longer be reached end, whether they are held, paused or
frozen (R405, R416). -/
def State.loseHeld (s : State) : State :=
  let s1 := s.cmds.foldl (fun a x =>
    let c := a.cmd x.1
    if x.1 < 2 ^ 20 ∧ c.live ∧ !c.kill then (match a.nextLost x.1 with | some y => a.loseCmd x.1 y | none => a) else a) s
  s1.rx.entries.foldl (fun a x => if (a.landLost x.1).isSome then a.landFault x.1 else a) s1

/-- A member becomes unreachable (R419). -/
def State.losePeer (s : State) (m : Nat) : State := (s.endPeer m false).loseHeld

/-! ## Records in own HBM (R396, R409) -/

/-- Bytes of the module's own HBM at device virtual addresses; none as soon as one's page is not there (TGT 0). -/
def State.hbmBytes (s : State) : Nat → Nat → Option (List Byte)
  | _, 0 => some []
  | a, n + 1 =>
    match s.hbmPlace a false with
    | some o => (s.hbmBytes (a + 1) n).map (s.mem.byte (place .hbm o) :: ·)
    | none => none

/-! ## Commands (R396, R397, R409, R413-R416) -/

/-- A command is refused: ERR, and nothing else. -/
def State.cmdRefused (s : State) : State := { s with fab := { s.fab with err := true } }

/-- A group table. -/
structure Table where
  group : Nat
  port : Nat
  epoch : Nat
  ports : List Nat
  sched : List Nat
  deriving DecidableEq, Repr

/-- A table that APPLY accepts after the one applied (R396). -/
def Fabric.tableOf (f : Fabric) (l : List Byte) : Option Table :=
  let ports := (List.range 1024).map fun p => leAt l (16 + 2 * p) 2
  let sched := (List.range 1024).map fun i => leAt l (2064 + 2 * i) 2
  let t : Table := ⟨leAt l 4 2, leAt l 6 2, leAt l 8 4, ports, sched⟩
  let members := ports.filter (· ≠ 0xFFFF)
  if leAt l 0 4 = 0x51464754 ∧ leAt l 12 4 = 0 ∧ t.group ≠ 0 ∧ (!f.applied ∨ f.epoch < t.epoch) ∧ t.port < 1024 ∧
      ports.getD t.port 0xFFFF ≠ 0xFFFF ∧ allDiffer members ∧
      (sched.all fun e => decide (e = 0xFFFF) || (decide (e ≠ t.port) && decide (ports.getD e 0xFFFF ≠ 0xFFFF))) ∧
      ((List.range 1024).all fun p => decide (ports.getD p 0xFFFF = 0xFFFF) || decide (p = t.port) || sched.contains p) then some t
  else none

/-- Expected sequence numbers of the sources of the module at a switch port start from 0 (R180, R183). While RXCTL.EN is 0 the engine is not in
use, and writes nothing: what the table then holds is firmware's, as before EN is set (DESIGN CHOICE, log 97). -/
def State.zeroSeqs (s : State) (port : Nat) : State :=
  if !s.rxOn then s
  else (List.range 1024).foldl (fun s t =>
    let va := s.rxBase + 4 * (1024 * port + t)
    match s.rxPlace va true with
    | some pa => s.writeLE .hbm pa 4 0
    | none => if s.rxOn then s.rxFail va true else s) (s.noteWalks (s.rxBase + 4096 * port))

/-- The expected sequence numbers of a switch port's sources, as bytes of the region; none where the row does not translate. -/
def State.seqRow (s : State) (port : Nat) : Option (List Byte) :=
  (s.hbmPlace (s.rxBase + 4096 * port) false).map fun pa => s.read .hbm pa 4096

/-- A member's row of the reorder table goes to its new port (R416): where a row does not translate, the engine fails there (R183). -/
def State.moveRow (s : State) (old new : Nat) (row : Option (List Byte)) : State :=
  if !s.rxOn then s
  else match row, s.rxPlace (s.rxBase + 4096 * new) true with
    | some l, some pa => ((s.noteDva (s.rxBase + 4096 * old) 4096).noteWalks (s.rxBase + 4096 * new)).write .hbm pa l
    | none, _ => s.rxFail (s.rxBase + 4096 * old) false
    | _, none => s.rxFail (s.rxBase + 4096 * new) true

/-- Message counts to a module start from 0 (R180). -/
def State.zeroSends (s : State) (m : Nat) : State :=
  { s with rx := { s.rx with sendSeq := s.rx.sendSeq.filter fun x => decide (x.1 / 1024 ≠ m) } }

/-- A member leaves the group (R180, R416). -/
def State.dropMember (s : State) (m : Nat) : State :=
  let s1 := ((s.endPeer m true).zeroSends m).zeroSeqs (s.fab.ports.idxOf m)
  { s1 with
    fab := { s1.fab with
      peers := Sparse.set {} s1.fab.peers m {}
      heldq := s1.fab.heldq.filter fun h => decide (h.peer ≠ some m) }
    rx := { s1.rx with
      hold := s1.rx.hold.filter fun g => decide (g.src / 1024 ≠ m)
      refusing := s1.rx.refusing.filter fun x => decide (x.1 / 1024 ≠ m) } }

/-- Members that an accepted table keeps at another switch port, with their old port and their new one. -/
def State.movedMembers (s : State) (t : Table) : List (Nat × Nat) :=
  let own := t.ports.getD t.port 0xFFFF
  ((s.fab.members.filter fun m => t.ports.contains m && (decide (m ≠ own) || decide (m = s.fab.modid))).map fun m =>
    (s.fab.ports.idxOf m, t.ports.idxOf m)).filter fun x => decide (x.1 ≠ x.2)

/-- APPLY of an accepted table. The sources of a member that stays keep their expected SEQs, at its port (R416). -/
def State.applyTable (s : State) (t : Table) : State :=
  let old := s.fab.members
  let new := t.ports.filter (· ≠ 0xFFFF)
  let own := t.ports.getD t.port 0xFFFF
  let s1 := (old.filter fun m => !new.contains m && decide (m ≠ s.fab.modid)).foldl State.dropMember s
  let rows := (s.movedMembers t).map fun x => (x.1, x.2, s1.seqRow x.1)
  let s2 : State := { s1 with fab := { s1.fab with
    modid := own, group := t.group, port := t.port, epoch := t.epoch, ports := t.ports, sched := t.sched, applied := true, err := false
    fibres := Sparse.mapAll {} (fun _ (x : Fibre) => { x with authfail := 0 }) s1.fab.fibres
    peers := Sparse.mapAll {} (fun _ (p : Peer) => { p with unreachable := false, silent := 0 }) s1.fab.peers } }
  let s3 := rows.foldl (fun s x => s.moveRow x.1 x.2.1 x.2.2) s2
  (new.filter fun m => !old.contains m || (decide (m = own) && decide (m ≠ s.fab.modid))).foldl (fun s m =>
    ((if m = own then s else { s with fab := { s.fab with peers := Sparse.set {} s.fab.peers m {} } }).zeroSends m).zeroSeqs
      (t.ports.idxOf m)) s3

/-- APPLY (R396, R416). -/
def State.apply (s : State) : State :=
  if s.fab.st ≠ .down ∧ s.fab.st ≠ .dark then s.cmdRefused
  else match (s.hbmBytes s.fab.gtaddr 4112).bind s.fab.tableOf with
    | some t => ((s.noteDva s.fab.gtaddr 4112).applyTable t).loseHeld
    | none => (s.noteDva s.fab.gtaddr 4112).cmdRefused

def execApply (s : State) : Host.Outcome State Fault Refusal := .next s.apply

/-- A key becomes current: every transmit counter starts at 0 (R407, R409). -/
def Fabric.useKey (f : Fabric) (k : Key) : Fabric :=
  { f with cur := some k, keywarn := false, fibres := Sparse.mapAll {} (fun _ (x : Fibre) => { x with ctr := 0 }) f.fibres }

/-- KEY_ACTIVATION: at the activation cycle every transmit fibre switches to the next key (R409). -/
def State.keySwitch (s : State) : State :=
  let f := s.fab
  match f.nxt with
  | some k => if f.cycle < k.act then s else { s with fab := { f.useKey k with nxt := none, prev := f.cur } }
  | none => s

/-- KEY, judged under the keys of the rotor cycle: a switch that is due has happened (R409). -/
def State.key (s : State) : State :=
  let s := s.keySwitch
  let f := s.fab
  let l := s.hbmBytes f.keyaddr 80
  let s := s.noteDva f.keyaddr 80
  match l with
  | none => s.cmdRefused
  | some l =>
    let k : Key := ⟨leAt l 0 4, part l 16 64, leAt l 8 8⟩
    let newer := match f.cur with | some c => decide (c.epoch < k.epoch) | none => true
    if !newer then s.cmdRefused
    else match f.st with
      | .down => { s with fab := { f.useKey k with nxt := none, prev := none, err := false } }
      | .dark => { s with fab := { f.useKey k with nxt := none, prev := none, err := false } }
      | .isOpen => if k.act < f.cycle + 64 then s.cmdRefused else { s with fab := { f with nxt := some k, err := false } }
      | _ => s.cmdRefused

def execKey (s : State) : Host.Outcome State Fault Refusal := .next s.key

/-- LOCK (R397, R413): every fibre is measured again, with its shed wavelengths (R417). -/
def State.lock (s : State) : State :=
  let f := s.fab
  if (f.st ≠ .down ∧ f.st ≠ .dark) ∨ !f.applied ∨ f.cur.isNone then s.cmdRefused
  else { s with fab := { f with
    st := .locking, err := false, lockCycle := none
    fibres := Sparse.mapAll {} (fun _ (x : Fibre) =>
      { x with txl := 8, txdead := false, rxdead := false, told := false, heard := false, shed := 0 }) f.fibres } }

def execLock (s : State) : Host.Outcome State Fault Refusal := .next s.lock

/-- OPEN (R413): markers start anew, what was refused while draining is sent again, and what was held is sent. -/
def State.openFab (s : State) : State :=
  let f := s.fab
  if f.st = .ready ∨ f.st = .drained then
    { s with fab := { f with
      st := .isOpen, err := false
      peers := Sparse.mapAll {} (fun _ (p : Peer) =>
        { p with marked := false, marker := false, silent := 0
                 out := p.out.map fun (k : Packet) => if k.refused || decide (k.sends = 0) then { k with due := true } else k }) f.peers } }
  else s.cmdRefused

def execOpen (s : State) : Host.Outcome State Fault Refusal := .next s.openFab

/-- Packets of a peer that are queued: to be sent, and not refused. -/
def Peer.queued (p : Peer) : List Packet := p.out.filter fun (k : Packet) => k.due && !k.refused

/-- Everything for the peer has left (R415). -/
def Peer.drainedOut (p : Peer) : Bool := p.queued.isEmpty && p.ctl.isEmpty && p.relay.isEmpty

/-- Set MARKER towards the members whose queues are empty, after one full rotor cycle; the drain completes when every marker is set and
received and every packet that was sent is answered or refused (R415). -/
def State.drainCheck (s : State) : State :=
  let f := s.fab
  if f.st ≠ .draining ∨ f.cycle < f.drainFrom + 2 then s
  else
    let ms := f.members.filter (· ≠ f.modid)
    let s1 := ms.foldl (fun s m => s.modPeer m fun p => { p with marked := p.marked || p.drainedOut }) s
    if ms.all fun m => let p := s1.fab.peer m; p.marked && p.marker && p.out.all fun (k : Packet) => k.refused || decide (k.sends = 0) then
      { s1 with fab := { s1.fab with st := .drained } }
    else s1

/-- DRAIN (R413-R415). -/
def State.drainFab (s : State) : State :=
  if s.fab.st = .isOpen then
    { s with fab := { s.fab with
      st := .draining, err := false, drainFrom := s.fab.cycle
      peers := Sparse.mapAll {} (fun _ (p : Peer) => { p with marked := false }) s.fab.peers } }.drainCheck
  else s.cmdRefused

def execDrain (s : State) : Host.Outcome State Fault Refusal := .next s.drainFab

/-- A fibre has locked: control flits have been exchanged on it (R397). -/
def Fibre.locked (x : Fibre) : Bool := x.told && x.heard

/-- DARK (R413): the drain is over (R415). -/
def State.darkFab (s : State) : State :=
  if s.fab.st = .ready ∨ s.fab.st = .drained then
    { s with fab := { s.fab with
      st := .dark, err := false, peers := Sparse.mapAll {} (fun _ (p : Peer) => { p with marked := false, marker := false }) s.fab.peers } }
  else s.cmdRefused

def execDark (s : State) : Host.Outcome State Fault Refusal := .next s.darkFab

/-- LOCK_COMPLETE (R397): a fibre that has not locked is dead. -/
def State.lockDone (s : State) : State :=
  let f := s.fab
  if f.st = .locking ∧ f.fibres.any (fun x => x.2.locked) then
    { s with fab := { f with
      st := .ready, cycle := f.lockCycle.getD f.cycle, lockCycle := none
      fibres := (List.range 64).foldl (fun m i =>
        let x : Fibre := Sparse.get {} m i
        if x.locked then m else Sparse.set {} m i { x with txdead := true, rxdead := true }) f.fibres } }
  else s

def execLockComplete (s : State) : Host.Outcome State Fault Refusal := .next s.lockDone

/-! ## Wavelengths (R408, R412, R417, R418) -/

def Fabric.fibre (f : Fabric) (i : Nat) : Fibre := Sparse.get {} f.fibres i

/-- Fibres that carry light in the present state. -/
def Fabric.lit (f : Fabric) : List Fibre :=
  let l := (List.range 64).map f.fibre
  match f.st with
  | .down => []
  | .dark => []
  | .locking => l.filter (·.locked)
  | _ => l

/-- LIVE.TXL and LIVE.RXL. -/
def Fabric.txLive (f : Fabric) : Nat :=
  ((f.lit.filter fun x => !x.txdead && decide (x.ctr < 2 ^ 48)).map fun x => 8 * x.txl).sum
def Fabric.rxLive (f : Fabric) : Nat := ((f.lit.filter fun x => !x.rxdead).map fun x => 8 * x.rxl).sum

/-! ## Health registers (R431, R432) -/

/-- HCTL: SNAP copies, CLR clears, in that order. The samples of this cycle are in neither: they come after (R432). -/
def State.hctl (s : State) (snap clr : Bool) : State :=
  let h := s.health
  let h1 := if snap then { h with snap := h.live, snapTime := s.cycle } else h
  { s with health := if clr then { h1 with live := [] } else h1 }

def execHctlSnap (s : State) : Host.Outcome State Fault Refusal := .next (s.hctl true false)
def execHctlClr (s : State) : Host.Outcome State Fault Refusal := .next (s.hctl false true)

/-- The snapshot bank and SNAPTIME, by offset from 0xFFFF_FF00_1000. -/
def State.healthRead (s : State) (o : Nat) : Nat :=
  if o = 0xF08 then s.health.snapTime % 2 ^ 64
  else if 22 ≤ o / 128 then 0
  else
    let m : Monitor := Sparse.get {} s.health.snap (o / 128)
    let w := o % 128 / 8
    if w = 0 then m.min + m.max * 2 ^ 32
    else if w ≤ 8 then Sparse.get 0 m.buckets (2 * (w - 1)) + Sparse.get 0 m.buckets (2 * (w - 1) + 1) * 2 ^ 32
    else 0

/-! ## Fabric registers (R411, R412) -/

/-- Number of a fabric state. -/
def fabCode : FabState → Nat
  | .down => 0 | .locking => 1 | .ready => 2 | .isOpen => 3 | .draining => 4 | .drained => 5 | .dark => 6

/-- The 8-byte register at an offset from 0xFFFF_FF00_0000, under the keys of the rotor cycle (R409). -/
def State.regRead (s : State) (o : Nat) : Nat :=
  let f := s.keySwitch.fab
  if 0x1000 ≤ o then s.healthRead (o - 0x1000)
  else match o with
    | 0x000 => f.modid * 2 ^ 48 + f.members.length * 2 ^ 32 + f.group * 2 ^ 16 + b2n f.keywarn * 16 + b2n f.err * 8 + fabCode f.st
    | 0x010 => f.gtaddr
    | 0x018 => f.keyaddr
    | 0x020 => f.rxLive * 2 ^ 16 + f.txLive
    | 0x028 => f.cycle % 2 ^ 64
    | 0x030 => f.region
    | _ =>
      if 0x100 ≤ o ∧ o < 0x300 then
        let x := f.fibre ((o - 0x100) / 8)
        x.authfail * 2 ^ 16 + b2n x.rxdead * 128 + (x.rxl - 1) * 16 + b2n x.txdead * 8 + (x.txl - 1)
      else 0

/-- FABCMD (R412): another code has no effect. -/
def State.fabCmd (s : State) (v : Nat) : State :=
  if 16 ≤ v then s.cmdRefused
  else match v with
    | 1 => s.apply
    | 2 => s.key
    | 3 => s.lock
    | 4 => s.openFab
    | 5 => s.drainFab
    | 6 => s.darkFab
    | _ => s

/-- A write of the register at an offset. -/
def State.regWrite (s : State) (o v : Nat) : State :=
  if o = 0x1F00 then (if 4 ≤ v then s else s.hctl (bitB v 0) (bitB v 1))
  else match o with
    | 0x008 => s.fabCmd v
    | 0x010 => { s with fab := { s.fab with gtaddr := v % 2 ^ 48 } }
    | 0x018 => { s with fab := { s.fab with keyaddr := v % 2 ^ 48 } }
    | 0x030 => if s.fab.st = .down then { s with fab := { s.fab with region := v % 2 ^ 48 / 2 ^ 21 * 2 ^ 21 } } else s
    | _ => s

end Sys2Proof.Machine
end

