-- ==== Sys2Proof/Machine/Remote.lean ====
section
/-! DEFINITION. Remote requests: how a request performs at the module that serves it, the hold queues of migrating pages, the sending
of fq requests and the arrival of responses in fr (spec/05_cw_slice_control_isa.md R154, R155; spec/09_cw_memory_model.md R305;
spec/15_dw_translation_faults.md R361, R365, R366; spec/18_fo_regroup_program.md R421; spec/17_fo_rotor_fabric.md R405, R411). -/

namespace Sys2Proof.Machine

/-! ## Performing a request -/

/-- What became of a request at the module that serves it. -/
inductive Served where
  /-- Performed, with the old value or the line that it read. -/
  | done (old : Option Nat) (line : List Byte) (s : State)
  | refused
  /-- Its page is not present: an fq request is refused, a stream pauses (R53, R155). -/
  | absent
  /-- A request to a migrating page, by page address (R365). -/
  | hold (page : Nat)
  /-- It belongs to another module's memory, at an address there (R360). -/
  | forward (m a : Nat)

/-- Response words that a request may owe. -/
def respWords (op : Nat) : Nat := if op = 1 ∨ 12 ≤ op then 1 else 2

/-- Perform an operation on n bytes of a storage. -/
def State.doRequest (s : State) (sp : Space) (o : Nat) (op n : Nat) (data : List Nat) : Nat × State :=
  let old := s.readLE sp o n
  let x := data.headD 0 % 2 ^ (8 * n)
  let xe := data.getD 1 0 % 2 ^ (8 * n)
  let s1 := if decide (op = 1) || decide (sp ≠ .hbm) then s else s.hbmRead o n
  match (if op = 0 then none else if op = 1 then some x else atomicNew (op - 2) n old x xe) with
  | some v => (old, s1.writeLE sp o n v)
  | none => (old, s1)

/-- A held request has the same source task and an address in common (R365): a stream's source is the task that issued it. -/
def sameSource (peer : Option Nat) (task addr n : Nat) (h : HeldReq) : Bool :=
  decide (h.peer = peer) && (match h.body with
    | .request _ t c a _ => decide (t = task) && decide (a < addr + n) && decide (addr < a + ctlSize c)
    | .stream _ t a _ => decide (t / 16 = task) && decide (a < addr + n) && decide (addr < a + 64)
    | _ => false)

/-- The page whose hold queue has the last request of a source to some of n bytes (R365). -/
def State.heldBefore (s : State) (peer : Option Nat) (task addr n : Nat) : Option Nat :=
  (s.fab.heldq.reverse.find? (sameSource peer task addr n)).map (·.page)

/-- A request of n bytes, to be performed by `act` where it translates. A write to a migrating page is held. A page of the module's own as
a peer is translated again as an arriving request's; another module's is sent on (R360, R365, R411). -/
def State.servePage (s : State) (n : Nat) (wr : Bool) (act : Space → Nat → Option Nat × List Byte × State) : Nat → Via → Nat → Served
  | k, via, addr =>
    let go (l : Leaf) : Served :=
      match l.target addr, k with
      | (0, a), _ => let r := act .hbm a; .done r.1 r.2.1 r.2.2
      | (1, a), _ => let r := act .host a; .done r.1 r.2.1 r.2.2
      | (_, a), k =>
        if bits l.entry 48 16 ≠ s.fab.modid then .forward (bits l.entry 48 16) a
        else if inRegs a then .refused
        else match k with
          | 0 => .refused
          | k + 1 => s.servePage n wr act k .peer a
    match (s.walk [] addr).1.judge wr via with
    | .notPresent => .absent
    | .prot => .refused
    | .mig l => if wr then .hold l.base else go l
    | .ok l => go l

/-- A request of a source: whatever follows a held request of the same source to the same address is held behind it. -/
def State.serveAt (s : State) (peer : Option Nat) (task addr n : Nat) (wr : Bool)
    (act : Space → Nat → Option Nat × List Byte × State) : Served :=
  match s.heldBefore peer task addr n with
  | some page => .hold page
  | none => s.servePage n wr act ownHops (if peer.isSome then .peer else .stream) addr

/-- Serve an fq request: control word, address, data (R154, R155, R411). -/
def State.serve (s : State) (peer : Option Nat) (task ctl addr : Nat) (data : List Nat) : Served :=
  let op := ctlOp ctl
  let n := ctlSize ctl
  if inRegs addr then
    if decide (peer = none) && isMgmt (coreOf task) && decide (n = 8) && decide (op ≤ 1) then
      (if op = 0 then .done (some (s.regRead (addr - 0xFFFFFF000000))) [] s
       else .done none [] (s.regWrite (addr - 0xFFFFFF000000) (data.headD 0 % 2 ^ 64)))
    else .refused
  else s.serveAt peer task addr n (decide (op ≠ 0)) fun sp a =>
    let r := s.doRequest sp a op n data
    (if op = 1 then none else some r.1, [], r.2)

/-- Serve a stream's access of a 64-byte line: a read of the line, or a write of some of its bytes (R401). -/
def State.serveLine (s : State) (peer : Option Nat) (key addr : Nat) (wr : Option (List (Nat × Byte))) : Served :=
  if inRegs addr then .refused
  else s.serveAt peer (key / 16) addr 64 wr.isSome fun sp a =>
    match wr with
    | none => (none, s.read sp a 64, if sp = .hbm then s.hbmRead a 64 else s)
    | some l => (none, [], l.foldl (fun s x => s.write sp (a + (x.1 - addr)) [x.2]) s)

/-- The samples of the walk for a request (R430). -/
def State.noteServe (s : State) (addr : Nat) : State := if inRegs addr then s else s.noteWalks addr

/-- A watch on an fq request of this module's at its device virtual address (R288, R380). -/
def State.watchFq (s : State) (tk ctl addr : Nat) : State :=
  s.watch (coreOf tk) (ctxOf tk) (some tk) 2 0 addr (ctlSize ctl) (decide (ctlOp ctl ≠ 1)) (decide (ctlOp ctl ≠ 0))

/-- The hold queue of a page has room (R365). -/
def State.holdRoom (s : State) (page : Nat) : Bool :=
  let ps := s.fab.heldq.map (·.page)
  decide ((ps.filter (· = page)).length < 256) && (ps.contains page || decide (ps.eraseDups.length < 64))

/-- A request joins a page's hold queue. -/
def State.holdReq (s : State) (page : Nat) (peer : Option Nat) (body : PacketBody) : State :=
  { s with fab := { s.fab with heldq := s.fab.heldq ++ [⟨page, peer, body⟩] } }

/-! ## Responses of requests of this module -/

/-- The response to request num of a task is known. -/
def State.answerReq (s : State) (tk num status : Nat) (old : Option Nat) : State :=
  s.modTask tk fun t => { t with reqs := t.reqs.map fun (r : Req) => if r.num = num then { r with heldPage := false, resp := some (status, old) } else r }

/-- A held request of this module's own now belongs to another module's memory: it is sent there (R360, R366). -/
def State.sendHeld (s : State) (task num m a : Nat) (body : PacketBody) : State :=
  match (s.task task).reqs.find? (fun r => decide (r.num = num)) with
  | none => s
  | some r =>
    if !s.reachable m then s.endReq task { r with target := m } false
    else
      let psn := (s.fab.peer m).nextPsn
      (s.modTask task fun t => { t with reqs := t.reqs.map fun (r : Req) =>
        if r.num = num then { r with heldPage := false, target := m, psn := some psn } else r }).toPeer m 1 fun q => moveBody q a body

/-- A held request has been served again, with `done` where it was performed and `bad` where it was not (R366). -/
def State.serveAgain (s : State) (h : HeldReq) (done : State → Option Nat → List Byte → State) (bad : State → Nat → State) : Served → State
  | .done old line s1 => done s1 old line
  | .hold page => s.holdReq page h.peer h.body
  | .forward t a =>
    (match h.peer, h.body with
      | none, .request num task _ _ _ => s.sendHeld task num t a h.body
      | some m, .request psn _ _ _ _ => if s.reachable t then s.forwardReq m psn t a h.body else bad s 2
      | some m, .stream psn _ _ _ => if s.reachable t then s.forwardReq m psn t a h.body else bad s 2
      | _, _ => s)
  | .absent => bad s 3
  | .refused => bad s 2

/-- A held request is served again (R366). -/
def State.serveHeld (s : State) (h : HeldReq) : State :=
  match h.peer, h.body with
  | none, .request num task ctl addr data =>
    let s1 := s.noteServe addr
    s1.serveAgain h (fun s old _ => (s.watchFq task ctl addr).answerReq task num 0 old) (fun s _ => s.answerReq task num 2 none)
      (s1.serve none task ctl addr data)
  | some m, .request psn task ctl addr data =>
    let s1 := s.noteServe addr
    s1.serveAgain h (fun s old _ => s.answerPeer m psn (.response psn 0 old [])) (fun s _ => s.answerPeer m psn (.response psn 2 none []))
      (s1.serve (some m) task ctl addr data)
  | some m, .stream psn key addr wr =>
    let s1 := s.noteServe addr
    s1.serveAgain h (fun s _ line => s.answerPeer m psn (.response psn 0 none line)) (fun s st => s.answerPeer m psn (.response psn st none []))
      (s1.serveLine (some m) key addr wr)
  | _, _ => s

/-- MIGRELH: the requests held at a page are translated again, in arrival order (R366). -/
def State.releasePage (s : State) (page : Nat) : State :=
  let q := s.fab.heldq
  (q.filter fun h => decide (h.page = page)).foldl State.serveHeld
    { s with fab := { s.fab with heldq := q.filter fun h => decide (h.page ≠ page) } }

/-- The status with which a request is answered that found no page: a stream's tells it from a refusal, so that the stream pauses (R53;
DEDUCED, log 55). -/
def absentStatus : PacketBody → Nat
  | .stream _ _ _ _ => 3
  | _ => 2

/-! ## FQ_REQUEST_SEND (R155, R305, R405) -/

/-- Response words that requests owe to fr. -/
def Task.owedWords (t : Task) : Nat := (t.reqs.map fun r => respWords r.op).sum

/-- The task's next request may leave fq: fr has room for its response, an acquire among the requests before it has its response, what it comes
after in the task's port has performed, and a release waits for every earlier request (R155, R295, R298, R305). -/
def Task.mayLeave (t : Task) (ctl num : Nat) : Bool :=
  let bad := decide (4 ≤ ctlOrd ctl)
  decide (t.fr.length + t.owedWords + respWords (ctlOp ctl) ≤ 16) &&
  !(t.reqs.any fun r => decide (r.ord = 1) || decide (r.ord = 3)) &&
  (bad || !(t.port.any fun a => match a.kind with | .mark n _ => decide (n = num) | _ => false)) &&
  (bad || decide (ctlOrd ctl < 2) || t.reqs.isEmpty)

/-- The words of the task's next request leave fq and it is outstanding. -/
def State.leaveFq (s : State) (tk : Nat) (r : Req) (n : Nat) : State :=
  s.modTask tk fun t => { t with fq := t.fq.drop n, reqs := t.reqs ++ [r], gone := t.gone.filter fun k => decide (r.num < k) }

/-- A request to another module is queued as a packet, or ends unreachable, or waits in fq. -/
def State.sendRemote (s : State) (tk m ctl addr : Nat) (data : List Nat) (r : Req) (n : Nat) : State :=
  if !s.reachable m then (s.leaveFq tk { r with target := m } n).endReq tk { r with target := m } false
  else if !s.canSend m then s
  else
    let psn := (s.fab.peer m).nextPsn
    (s.leaveFq tk { r with target := m, psn := some psn } n).toPeer m 1 fun p => .request p tk ctl addr data

/-- Requests leave the task's fq: its core runs, or its field is being pre-empted and a return or an access of the task waits for
responses (R73, R373). -/
def State.fqRuns (s : State) (tk : Nat) : Bool :=
  s.pumpRuns (coreOf tk) ||
  (match s.fieldOf (coreOf tk) with
    | some f => (s.field f).runs && (!(s.task tk).rsyns.isEmpty || !(s.task tk).port.isEmpty)
    | none => false)

/-- FQ_REQUEST_SEND: the oldest request in the task's fq. A request whose words are not all there waits. -/
def State.fqSend (s : State) (tk : Nat) : State :=
  let t := s.task tk
  match t.fq with
  | [] => s
  | w :: _ =>
    let ctl := w.toNat
    let n := reqLen w
    let num := t.fqNums.headD t.reqNo
    let words := t.fq.take n
    let aw := (words.getD 1 0).toNat
    let addr := aw % 2 ^ 48
    let target := aw / 2 ^ 48
    let data := (words.drop 2).map (·.toNat)
    let r : Req := ⟨num, ctlTag ctl, ctlOp ctl, ctlOrd ctl, target, words, none, false, none⟩
    if decide (t.fq.length < n) || decide (t.st = .free) || !s.fqRuns tk || !t.mayLeave ctl num then s
    else if malformed ctl aw then s.leaveFq tk { r with resp := some (1, none) } n
    else if target = s.fab.modid then
      let s0 := s.noteServe addr
      match s0.serve none tk ctl addr data with
      | .done old _ s1 => (s1.watchFq tk ctl addr).leaveFq tk { r with resp := some (0, old) } n
      | .refused => s0.leaveFq tk { r with resp := some (2, none) } n
      | .hold page =>
        if s.holdRoom page then (s0.leaveFq tk { r with heldPage := true } n).holdReq page none (.request num tk ctl addr data) else s0
      | .forward m a => s0.sendRemote tk m ctl a data r n
      | .absent => s0.leaveFq tk { r with resp := some (2, none) } n
    else s.sendRemote tk target ctl addr data r n

def execFqRequestSend (tk : Nat) (s : State) : Host.Outcome State Fault Refusal := .next (s.fqSend tk)

/-! ## FQ_RESPONSE (R155, R305) -/

/-- FQ_RESPONSE: the oldest request whose response is known ends; its words enter fr, and what waited for it goes on. -/
def State.fqResponse (s : State) (tk : Nat) : State :=
  match (s.task tk).reqs.find? (fun r => r.resp.isSome) with
  | none => s
  | some r =>
    let st := (r.resp.getD (0, none)).1
    let words : List Word64 := BitVec.ofNat 64 (r.tag * 2 ^ 16 + st) ::
      (match (r.resp.getD (0, none)).2 with | some v => if st = 0 then [BitVec.ofNat 64 v] else [] | none => [])
    (s.modTask tk fun t =>
      Task.countEnd { t with fr := t.fr ++ words, reqs := t.reqs.filter fun x => decide (x.num ≠ r.num) } r.num (decide (st = 0))).drain tk

def execFqResponse (tk : Nat) (s : State) : Host.Outcome State Fault Refusal := .next (s.fqResponse tk)

end Sys2Proof.Machine
end

