-- ==== Sys2Proof/Machine/Rotor.lean ====
section
/-! DEFINITION. The rotor: flits sent in a slot and received, packets and their windows, relay, keys in use, and what the rotor cycle
counts (spec/17_fo_rotor_fabric.md R390-R410, R413-R419; spec/19_fo_health.md R430). -/

namespace Sys2Proof.Machine

/-! ## Flits (R392, R406, R407) -/

/-- Key (32 bytes) and salt (4 bytes) of a sender on a plane under a key epoch (R406). -/
def hopKey (k : Key) (m f : Nat) : List Byte :=
  hkdf k.secret ([0x53, 0x41, 0x48, 0x56, 0x41, 0x4E, 0x2D, 0x48, 0x4F, 0x50] ++ bytesOfNat 2 m ++ bytesOfNat 1 f ++ bytesOfNat 4 k.epoch) 36

/-- The nonce under a salt (R407). -/
def nonce (hk : List Byte) (ctr : Nat) : List Byte := hk.drop 32 ++ beBytes 8 ctr

/-- The 16 bytes of additional data of a flit. -/
def flitHead (ctr sender kind parity group : Nat) : List Byte :=
  bytesOfNat 8 ctr ++ bytesOfNat 2 sender ++ bytesOfNat 2 (kind + parity * 4) ++ bytesOfNat 4 group

/-- The 256 bytes of a flit. -/
def flitBytes (k : Key) (ctr sender fibre kind group : Nat) (payload : List Byte) : List Byte :=
  let hk := hopKey k sender fibre
  let head := flitHead ctr sender kind (k.epoch % 2) group
  let ct := gcmText (hk.take 32) (nonce hk ctr) payload
  head ++ ct ++ gcmTag (hk.take 32) (nonce hk ctr) head ct

/-! ## Packets (R393) -/

/-- n bytes, cut or filled with zeros. -/
def fill (n : Nat) (l : List Byte) : List Byte := l.take n ++ List.replicate (n - l.length) 0

/-- A packet's bytes, in whole units. -/
def packetRaw (relay : Bool) (typ src dest : Nat) (body : List Byte) : List Byte :=
  let u := min 7 ((8 + body.length + 31) / 32)
  fill (32 * u) (bytesOfNat 8 (dest + src * 2 ^ 16 + typ * 2 ^ 32 + u * 2 ^ 36 + b2n relay * 2 ^ 39) ++ body)

/-- Bytes of a queued packet: types with a PSN begin their body with it. -/
def Packet.raw (p : Packet) (relay : Bool) (src dest : Nat) : List Byte :=
  packetRaw relay p.typ src dest (bytesOfNat 4 p.psn ++ Config.packetBytes p.body)

/-- Pack packets into at most k flit payloads, from a payload begun; also how many packets went in. -/
def pack : Nat → List Byte → List (List Byte) → List (List Byte) × Nat
  | 0, _, _ => ([], 0)
  | _ + 1, cur, [] => (if cur.isEmpty then [] else [fill 224 cur], 0)
  | k + 1, cur, p :: ps =>
    if cur.length + p.length ≤ 224 then let r := pack (k + 1) (cur ++ p) ps; (r.1, r.2 + 1)
    else if k = 0 then ([fill 224 cur], 0)
    else let r := pack k p ps; (fill 224 cur :: r.1, r.2 + 1)

/-- One packet of a payload. -/
structure RawPacket where
  relay : Bool
  typ : Nat
  src : Nat
  dest : Nat
  body : List Byte
  deriving DecidableEq, Repr

/-- The packets of a data flit's payload, up to a bad one. -/
def unpack : Nat → List Byte → List RawPacket
  | 0, _ => []
  | n + 1, l =>
    let h := leAt l 0 8
    let u := bits h 36 3
    if l.length < 32 ∨ bits h 32 4 = 0 ∨ 6 ≤ bits h 32 4 ∨ u = 0 ∨ l.length < 32 * u then []
    else ⟨bitB h 39, bits h 32 4, bits h 16 16, bits h 0 16, part l 8 (32 * u - 8)⟩ :: unpack n (l.drop (32 * u))

/-! ## Pairings, capacity and grants (R394, R399) -/

/-- The module paired with this one in plane f, slot t. -/
def Fabric.pairing (f : Fabric) (fibre slot : Nat) : Option Nat :=
  let p := f.sched.getD (16 * fibre + slot) 0xFFFF
  if p = 0xFFFF then none else some (f.ports.getD p 0xFFFF)

/-- Flits of a slot on a fibre: its counter does not pass 2^48 under one key (R391, R408). -/
def Fibre.flits (x : Fibre) : Nat := if x.txdead then 0 else min (30 * x.txl) (2 ^ 48 - x.ctr)

/-- Data flits of the direct pairings with a member in one rotor cycle. -/
def Fabric.capacity (f : Fabric) (m : Nat) : Nat :=
  ((List.range 1024).map fun i =>
    if f.pairing (i / 16) (i % 16) = some m then (f.fibre (i / 16)).flits - 1 else 0).sum

/-- Relayed flits queued for a member, and grants for it that have not lapsed. -/
def Fabric.committed (f : Fabric) (d : Nat) : Nat :=
  (f.peer d).relay.length +
    (f.peers.map fun p => ((p.2.given.filter fun g => decide (g.2.2.1 = d)).map fun g => g.2.2.2).sum).sum

/-- Grants of a control flit to a source, at most n: destination and flits. -/
def Fabric.newGrants (f : Fabric) (s : Nat) (n : Nat) : List (Nat × Nat) :=
  if f.st ≠ .isOpen then []
  else ((f.members.filter fun d => decide (d ≠ f.modid) && decide (d ≠ s)).filterMap fun d =>
    let w := min (Config.grantWish f.cycle s d) (f.capacity d - f.committed d)
    if w = 0 then none else some (d, w)).take n

/-! ## ROTOR_SLOT (R391, R398, R413-R415) -/

/-- Payload of the control flit to a member. -/
def Fabric.control (f : Fabric) (x : Fibre) (p : Peer) (grants : List (Nat × Nat)) : List Byte :=
  let flags := b2n (decide (f.st = .draining)) + b2n (p.marked && (decide (f.st = .draining) || decide (f.st = .drained))) * 2 + b2n f.nxt.isSome * 4 + (x.txl - 1) * 2 ^ 8
  let es := (p.notices.take 26).map (fun n => n.1 + n.2 * 2 ^ 32) ++ grants.map fun g => 1 + g.1 * 2 ^ 16 + g.2 % 2 ^ 32 * 2 ^ 32
  fill 224 (bytesOfNat 8 f.cycle ++ bytesOfNat 4 flags ++ bytesOfNat 4 (f.cur.elim 0 (·.epoch)) ++ es.flatMap (bytesOfNat 8))

/-- Packets of a peer that may go now: at most 1,024 are unacknowledged, which are the oldest (R402). -/
def Peer.sendable (st : FabState) (p : Peer) : List Packet :=
  match st with
  | .isOpen => (p.out.take 1024).filter (·.due)
  | .draining => if p.marked then [] else (p.out.take 1024).filter fun (k : Packet) => k.due && !k.refused
  | _ => []

/-- The first n packets that are due have been sent. -/
def markSent : Nat → List Packet → List Packet
  | _, [] => []
  | n, k :: l =>
    if n ≠ 0 && k.due then { k with due := false, refused := false, sends := k.sends + 1, age := 0 } :: markSent (n - 1) l
    else k :: markSent n l

/-- The same for packets that are due and not refused. -/
def markQueued : Nat → List Packet → List Packet
  | _, [] => []
  | n, k :: l =>
    if n ≠ 0 && k.due && !k.refused then { k with due := false, sends := k.sends + 1, age := 0 } :: markQueued (n - 1) l
    else k :: markQueued n l

/-- Responses and acknowledgements may leave. -/
def Peer.sendCtl (st : FabState) (p : Peer) : List (Nat × PacketBody) :=
  if st = .isOpen ∨ (st = .draining ∧ !p.marked) then p.ctl else []

/-- A relayed flit as it stands in the relay region, where its page still translates. -/
def State.relayed (s : State) (k : Nat) : Option (List Byte) :=
  (s.hbmPlace (s.fab.region + 256 * k) false).map fun o => s.read .hbm o 224

/-- What a member is owed at once: responses and acknowledgements, then packets that may go; and the state after the first n of them. -/
def State.offered (s : State) (relay : Bool) (m : Nat) : List (List Byte) :=
  let p := s.fab.peer m
  (p.sendCtl s.fab.st).map (fun c => packetRaw relay c.1 s.fab.modid m (Config.packetBytes c.2)) ++
    (p.sendable s.fab.st).map fun k => k.raw relay s.fab.modid m

def State.sentFirst (s : State) (m n : Nat) : State :=
  let k := ((s.fab.peer m).sendCtl s.fab.st).length
  s.modPeer m fun q =>
    { q with
      ctl := q.ctl.drop (min n k), out := if s.fab.st = .isOpen then markSent (n - k) q.out else markQueued (n - k) q.out }

/-- Relayed flits for a member may leave: while it is OPEN, and while it drains until its MARKER is set (R415). -/
def Peer.sendRelay (st : FabState) (p : Peer) : List Nat := if st = .isOpen ∨ (st = .draining ∧ !p.marked) then p.relay else []

/-- Data payloads to a paired member: relayed flits, then its responses and packets; and the state with them sent. -/
def State.directData (s : State) (m room : Nat) : List (List Byte) × State :=
  let f := s.fab
  let rel := ((f.peer m).sendRelay f.st).take room
  let r := pack (room - rel.length) [] (s.offered false m)
  let s1 := (rel.foldl (fun s k => s.noteDva (f.region + 256 * k) 224) s).modPeer m fun q => { q with relay := q.relay.drop rel.length }
  (rel.filterMap s.relayed ++ r.1, s1.sentFirst m r.2)

/-- Data flits of the direct pairings with a member that are left in this rotor cycle after a slot. -/
def Fabric.directLeft (f : Fabric) (d slot : Nat) : Nat :=
  ((List.range 1024).map fun i =>
    if decide (slot < i % 16) && decide (f.pairing (i / 16) (i % 16) = some d) then (f.fibre (i / 16)).flits - 1 else 0).sum

/-- Relay payloads through a paired intermediate, under its grants for this pairing and cycle (R399): what the direct pairings left in the
cycle cannot take beside the relayed flits for the destination, those queued and those granted, and as much more as the device chooses
(R400). -/
def State.relayData (s : State) (i key room : Nat) : List (List Byte) × State :=
  if s.fab.st ≠ .isOpen ∧ (s.fab.st ≠ .draining ∨ (s.fab.peer i).marked) then ([], s)
  else
    ((s.fab.peer i).granted.filter fun g => decide (g.1 = key) && decide (g.2.1 = s.fab.cycle)).foldl (fun x g =>
      let d := g.2.2.1
      let raws := x.2.offered true d
      let need := (pack raws.length [] raws).1.length - (x.2.fab.directLeft d (key % 16) - x.2.fab.committed d)
      let r := pack (min (min g.2.2.2 (max need (Config.relayWish s.fab.cycle i d))) (room - x.1.length)) [] raws
      (x.1 ++ r.1, x.2.sentFirst d r.2)) ([], s)

/-- Send payloads on a fibre: control first, then data, then idle flits. -/
def sendFlits (k : Key) (sender group fibre slot : Nat) : Nat → Nat → List (Nat × List Byte) → List Output
  | 0, _, _ => []
  | n + 1, ctr, [] =>
    .flit fibre slot (flitBytes k ctr sender fibre 0 group (List.replicate 224 0)) :: sendFlits k sender group fibre slot n (ctr + 1) []
  | n + 1, ctr, p :: l =>
    .flit fibre slot (flitBytes k ctr sender fibre p.1 group p.2) :: sendFlits k sender group fibre slot n (ctr + 1) l

/-- A fibre sends the flits of a slot, with some payloads: its counter rises, and a control flit has been sent on it. -/
def State.slotSent (s : State) (k : Key) (fibre slot : Nat) (l : List (Nat × List Byte)) : State :=
  let x := s.fab.fibre fibre
  { s with
    fab := { s.fab with
      fibres := Sparse.modify {} s.fab.fibres fibre fun (y : Fibre) => { y with ctr := y.ctr + x.flits, told := true }
      keywarn := s.fab.keywarn || decide (2 ^ 47 ≤ x.ctr + x.flits) }
    out := s.out ++ sendFlits k s.fab.modid s.fab.group fibre slot x.flits x.ctr l }

/-- What the module sends in plane `fibre`, slot `slot` of its rotor cycle. In a slot that joins it to no module its control flit names
no entries. -/
def State.slotSend (s : State) (fibre slot : Nat) : State :=
  let f := s.fab
  let x := f.fibre fibre
  if f.st = .down ∨ f.st = .dark ∨ x.flits = 0 ∨ 64 ≤ fibre ∨ 16 ≤ slot then s
  else match f.cur, f.pairing fibre slot with
  | some k, none => s.slotSent k fibre slot [(1, f.control x {} [])]
  | some k, some m =>
      let p := f.peer m
      let key := 16 * fibre + slot
      let room := x.flits - 1
      let gs := f.newGrants m (26 - min 26 p.notices.length)
      let ctl := f.control x p gs
      let d := s.directData m room
      let r := d.2.relayData m key (room - d.1.length)
      let flits := (1, ctl) :: (d.1 ++ r.1).map fun l => (2, l)
      let s1 := r.2.modPeer m fun q =>
        { q with notices := q.notices.drop 26, given := q.given ++ gs.map fun g => (key, f.cycle + 1, g.1, g.2)
                 granted := q.granted.filter fun g => !(decide (g.1 = key) && decide (g.2.1 ≤ f.cycle)) }
      s1.slotSent k fibre slot flits
  | none, _ => s

def execKeyActivation (s : State) : Host.Outcome State Fault Refusal := .next s.keySwitch

/-- OLD_KEY_ERASE: 16 rotor cycles after the activation (R409). -/
def State.keyErase (s : State) : State :=
  match s.fab.cur with
  | some k => if s.fab.prev.isSome ∧ k.act + 16 ≤ s.fab.cycle then { s with fab := { s.fab with prev := none } } else s
  | none => s

def execOldKeyErase (s : State) : Host.Outcome State Fault Refusal := .next s.keyErase

/-- ROTOR_SLOT, under the keys of its rotor cycle: a switch or an erasure that is due has happened (R409). -/
def State.rotorSlot (s : State) (fibre slot : Nat) : State := s.keySwitch.keyErase.slotSend fibre slot

def execRotorSlot (fibre slot : Nat) (s : State) : Host.Outcome State Fault Refusal := .next (s.rotorSlot fibre slot)

/-! ## What an accepted packet does (R173, R189, R234, R402) -/

/-- What became of a packet that is next. -/
inductive Accept where
  /-- Accepted; the response to record and send, where it has one. -/
  | ok (answer : Option PacketBody) (s : State)
  /-- Accepted, and held at a migrating page. -/
  | held (s : State)
  | refuse (s : State)

/-- Bytes of an eager payload reach the message that they belong to, wherever it is. -/
def State.growMsg (s : State) (m src seq : Nat) (l : List Byte) : State :=
  let mine (g : Msg) : Bool := decide (g.peer = some m) && decide (g.src = src) && decide (g.seq = seq) && !g.rts
  let s1 := match (s.rx.eligible ++ s.rx.hold ++ s.rx.cistern).find? mine with
    | some g =>
      let x := s.moreOf g l
      let add (g : Msg) : Msg := if mine g then x.2 else g
      { x.1 with rx := { x.1.rx with
        eligible := s.rx.eligible.map add, hold := s.rx.hold.map add, cistern := s.rx.cistern.map add } }
    | none => s
  match s1.rx.entries.find? (fun x => match x.2.msg with | some g => mine g && x.2.fin.isNone | none => false) with
  | some x => (s1.grow x.1 l).landAll x.1
  | none => s1

/-- An answer of the server as a packet's outcome. A request that is sent on is answered later, like one that is held; to a module that
cannot be reached it is refused (DESIGN CHOICE, log 54). -/
def acceptServed (s : State) (m psn : Nat) (body : PacketBody) : Served → Accept
  | .done old line s1 => .ok (some (.response psn 0 old line)) s1
  | .hold page => if s.holdRoom page then .held (s.holdReq page (some m) body) else .refuse s
  | .forward t a => if s.reachable t then .held (s.forwardReq m psn t a body) else .ok (some (.response psn 2 none [])) s
  | .absent => .ok (some (.response psn (absentStatus body) none [])) s
  | .refused => .ok (some (.response psn 2 none [])) s

/-- Perform a packet from module m that is next in its window. -/
def State.acceptPacket (s : State) (m : Nat) (body : PacketBody) : Accept :=
  match body with
  | .request psn task ctl addr data =>
    let s := s.noteServe addr
    acceptServed s m psn body (s.serve (some m) task ctl addr data)
  | .stream psn key addr wr =>
    let s := s.noteServe addr
    acceptServed s m psn body (s.serveLine (some m) key addr wr)
  | .message _ src dtile ctx tag seq len kind cmd off l =>
    if off ≠ 0 then .ok none (s.growMsg m src seq l)
    else
      let r := s.takeIn ⟨src, dtile, ctx, tag, seq, len, decide (kind = 1), if kind = 1 then [] else l, cmd, some m, false, [], false, 0, 0⟩
      if r.1 then .ok none r.2 else .refuse r.2
  | .pull _ cmd e _ n =>
    let cmd := if cmd < 2 ^ 20 then (s.keptSend cmd fun c => c.sent).getD cmd else 2 ^ 23
    let c := s.cmd cmd
    if decide (c.op = 0x31) && c.live && c.sent then .ok none (s.modCmd cmd fun c => { c with pull := some (m, e, n) })
    else .ok none (s.toPeer m 4 fun p => .pullData p e 0 false [])
  | .pullData _ e _ good l =>
    match (s.entry e).msg with
    | some g =>
      if g.peer ≠ some m ∨ !(s.entry e).delivering then .ok none s
      else if good then .ok none ((((s.grow e l).modTile (coreOf (s.entry e).task) fun t => { t with tbeats := t.tbeats + 1 })).landAll e) else .ok none (s.landFault e)
    | none => .ok none s
  | .pullDone _ cmd =>
    let cmd := (s.keptSend cmd fun c => c.sent).getD cmd
    .ok none (if (s.cmd cmd).op = 0x31 then s.modCmd cmd fun c => { c with mdone := true } else s)
  | _ => .ok none s

/-! ## Windows (R402, R404) -/

/-- A notice to go in the next control flit to a member. -/
def State.notice (s : State) (m typ psn : Nat) : State := s.modPeer m fun p => { p with notices := p.notices ++ [(typ, psn)] }

/-- PSN a comes before PSN b. -/
def psnBefore (a b : Nat) : Bool := decide (a ≠ b) && decide ((b + 2 ^ 32 - a) % 2 ^ 32 < 2 ^ 31)

/-- A packet is refused, and with it the stored ones after it (R404). -/
def State.refusePsn (s : State) (m psn : Nat) : State :=
  let late (q : Nat) : Bool := psnBefore psn q
  (psn :: ((s.fab.peer m).stored.map (·.1)).filter late).foldl (fun s q => s.notice m 2 q) (s.modPeer m fun p =>
    { p with
      refusing := if p.refusing.contains psn then p.refusing else p.refusing ++ [psn]
      stored := p.stored.filter fun x => !late x.1 && decide (x.1 ≠ psn) })

/-- Recorded answers, the last 1,024: a request that is still held stays until it is answered (R402). -/
def keepAnswers (l : List (Nat × Option PacketBody)) : List (Nat × Option PacketBody) :=
  (l.take (l.length - 1024)).filter (fun x => x.2.isNone) ++ l.drop (l.length - 1024)

/-- Accept stored packets of a source, each as it becomes next. -/
def State.acceptLoop : Nat → Nat → State → State
  | 0, _, s => s
  | n + 1, m, s =>
    let p := s.fab.peer m
    match p.stored.find? (fun x => decide (x.1 = p.expect)) with
    | none => s
    | some (psn, typ, body) =>
      let s0 := s.modPeer m fun p => { p with stored := p.stored.filter fun x => decide (x.1 ≠ psn) }
      let next (s : State) (a : List (Nat × Option PacketBody)) : State := s.modPeer m fun p =>
        { p with expect := (psn + 1) % 2 ^ 32, refusing := p.refusing.filter fun r => decide (r ≠ psn)
                 answers := keepAnswers (p.answers ++ a) }
      match s0.acceptPacket m body with
      | .ok (some b) s1 => State.acceptLoop n m (((next s1 [(psn, some b)]).windowPut m psn b).replyTo m 2 b)
      | .ok none s1 => State.acceptLoop n m (if typ = 1 then next s1 [] else (next s1 []).replyTo m 5 (.ack psn))
      | .held s1 => State.acceptLoop n m ((next s1 [(psn, none)]).notice m 3 psn)
      | .refuse s1 => s1.refusePsn m psn

/-- A packet with a PSN arrives from a source: every PSN after one refused is refused until that one is accepted (R404). -/
def State.numbered (s : State) (m typ psn : Nat) (body : PacketBody) : State :=
  let p := s.fab.peer m
  let off := (psn + 2 ^ 32 - p.expect) % 2 ^ 32
  if 2 ^ 31 ≤ off then
    match p.answers.find? (fun x => decide (x.1 = psn)) with
    | some (_, some b) => s.replyTo m 2 b
    | some (_, none) => s.notice m 3 psn
    | none => if typ = 1 then s else s.replyTo m 5 (.ack ((p.expect + 2 ^ 32 - 1) % 2 ^ 32))
  else if 1024 ≤ off then s
  else if s.fab.st ≠ .isOpen then s.refusePsn m psn
  else if p.refusing.any (fun r => psnBefore r psn) then s.notice m 2 psn
  else
    let s1 := if p.stored.any (fun x => decide (x.1 = psn)) then s
      else (s.modPeer m fun p => { p with stored := p.stored ++ [(psn, typ, body)] }).windowPut m psn body
    State.acceptLoop 1024 m s1

/-! ## Responses and acknowledgements (R155, R402, R405) -/

/-- The command slot of the host aperture's accesses to peer memory. -/
def hostKey : Nat := 2 ^ 22

/-- The response to a request that was sent on goes to where the request came from (R360). -/
def State.relayAnswer (s : State) (m psn status : Nat) (old : Option Nat) (line : List Byte) : State :=
  match s.fab.fwd.find? (fun f => decide (f.to_ = m) && decide (f.toPsn = psn)) with
  | some f => { s with fab := { s.fab with fwd := s.fab.fwd.filter fun x => decide (x ≠ f) } }.answerPeer f.src f.psn
      (.response f.psn status old line)
  | none => s

/-- The write that a packet to a peer carries, to be sent again. -/
def Peer.redoOf (p : Peer) (m : Nat) (o : Owed) : List Redo :=
  match p.out.find? (fun (k : Packet) => decide (k.psn = o.psn)) with
  | some ⟨_, _, .stream _ _ a (some l), _, _, _, _, _⟩ => [⟨m, a, l, o.elem, o.va, o.dva⟩]
  | _ => []

/-- A peer has no page for an element of a command: the command pauses there, and what the packet wrote is sent again when it resumes
(R53, R218). -/
def State.peerAbsent (s : State) (cm : Nat) (o : Owed) (l : List Redo) : State :=
  let c := s.cmd cm
  let n := if c.op = 0x31 then c.pos else o.elem
  let s1 := s.modCmd cm fun c => { c with redo := c.redo ++ l }
  if c.st = .running then s1.pauseCmd cm o.line.isNone o.va n else s1.modCmd cm fun c => { c with count := min c.count n }

/-- The same for a landing (R190). -/
def State.landAbsent (s : State) (e : Nat) (o : Owed) (l : List Redo) : State :=
  let s1 := s.modCmd (landKey e) fun c => { c with redo := c.redo ++ l }
  if (s.entry e).paused then s1 else s1.landPause e o.va (some (o.elem - (s.entry e).pat.eoff))

/-- A peer refuses an element of a landing: the landing ends there, with one record (R190, R192). -/
def State.landRefused (s : State) (e : Nat) (o : Owed) : State :=
  (s.landRec e 2 o.va (some (o.elem - (s.entry e).pat.eoff))).landFault e [o.elem]

/-- A response to packet psn of this module has come from module m. -/
def State.response (s : State) (m psn status : Nat) (old : Option Nat) (line : List Byte) : State :=
  let s0 := (s.modPeer m fun p => { p with out := p.out.filter fun (k : Packet) => decide (k.psn ≠ psn) }).relayAnswer m psn status old line
  let s1 := s0.tasks.foldl (fun a x =>
    (x.2.reqs.filter fun r => decide (r.psn = some psn) && decide (r.target = m) && r.resp.isNone).foldl (fun a r =>
      a.answerReq x.1 r.num status old) a) s0
  match s1.cmds.find? (fun x => x.2.owed.any fun o => decide (o.peer = m) && decide (o.psn = psn)) with
  | none => s1
  | some (cm, c) =>
    let o := (c.owed.find? fun o => decide (o.peer = m) && decide (o.psn = psn)).getD { peer := m, psn := psn }
    let again := (s.fab.peer m).redoOf m o
    let s2 := s1.modCmd cm fun c =>
      { c with owed := c.owed.filter fun x => decide (x ≠ o)
               lines := match o.line with
                 | some a => if status = 0 then c.lines ++ [(m, a, line)] else c.lines
                 | none => c.lines }
    if cm = hostKey then
      (if status = 0 then s2
       else { s2 with intake := { s2.intake with aperr := s2.intake.aperr + 1 } }.modCmd cm fun c =>
        { c with lines := match o.line with | some a => c.lines ++ [(m, a, List.replicate 64 255)] | none => c.lines })
    else if 2 ^ 22 ≤ cm then
      (if status = 0 then s2
       else s2.modCmd cm fun c => { c with fault := 2, lines := match o.line with | some a => c.lines ++ [(m, a, [])] | none => c.lines })
    else if 2 ^ 20 ≤ cm then
      let e := cm - 2 ^ 20
      if status = 0 then s2.landAll e
      else if (s2.entry e).fin = some 4 then s2.modEntry e fun en => en.cut [o.elem]
      else if status = 3 then s2.landAbsent e o again
      else s2.landRefused e o
    else if c.kill then (if (s2.cmd cm).owed.isEmpty then s2.endKilled cm else s2)
    else if status = 0 ∨ !c.live then s2
    else if status = 3 then s2.peerAbsent cm o again
    else s2.faultCmd cm 2 o.line.isNone o.va (if c.op = 0x31 then c.pos else o.elem)

/-- An acknowledgement: messages and pulls up to a PSN have been accepted. -/
def State.acked (s : State) (m psn : Nat) : State :=
  s.modPeer m fun p => { p with
    out := p.out.filter fun (k : Packet) => decide (k.typ = 1) || decide (k.sends = 0) || decide (2 ^ 31 ≤ (psn + 2 ^ 32 - k.psn) % 2 ^ 32) }

/-- One packet of a data flit. -/
def State.packetIn (s : State) (r : RawPacket) : State :=
  if r.dest ≠ s.fab.modid ∨ !s.fab.isPeer r.src then s
  else match Config.packetBody r.typ (if [1, 3, 4].contains r.typ then r.body.drop 4 else r.body) with
    | none => s
    | some b =>
      if [1, 3, 4].contains r.typ then s.numbered r.src r.typ (leAt r.body 0 4) (bodyWithPsn (leAt r.body 0 4) b)
      else match b with
        | .response psn status old line => s.response r.src psn status old line
        | .ack psn => s.acked r.src psn
        | _ => s

/-! ## Control flits (R397-R399, R404, R410) -/

/-- A refusal of a PSN: it and every later one count as unsent, and go again from the next rotor cycle. -/
def Peer.refused (p : Peer) (psn : Nat) : Peer :=
  { p with out := p.out.map fun (k : Packet) =>
      if (k.psn + 2 ^ 32 - psn) % 2 ^ 32 < 2 ^ 31 ∧ 0 < k.sends then { k with refused := true, due := false, sends := 0 } else k }

/-- One entry of a control flit from member m of rotor cycle c. A grant is for the pairing in the next cycle. -/
def State.entryIn (s : State) (m key c e : Nat) : State :=
  let v := bits e 32 32
  match bits e 0 4 with
  | 1 => s.modPeer m fun p => { p with granted := p.granted ++ [(key, c + 1, bits e 16 16, v)] }
  | 2 =>
    if (s.fab.peer m).out.any (fun (k : Packet) => decide (k.psn = v) && (decide (0 < k.sends) || k.refused)) then
      { s with pkg := { s.pkg with mfref := s.pkg.mfref + 1 } }.modPeer m fun p => p.refused v
    else s
  | 3 => s.modPeer m fun p => { p with out := p.out.map fun (k : Packet) => if k.psn = v then { k with age := 0 } else k }
  | _ => s

/-- An accepted control flit from member m on a fibre. A member's MARKER stands until a flit without it comes, and while this module
drains it stands for the drain (R410, R415). -/
def State.controlIn (s : State) (m fibre slot : Nat) (l : List Byte) : State :=
  let flags := leAt l 8 4
  let f := s.fab
  let s1 : State := { s with fab := { f with
    lockCycle := if f.st = .locking then some (max (f.lockCycle.getD 0) (leAt l 0 8)) else f.lockCycle
    fibres := Sparse.modify {} f.fibres fibre fun (x : Fibre) =>
      { x with rxl := bits flags 8 3 + 1, heard := x.heard || decide (f.st = .locking) } } }
  let s2 := s1.modPeer m fun p => { p with silent := 0, marker := bitB flags 1 || (p.marker && decide (f.st = .draining)) }
  ((List.range 26).foldl (fun s i => s.entryIn m (16 * fibre + slot) (leAt l 0 8) (leAt l (16 + 8 * i) 8)) s2).drainCheck

/-! ## FLIT_RECEIVE (R392, R410, R413) -/

/-- Keys the module holds. -/
def Fabric.keys (f : Fabric) : List Key := f.cur.toList ++ f.nxt.toList ++ f.prev.toList

/-- The lowest free place of the relay region (the order of its places is not given: DESIGN CHOICE, log 67). -/
def Fabric.relayFree (f : Fabric) : Nat :=
  let used := f.peers.flatMap fun p => p.2.relay
  ((List.range (used.length + 1)).find? fun k => !used.contains k).getD 0

/-- A relayed flit is queued for its destination in the relay region, its packets' RELAY bits cleared (R399). Where the region has no page
for it, it is lost, and its packets are sent again (R403; DESIGN CHOICE, log 67). -/
def State.relayIn (s : State) (l : List RawPacket) : State :=
  match l with
  | [] => s
  | p :: _ =>
    if !s.fab.isPeer p.dest then s
    else
      let k := s.fab.relayFree
      match s.regionPut (256 * k) (fill 224 (l.flatMap fun r => packetRaw false r.typ r.src r.dest r.body)) with
      | some s1 => s1.modPeer p.dest fun q => { q with relay := q.relay ++ [k] }
      | none => s

/-- An authentic data flit. -/
def State.dataIn (s : State) (l : List Byte) : State :=
  let ps := unpack 7 l
  let away := ps.filter fun p => p.relay && decide (p.dest ≠ s.fab.modid)
  (((ps.filter fun p => decide (p.dest = s.fab.modid)).foldl State.packetIn s).relayIn away).drainCheck

/-- The flit is accepted. -/
def State.flitGood (s : State) (fibre slot sender ctr kind : Nat) (k : Key) (ct : List Byte) : State :=
  let hk := hopKey k sender fibre
  let text := gcmText (hk.take 32) (nonce hk ctr) ct
  let s1 : State := { s with fab := { s.fab with
    fibres := Sparse.modify {} s.fab.fibres fibre fun (y : Fibre) =>
      { y with lastCtr := (y.lastCtr.filter fun z => !(decide (z.2.1 = sender) && decide (z.1 = k.epoch))) ++ [(k.epoch, sender, ctr)] } } }
  if 8 ≤ kind then s1
  else match kind % 4 with
  | 1 => s1.controlIn sender fibre slot text
  | 2 => if s.fab.st = .isOpen ∨ s.fab.st = .draining ∨ s.fab.st = .drained then s1.dataIn text else s1
  | _ => s1

/-- A flit on receive fibre `fibre` in a slot. A reserved kind is no ground to drop it before its tag is checked; it then does nothing. -/
def State.flitTake (s : State) (fibre slot : Nat) (l : List Byte) : State :=
  let f := s.fab
  let ctr := leAt l 0 8
  let sender := leAt l 8 2
  let kind := leAt l 10 2
  let x := f.fibre fibre
  if l.length ≠ 256 ∨ 64 ≤ fibre ∨ 16 ≤ slot ∨ f.st = .down ∨ f.st = .dark ∨ x.rxdead ∨ leAt l 12 4 ≠ f.group ∨
      f.pairing fibre slot ≠ some sender then s
  else
    let ks := f.keys.filter fun k => decide (k.epoch % 2 = kind / 4 % 2)
    let head := l.take 16
    let ct := part l 16 224
    let good (k : Key) : Bool :=
      let hk := hopKey k sender fibre
      decide (gcmTag (hk.take 32) (nonce hk ctr) head ct = part l 240 16)
    match ks.find? good with
    | none =>
      if ks.isEmpty then s
      else { s with fab := { f with
        fibres := Sparse.modify {} f.fibres fibre fun (y : Fibre) => { y with authfail := min (2 ^ 32 - 1) (y.authfail + 1) } } }
    | some k =>
      match x.lastCtr.find? (fun y => decide (y.1 = k.epoch) && decide (y.2.1 = sender)) with
      | some (_, _, last) => if ctr ≤ last then s else s.flitGood fibre slot sender ctr kind k ct
      | none => s.flitGood fibre slot sender ctr kind k ct

/-- FLIT_RECEIVE, under the keys of the rotor cycle: a switch or an erasure that is due has happened (R409). -/
def State.flitIn (s : State) (fibre slot : Nat) (l : List Byte) : State := s.keySwitch.keyErase.flitTake fibre slot l

def execFlitReceive (fibre slot : Nat) (l : List Byte) (s : State) : Host.Outcome State Fault Refusal := .next (s.flitIn fibre slot l)

/-! ## Resends and unreachable members (R403, R419) -/

/-- Timers count in OPEN and DRAINING. -/
def Fabric.timing (f : Fabric) : Bool := decide (f.st = .isOpen) || decide (f.st = .draining)

/-- A packet has gone 8 rotor cycles unanswered. -/
def Packet.late (k : Packet) : Bool := decide (8 ≤ k.age) && decide (0 < k.sends) && !k.due && !k.refused

/-- PACKET_RESEND_TIMEOUT: the packet is sent again, with its PSN, unless it has been sent four times. -/
def State.resend (s : State) (m psn : Nat) : State :=
  match (s.fab.peer m).out.find? (fun (k : Packet) => decide (k.psn = psn)) with
  | some k =>
    if !s.fab.timing || !k.late then s
    else if 4 ≤ k.sends then s.losePeer m
    else { s with pkg := { s.pkg with mresend := s.pkg.mresend + 1 } }.modPeer m fun p =>
      { p with out := p.out.map fun (x : Packet) => if x.psn = psn then { x with due := true } else x }
  | none => s

def execPacketResendTimeout (m psn : Nat) (s : State) : Host.Outcome State Fault Refusal := .next (s.resend m psn)

/-- MEMBER_UNREACHABLE (R419). -/
def State.memberGone (s : State) (m : Nat) : State :=
  let p := s.fab.peer m
  if s.fab.timing && s.fab.isPeer m && !p.unreachable && (decide (16 ≤ p.silent) || p.out.any fun (k : Packet) => k.late && decide (4 ≤ k.sends))
  then s.losePeer m else s

def execMemberUnreachable (m : Nat) (s : State) : Host.Outcome State Fault Refusal := .next (s.memberGone m)

/-! ## Wavelengths (R417, R418) -/

/-- WAVELENGTH_DEGRADE: the fibre sheds 8 wavelengths at the next boundary. -/
def State.degrade (s : State) (fibre : Nat) : State :=
  { s with fab := { s.fab with fibres := Sparse.modify {} s.fab.fibres fibre fun (x : Fibre) => { x with shed := x.shed + 1 } } }

def execWavelengthDegrade (fibre : Nat) (s : State) : Host.Outcome State Fault Refusal :=
  .next (if fibre < 64 then s.degrade fibre else s)

/-- A shedding fibre at a rotor-cycle boundary. -/
def Fibre.drop (x : Fibre) : Fibre :=
  if x.shed = 0 then x else { x with shed := 0, txl := x.txl - x.shed, txdead := x.txdead || decide (x.txl ≤ x.shed) }

/-- FIBRE_GOES_DEAD: a receive fibre loses its light. -/
def State.fibreDead (s : State) (fibre : Nat) : State :=
  { s with fab := { s.fab with fibres := Sparse.modify {} s.fab.fibres fibre fun (x : Fibre) => { x with rxdead := true } } }

def execFibreGoesDead (fibre : Nat) (s : State) : Host.Outcome State Fault Refusal :=
  .next (if fibre < 64 then s.fibreDead fibre else s)

/-! ## ROTOR_CYCLE_BOUNDARY -/

/-- Flits queued for a member, own as they are packed, and relayed (R430). -/
def Peer.depth (modid m : Nat) (p : Peer) : Nat :=
  let raws := (p.ctl.map fun c => packetRaw false c.1 modid m (Config.packetBytes c.2)) ++
    (p.out.filter fun (k : Packet) => k.due).map fun k => k.raw false modid m
  p.relay.length + (pack raws.length [] raws).1.length

/-- A peer at the boundary into a rotor cycle: timers count, refused packets go again, unused grants lapse. -/
def Peer.tick (timing isOpen : Bool) (cycle : Nat) (p : Peer) : Peer :=
  { p with
    silent := if timing then p.silent + 1 else p.silent
    out := p.out.map fun (k : Packet) =>
      if k.refused then (if isOpen then { k with due := true } else k)
      else if timing && decide (0 < k.sends) && !k.due then { k with age := k.age + 1 } else k
    granted := p.granted.filter fun g => decide (cycle ≤ g.2.1), given := p.given.filter fun g => decide (cycle ≤ g.2.1) }

/-- ROTOR_CYCLE_BOUNDARY. -/
def State.rotorCycle (s : State) : State :=
  let f := s.fab
  let c := f.cycle + 1
  let ms := f.members.filter (· ≠ f.modid)
  let s1 : State := { s with fab := { f with
    cycle := c
    fibres := Sparse.mapAll {} (fun _ (x : Fibre) => x.drop) f.fibres
    peers := ms.foldl (fun m i => Sparse.modify {} m i (Peer.tick f.timing (decide (f.st = .isOpen)) c)) f.peers } }
  (ms.foldl (fun s m => s.sample 16 ((s.fab.peer m).depth f.modid m)) s1).drainCheck

def execRotorCycleBoundary (s : State) : Host.Outcome State Fault Refusal := .next s.rotorCycle

end Sys2Proof.Machine
end

