-- ==== Sys2Proof/Machine/Events.lean ====
section
/-! DEFINITION. Events of tasks: faulting bundles, landings, asynchronous faults, words reaching virtual channels, and the lock bits'
grants and time limit (spec/01_cw_execution_model.md R18, R21, R27, R54; spec/02_cw_slice_file.md R71, R76;
spec/03_cw_bundles_encoding.md R86, R107; spec/05_cw_slice_control_isa.md R150; spec/08_cw_cell_words.md R275). -/

namespace Sys2Proof.Machine

/-! ## Faulting bundles (R50, R86, R107, R368) -/

/-- The cause of a bundle that cannot be decoded, with the word of its record; the bundle's first word is in the issue record. -/
def Reject.cause : Reject → Cause × Nat
  | .illegalBundle n => (.illegalBundle, n)
  | .illegalOp n => (.illegalOp, n)
  | .illegalSlice n => (.illegalSlice, n)

/-- The cause that fetch and decoding give a task's next bundle. -/
def State.fetchCause (s : State) (tk : Nat) : Option (Cause × Nat) :=
  match s.bundleAt tk with
  | (.miss p, _, _) => some (.ifetchMiss, p)
  | (.bad r, w, _) => some ((Reject.cause r).1, w * 2 ^ 32 + (Reject.cause r).2)
  | (.good _, _, _) => none

/-- The task's bundle is taken and faults, its results that are due having landed. -/
def State.takeBad (s : State) (tk : Nat) : State :=
  let s1 := s.modTask tk Task.landDue
  match s1.fetchCause tk with
  | some c =>
    let b := s1.bundleAt tk
    { s1 with issue := s1.issueOf tk b.2.1 b.2.2 }.precise c.1 c.2
  | none => s

/-! ## Landings (R27, R70, R71, R76) -/

/-- The task's next bundle waits for a return that is held until results in flight have landed: no bundle of the task can bring them (R72). -/
def State.stalledOn (s : State) (tk : Nat) (r : Ret) : Bool :=
  let u := s.modTask tk fun t => { t with pend := r.mask, hpend := r.hmask }
  r.val.isSome && !(s.task tk).retFree r &&
    (match s.bundleAt tk with
      | (.good l, w, n) =>
        let v := { u with issue := s.issueOf tk w n }
        l.any (u.task tk).touchesPending || v.inductionPending (v.acting l)
      | _ => false)

/-- FIXED_LATENCY_LANDING: what is due before the task's next bundle lands, and what a held return that the bundle waits for waits for. -/
def execFixedLatencyLanding (tk : Nat) (s : State) : Host.Outcome State Fault Refusal :=
  .next (if (s.task tk).st = .runnable then
      let s1 := s.modTask tk Task.landDue
      match (s1.task tk).rets.find? (s1.stalledOn tk) with
      | some r => s1.modTask tk fun t => t.landBeneath r
      | none => s1
    else s)

/-- Land the replay entries that are due, in SEQ order (R76). -/
def Task.landReplay (t : Task) : Task :=
  let es := t.entries.filter fun p => decide (p.2.rc = 0)
  { t with
    sf := es.foldl (fun sf p => p.2.dst.write sf (p.2.val t.shadow)) t.sf
    replay := t.replay.filter fun p => !((rEntry p.2).v && decide ((rEntry p.2).rc = 0)) }

/-- REPLAY_ENTRY_LANDING. -/
def execReplayEntryLanding (tk : Nat) (s : State) : Host.Outcome State Fault Refusal :=
  .next (if (s.task tk).st = .runnable then s.modTask tk Task.landReplay else s)

/-- A fault that freezes a core's field freezes it, once its tasks' returns are written (R73). -/
def State.closeCore (s : State) (core : Nat) : State :=
  match s.fieldOf core with
  | some k => s.closeField k
  | none => s

/-- LANDING_BUFFER_WRITE: return `ret` of the task, once its value is known and nothing earlier is to land beneath it (R71-R73). The task's
next RSYN then returns, if its requests have ended (R238). -/
def execLandingBufferWrite (tk ret : Nat) (s : State) : Host.Outcome State Fault Refusal :=
  .next (((s.tinvAnswer tk ret).modTask tk fun t =>
    let u := t.landRet ret
    Task.rsynCheck (u.rsyns.length + 1) u).closeCore (coreOf tk))

/-! ## Asynchronous faults, and tasks marked dead (R21, R54) -/

/-- ASYNC_TASK_FAULT: at a bundle boundary of a running core; a task that is not RUNNABLE has none to wait for. -/
def execAsyncTaskFault (tk : Nat) (s : State) : Host.Outcome State Fault Refusal :=
  .next (if s.coreRuns (coreOf tk) || decide ((s.task tk).st ≠ .runnable) then s.takeAsyncs tk else s)

/-- TASK_MARKED_DEAD. -/
def execTaskMarkedDead (tk : Nat) (s : State) : Host.Outcome State Fault Refusal :=
  .next (if (s.task tk).st = .held then s.modTask tk fun t => { t with st := .faulted } else s)

/-! ## VC_WORD_ARRIVAL (R15, R18, R33) -/

/-- Word i of those on their way reaches its channel, unless an earlier one of its sender goes to the same channel, an access that it releases
has not performed (R153, R295), or the channel is full. A tile that holds no field discards it. -/
def State.wordArrives (s : State) (i : Nat) : State :=
  match s.mesh[i]? with
  | none => s
  | some m =>
    let s1 : State := { s with mesh := s.mesh.eraseIdx i }
    if decide (0 < m.behind) || (s.mesh.take i).any fun x => decide (x.src = m.src ∧ x.core = m.core ∧ x.vc = m.vc) then s
    else if !s.takesWords m.core then s1
    else if 8 ≤ ((s.tile m.core).vc m.vc).length then s
    else s1.vcPut m.core m.vc m.word

def execVcWordArrival (i : Nat) (s : State) : Host.Outcome State Fault Refusal := .next (s.wordArrives i)

/-! ## Lock bits (R150, R275, R373) -/

/-- The memory ports of a core perform: its field is not frozen, or it is a management core that runs. -/
def State.portRuns (s : State) (core : Nat) : Bool :=
  match s.fieldOf core with
  | some f => (s.field f).runs
  | none => s.pumpRuns core

/-- LOCK_BIT_GRANT: a free bit goes to the request that has waited longest, which performs. -/
def State.grantLock (s : State) (lk : Nat) : State :=
  let l := s.lockBit lk
  match l.waiters with
  | [] => s
  | (byCell, who, num) :: rest =>
    let s1 := s.modLock lk fun l => { l with waiters := rest }
    if l.held then s
    else if byCell then
      if !s.cellRuns who then s
      else match (s.cell who).bin.find? (fun b => decide (b.num = num)) with
        | none => s1
        | some b =>
          if s.binHeld who b then s.binWait who num
          else
            (s1.modCell who fun c => { c with bin := c.bin.map fun x => if x.num = num then { x with waiting := false } else x }).accessBin
              who { b with waiting := false }
    else if !s.portRuns (coreOf who) then s
    else match (s.task who).port with
      | [] => s1
      | a :: _ => (((s1.modTask who fun t => { t with waitLock := none }).perform who a).popPort who).drain who

def execLockBitGrant (lk : Nat) (s : State) : Host.Outcome State Fault Refusal := .next (s.grantLock lk)

/-- The cause-specific word of LOCK_HELD: bank and lock bit. -/
def lockInfo (lk : Nat) : Nat := lk % 1024 / 64 + lk % 64 * 16

/-- The bit has been held for 4,096 cycles, of its holder's field's clock, in which that field was LIVE (R150, R388). -/
def Lock.expired (l : Lock) : Bool := l.held && decide (12 * 4096 ≤ l.cycles)

def State.releaseLock (s : State) (lk : Nat) : State :=
  s.modLock lk fun l => { l with held := false, byCell := false, holder := 0, cycles := 0 }

/-- LOCK_HELD_TIMEOUT: a task's bit is freed, and the task receives LOCK_HELD. -/
def execLockHeldTimeout (lk : Nat) (s : State) : Host.Outcome State Fault Refusal :=
  .next (let l := s.lockBit lk
    if l.expired && !l.byCell then (s.releaseLock lk).raiseAsync l.holder .lockHeld (lockInfo lk) else s)

/-- CELL_LOCK_HELD_TIMEOUT: a cell's bit is freed, and its field faults. -/
def execCellLockHeldTimeout (lk : Nat) (s : State) : Host.Outcome State Fault Refusal :=
  .next (let l := s.lockBit lk
    if l.expired && l.byCell then (s.releaseLock lk).cellFault l.holder .lockHeld (lockInfo lk) else s)

end Sys2Proof.Machine
end

