-- ==== Sys2Proof/Machine/Save.lean ====
section
/-! DEFINITION. The save image: task blocks, pump entries, cell records, tile blocks and the granule list, written and read back
(spec/15_dw_translation_faults.md R374, R375; spec/02_cw_slice_file.md R75). -/

namespace Sys2Proof.Machine

/-- Words of a list of bytes: n of them, 8 bytes each, from offset o. -/
def wordsAt (l : List Byte) (o n : Nat) : List Word64 := (List.range n).map fun i => BitVec.ofNat 64 (leAt l (o + 8 * i) 8)

/-- Cut a list of bytes at n, or fill it with zeros to n. -/
def block (n : Nat) (l : List Byte) : List Byte := l.take n ++ List.replicate (n - l.length) 0

/-- A FIFO of n words: count, seven zeros, the words. -/
def fifoBytes (n : Nat) (l : List Word64) : List Byte :=
  block (8 + 8 * n) (bytesOfNat 8 l.length ++ l.flatMap fun w => bytesOfNat 8 w.toNat)

/-- The words of a FIFO at offset o. -/
def fifoAt (l : List Byte) (o n : Nat) : List Word64 := wordsAt l (o + 8) (min n (leAt l o 1))

/-! ## Task blocks -/

def stateCode : TState → Nat
  | .free => 0 | .parked => 1 | .runnable => 2 | .held => 3 | .faulted => 4
def stateOf (n : Nat) : TState := [TState.free, .parked, .runnable, .held, .faulted].getD n .free
def kindCode : ParkKind → Nat
  | .none => 0 | .endK => 1 | .waitc => 2 | .waitf => 3
def kindOf (n : Nat) : ParkKind := [ParkKind.none, .endK, .waitc, .waitf].getD n .none

/-- A loop level. -/
def levelBytes (v : Level) : List Byte :=
  bytesOfNat 2 v.bs ++ bytesOfNat 2 v.be ++ bytesOfNat 4 v.remaining ++ bytesOfNat 4 v.iter ++
  (match v.ind with
    | some b => bytesOfNat 1 b.start ++ bytesOfNat 1 (128 + b.wcode) ++ bytesOfNat 2 b.stride.toNat
    | none => [0, 0, 0, 0])

def levelAt (l : List Byte) (o : Nat) : Level :=
  { bs := leAt l o 2, be := leAt l (o + 2) 2, remaining := leAt l (o + 4) 4, iter := leAt l (o + 8) 4
    ind := if bitB (leAt l (o + 13) 1) 7 then
      some ⟨leAt l (o + 12) 1, leAt l (o + 13) 1 % 8, BitVec.ofNat 16 (leAt l (o + 14) 2)⟩ else none }

/-- Requests since the previous RSYN, and those whose status was not DONE (R238). -/
def Task.rsynWord (t : Task) : Nat := (t.reqNo - t.rsynFrom) % 65536 + t.rsynBad % 65536 * 65536

/-- A task block: 2,048 bytes. -/
def State.taskBlock (s : State) (tk : Nat) : List Byte :=
  let t := s.task tk
  let well := match t.well with
    | some w => bytesOfNat 4 w.addr ++ bytesOfNat 1 w.start ++ bytesOfNat 1 w.gate ++ bytesOfNat 1 1
    | none => []
  block 2048 (bytesOfNat 1 (stateCode t.st) ++ bytesOfNat 1 (stateCode t.rem + 16 * kindCode t.kind) ++ bytesOfNat 1 t.prio ++
    bytesOfNat 1 (match t.vc with | some v => 128 + v | none => 0) ++ bytesOfNat 2 t.pc ++ bytesOfNat 2 t.entry ++
    bytesOfNat 4 t.voutdst.toNat ++ bytesOfNat 1 (b2n t.latch + 2 * b2n t.skip) ++ bytesOfNat 1 t.waitDc ++ bytesOfNat 1 (t.q % 16) ++ [0] ++
    bytesOfNat 64 t.sf.toNat ++ ((List.range 16).flatMap fun i => bytesOfNat 32 (hGet t.hs i).toNat) ++
    bytesOfNat 16 t.pend.toNat ++ bytesOfNat 2 t.hpend.toNat ++ bytesOfNat 4 t.rsynWord ++ [0, 0] ++
    ((List.range 10).flatMap fun i => bytesOfNat 12 ((Sparse.get 0 t.replay i).toNat % 2 ^ 92)) ++
    ((List.range 6).flatMap fun i => levelBytes (levelOf t.levels i)) ++ block 16 well ++ bytesOfNat 8 t.tcycle ++
    fifoBytes 8 ((s.voutWords tk).map (·.word)) ++ fifoBytes 16 t.fq ++ fifoBytes 16 t.fr ++ bytesOfNat 64 t.shadow.toNat)

/-- The parts of a task block that the debug window writes: slice file, handles, pending bits, RSYN counts, replay buffer and list
shadow (R371). Bits [95:92] of a replay entry are RAZ (R75): a write leaves them as they are. -/
def Task.readParts (t : Task) (l : List Byte) : Task :=
  { t with
    sf := BitVec.ofNat 512 (leAt l 16 64) ||| 1#512
    hs := (List.range 16).foldl (fun m i => Sparse.set 0 m i (BitVec.ofNat 256 (leAt l (80 + 32 * i) 32))) []
    pend := BitVec.ofNat 128 (leAt l 592 16), hpend := BitVec.ofNat 16 (leAt l 608 2)
    rsynFrom := t.reqNo - leAt l 610 2, rsynBad := leAt l 612 2
    replay := (List.range 10).foldl (fun m i => Sparse.set 0 m i
      (BitVec.ofNat 96 (leAt l (616 + 12 * i) 12 % 2 ^ 92 + bits (Sparse.get 0 t.replay i).toNat 92 4 * 2 ^ 92))) t.replay
    shadow := BitVec.ofNat 512 (leAt l 1200 64) }

/-- A context as a task block describes it. A restored replay entry holds the image's bits [95:92], which ERET judges (R75; DESIGN CHOICE, log
62). A WAITF that parked has its return outstanding again (R39, R73). -/
def Task.readBlock (t : Task) (l : List Byte) : Task :=
  let n := leAt l 610 2
  let t0 : Task := { nextRet := t.nextRet, reqNo := t.reqNo + n, replay := (List.range 10).foldl (fun m i =>
    Sparse.set 0 m i (BitVec.ofNat 96 (leAt l (616 + 12 * i) 12))) [] }
  let t1 := t0.readParts l
  let w : Option Well := if leAt l 838 1 = 1 then some ⟨leAt l 832 4, leAt l 836 1, leAt l 837 1, t.nextRet⟩ else none
  let r : List Ret := match w with
    | some w => [⟨t.nextRet, some (w.start, 16), some w.gate, none, none, false, false⟩]
    | none => []
  { t1 with
    st := stateOf (leAt l 0 1), rem := stateOf (leAt l 1 1 % 16), kind := kindOf (leAt l 1 1 / 16), prio := leAt l 2 1 % 4
    vc := if bitB (leAt l 3 1) 7 then some (leAt l 3 1 % 32) else none
    pc := leAt l 4 2, entry := leAt l 6 2, voutdst := BitVec.ofNat 32 (keepBits (leAt l 8 4) voutMask)
    latch := bitB (leAt l 12 1) 0, skip := bitB (leAt l 12 1) 1, atBkpt := decide (stateOf (leAt l 0 1) = .held), waitDc := leAt l 13 1, q := leAt l 14 1
    levels := (List.range 6).foldl (fun m i => Sparse.set {} m i (levelAt l (736 + 16 * i))) []
    well := w, rets := r, nextRet := t.nextRet + r.length
    tcycle := leAt l 848 8, fq := fifoAt l 928 16, fr := fifoAt l 1064 16 }

/-! ## Pump entries -/

/-- The instruction of a queue command. -/
def Cmd.instr (c : Cmd) : Instr :=
  match c.op with
  | 0 => .sld c.o | 1 => .sst c.o | 2 => .scp c.o | 3 => .sga c.o | 4 => .ssc c.o | 5 => .srec c.o | 6 => .smc c.o | 7 => .sfil c.o
  | 8 => .scfg c.o.lc c.o.h c.o.nt c.o.nk
  | 9 => .sbar c.o.lc (sbarMask c.o) c.o.nt c.o.nk
  | _ => .msend ⟨c.o.lc, c.o.h, c.o.s⟩

/-- The operands of a queue command's instruction, as an entry holds them. -/
def queueOps : Instr → OpStr
  | .sld o | .sst o | .scp o | .sga o | .ssc o | .srec o | .smc o | .sfil o => o
  | .scfg lc h nt nk => ⟨lc, h, 0, nt, 0, 0, false, false, 0, nk⟩
  | .sbar lc mask nt nk => ⟨lc, 0, 0, nt, 0, 0, bitB mask 3, bitB mask 2, mask % 4, nk⟩
  | .msend o => ⟨o.lc, o.h, 0, 0, 0, o.s, false, false, 0, false⟩
  | _ => ⟨LoopCond.none, 0, 0, 0, 0, 0, false, false, 0, false⟩

/-- A pump entry: 256 bytes. -/
def Cmd.bytes (c : Cmd) : List Byte :=
  if c.st = .never then List.replicate 256 0
  else
    let e := (encodeSlot c.instr).getD (LoopCond.none, 0, 0)
    block 256 (bytesOfNat 8 c.status ++ bytesOfNat 4 (e.2.2 + 2 ^ 31 * b2n c.stop) ++ bytesOfNat 2 e.2.1 ++ [0, 0] ++
      bytesOfNat 8 c.sop.toNat ++ bytesOfNat 8 c.position ++ bytesOfNat 32 c.h.toNat ++ bytesOfNat 32 c.h2.toNat ++ bytesOfNat 32 c.hs.toNat ++
      bytesOfNat 32 c.h2s.toNat)

/-- STATE codes of R203 read back. -/
def qStateOf (n : Nat) : QState := [QState.never, .waiting, .running, .paused, .done, .killed, .faulted].getD n .never

/-- The command that a pump entry describes, number `seq` of its task, under version ver. -/
def cmdOfBytes (l : List Byte) (seq ver now : Nat) : Cmd :=
  let status := leAt l 0 8
  let word := leAt l 8 4
  let o := match Raw.decodeE ⟨.lend, LoopCond.none, leAt l 12 2, word % 2 ^ 31⟩ with
    | some i => queueOps i
    | none => queueOps (.nop ⟨LoopCond.none, Pred.always⟩)
  let st := qStateOf (bits status 0 4)
  if st = .never then {}
  else
    let c : Cmd :=
      { st := st, op := bits status 10 6, fault := bits status 4 6, count := bits status 16 40, stop := bitB word 31, o := o
        sop := BitVec.ofNat 64 (leAt l 16 8), h := BitVec.ofNat 256 (leAt l 32 32)
        h2 := BitVec.ofNat 256 (leAt l 64 32), hs := BitVec.ofNat 256 (leAt l 96 32), h2s := BitVec.ofNat 256 (leAt l 128 32)
        seq := seq, ver := ver, start := now }
    { c with pos := c.posOf (leAt l 24 8) }

/-! ## Cell records -/

/-- A link word: 32 bytes. -/
def LinkWord.bytes (w : LinkWord) : List Byte :=
  block 32 (bytesOfNat 16 w.data.toNat ++ bytesOfNat 1 (w.mark % 8 + 8 * b2n w.err + 16 * b2n w.valid) ++ [1] ++ bytesOfNat 2 w.ver)

/-- The link word at an offset, where one is present. -/
def linkAt (l : List Byte) (o now : Nat) : Option LinkWord :=
  if leAt l (o + 17) 1 = 0 then none
  else
    let f := leAt l (o + 16) 1
    some { data := BitVec.ofNat 128 (leAt l o 16), mark := f % 8, err := bitB f 3, valid := bitB f 4, ver := leAt l (o + 18) 2, time := now }

/-- n slots of 32 bytes holding a queue of words. -/
def slotBytes (n : Nat) (l : List LinkWord) : List Byte := block (32 * n) (l.flatMap LinkWord.bytes)

/-- The words of n slots. -/
def slotsAt (l : List Byte) (o n now : Nat) : List LinkWord := (List.range n).filterMap fun i => linkAt l (o + 32 * i) now

/-- Port codes of the operand latches and of the result ports, in the record's order. -/
def latchCodes : List Nat := [0x20, 0x21, 0x23, 0x24, 0x25, 0x26, 0x28, 0x2A, 0x2B, 0x2E]
def portCodes : List Nat := [0x20, 0x21, 0x22, 0x23, 0x24, 0x25, 0x26, 0x27, 0x28]

/-- The scale latch as a link word. -/
def Cell.scaleWord (c : Cell) : LinkWord :=
  { data := BitVec.ofNat 128 c.scale.toNat, mark := c.scaleMark, err := c.scaleErr, valid := true }

/-- A result in flight: 40 bytes. What an accumulator's landing does to SAT and to poison stands above its value. -/
def CellFlight.bytes (f : CellFlight) : List Byte :=
  match f.what with
  | .port code w => bytesOfNat 1 code ++ bytesOfNat 1 f.rem ++ bytesOfNat 6 1 ++ w.bytes
  | .acc k a sat clr zero =>
    bytesOfNat 1 (0x30 + k) ++ bytesOfNat 1 f.rem ++ bytesOfNat 6 1 ++ LinkWord.bytes
      { data := BitVec.ofNat 128 (a.val.toNat + 2 ^ 32 * (b2n sat + 2 * b2n clr + 4 * b2n zero)), err := a.poison, valid := true }

/-- The result in flight at an offset, if the entry is valid. -/
def flightAt (l : List Byte) (o now : Nat) : Option CellFlight :=
  if leAt l (o + 2) 1 = 0 then none
  else
    let code := leAt l o 1
    let w := (linkAt l (o + 8) now).getD {}
    let f := bits w.data.toNat 32 3
    some ⟨leAt l (o + 1) 1,
      if code < 0x30 then .port code w
      else .acc (code - 0x30) ⟨BitVec.ofNat 32 w.data.toNat, w.err⟩ (bitB f 0) (bitB f 1) (bitB f 2)⟩

/-- Results of the bin port that wait in bp.r, oldest first. -/
def Cell.binResults (c : Cell) : List LinkWord := (c.bin.filter fun b => b.gives && b.done).map (·.res)

/-- A cell record: 3,072 bytes. -/
def Cell.bytes (c : Cell) : List Byte :=
  block 16 (bytesOfNat 1 c.step ++ bytesOfNat 1 (b2n c.stopped) ++ bytesOfNat 2 c.fired ++ bytesOfNat 1 c.rota ++ bytesOfNat 1 (b2n c.sat)) ++
  ((List.range 8).flatMap fun i =>
    let w : LinkWord := Sparse.get {} c.troughs i
    block 8 (bytesOfNat 4 w.data.toNat ++ bytesOfNat 1 (w.mark % 8 + 8 * b2n w.err))) ++
  ((List.range 16).flatMap fun i =>
    let a : Acc := Sparse.get {} c.accs i
    block 8 (bytesOfNat 4 a.val.toNat ++ bytesOfNat 1 (b2n a.poison))) ++
  block 16 (bytesOfNat 8 c.scale.toNat) ++
  ((List.range 8).flatMap fun i => slotBytes 4 (c.fifo i)) ++
  (latchCodes.flatMap fun p => if p = 0x26 then c.scaleWord.bytes else LinkWord.bytes (Sparse.get {} c.latches p)) ++
  (portCodes.flatMap fun p => LinkWord.bytes (Sparse.get {} c.ports p)) ++
  slotBytes 4 c.binResults ++ block 1088 (c.flight.flatMap CellFlight.bytes)

/-- The parts of a cell record that the debug window writes: troughs, accumulators, scale latch (R371). -/
def Cell.readParts (c : Cell) (l : List Byte) : Cell :=
  { c with
    troughs := (List.range 8).foldl (fun m i =>
      let f := leAt l (20 + 8 * i) 1
      Sparse.set {} m i { data := BitVec.ofNat 128 (leAt l (16 + 8 * i) 4), mark := f % 8, err := bitB f 3 }) []
    accs := (List.range 16).foldl (fun m i =>
      Sparse.set {} m i ⟨BitVec.ofNat 32 (leAt l (80 + 8 * i) 4), bitB (leAt l (84 + 8 * i) 1) 0⟩) []
    scale := BitVec.ofNat 64 (leAt l 208 8) }

/-- A cell that has loaded its image, with the state that a cell record gives it. -/
def Cell.readBlock (c : Cell) (l : List Byte) (now : Nat) : Cell :=
  let c1 := c.readParts l
  let sc := (linkAt l (1248 + 32 * 5) now).getD {}
  { c1 with
    step := leAt l 0 1 % 16, stopped := bitB (leAt l 1 1) 0, fired := leAt l 2 2, rota := leAt l 4 1, sat := bitB (leAt l 5 1) 0
    scaleMark := sc.mark, scaleErr := sc.err
    inp := (List.range 8).foldl (fun m i => Sparse.set [] m i (slotsAt l (224 + 128 * i) 4 now)) []
    latches := latchCodes.zipIdx.foldl (fun m x =>
      if x.1 = 0x26 then m else Sparse.set {} m x.1 ((linkAt l (1248 + 32 * x.2) 0).getD {})) []
    ports := portCodes.zipIdx.foldl (fun m x => Sparse.set {} m x.1 ((linkAt l (1568 + 32 * x.2) 0).getD {})) []
    bin := (slotsAt l 1856 4 now).zipIdx.map fun x => ⟨x.2, 0, 0, {}, {}, false, false, false, false, true, x.1, 0, 0⟩
    nextBin := 4
    flight := (List.range 24).filterMap fun i => flightAt l (1984 + 40 * i) 0 }

/-! ## Tile blocks -/

/-- The 64-byte header of a tile block. -/
def State.tileHeader (s : State) (f core : Nat) : List Byte :=
  let x := s.field f
  let t := s.tile core
  block 64 (bytesOfNat 1 (tileOf core % 12 - x.x0) ++ bytesOfNat 1 (tileOf core / 12 - x.y0) ++ bytesOfNat 1 (tileOf core) ++ [0] ++
    bytesOfNat 4 t.pickfloor.toNat ++ bytesOfNat 2 t.pages.toNat)

/-- Dependence counters: 128 bytes. -/
def State.counterBytes (s : State) (core : Nat) : List Byte :=
  (List.range 32).flatMap fun i =>
    let c := (s.tile core).counter i
    bytesOfNat 4 (c.val.toNat + (c.bound.getD 0) * 2 ^ 16 + b2n c.bound.isSome * 2 ^ 19 + b2n c.uf * 2 ^ 20)

/-- Virtual-channel FIFOs: 32 of 72 bytes. -/
def State.vcBytes (s : State) (core : Nat) : List Byte := (List.range 32).flatMap fun i => fifoBytes 8 ((s.tile core).vc i)

/-- Lock bits, bank-major: 4,096 bytes. -/
def State.lockBytes (s : State) (f core : Nat) : List Byte :=
  (List.range 1024).flatMap fun i =>
    let l := s.lockBit (core * 1024 + i)
    let who := if l.byCell then coreOfCell l.holder else coreOf l.holder
    if l.held && s.holds f who then
      bytesOfNat 4 (2 ^ 31 + 2 ^ 30 * b2n l.byCell + (s.fieldCores f).idxOf who * 2 ^ 16 + (if l.byCell then l.holder % 256 else ctxOf l.holder))
    else [0, 0, 0, 0]

/-- The instruction store; pages that are not loaded are zero. -/
def State.storeBytes (s : State) (core : Nat) : List Byte :=
  (List.range 16).flatMap fun p =>
    if (s.tile core).pages.getLsbD p then s.read (.istore core) (4096 * p) 4096 else List.replicate 4096 0

/-- A tile block: 907,712 bytes. -/
def State.tileBlock (s : State) (f core : Nat) : List Byte :=
  s.tileHeader f core ++ ((List.range 8).flatMap fun x => s.taskBlock (taskAt core x)) ++
  ((List.range 128).flatMap fun i => (s.cmd (core * 128 + i)).bytes) ++ s.counterBytes core ++ s.vcBytes core ++ s.lockBytes f core ++
  ((List.range 256).flatMap fun i => (s.cell (core * 256 + i)).bytes) ++ s.storeBytes core

/-- Bytes of a tile block. -/
def tileBlockLen : Nat := 907712

/-- Number of the task's last command in entry e, when its next is number q: entries are taken in turn (R202). -/
def entrySeq (q e : Nat) : Nat := q - 1 - (q + 15 - e) % 16

/-- Write one context's block and its 16 queue entries back. Command numbers restart above 16, so that the entries keep their order. -/
def State.readContext (s : State) (core ver x : Nat) (l : List Byte) : State :=
  let b := part l (64 + 2048 * x) 2048
  let q := leAt b 14 1 + 16
  (List.range 16).foldl (fun s e =>
    s.modCmd (cmdAt (taskAt core x) e) fun _ => cmdOfBytes (part l (16448 + 256 * (16 * x + e)) 256) (entrySeq q e) ver s.cycle)
    (s.modTask (taskAt core x) fun t => { t.readBlock b with q := q })

/-- A dependence counter of a tile block. -/
def counterOfBytes (v : Nat) : Counter :=
  { val := BitVec.ofNat 16 v, bound := if bitB v 19 then some (bits v 16 3) else none, uf := bitB v 20 }

/-- The tile registers of a tile block. -/
def Tile.readBlock (t : Tile) (l : List Byte) : Tile :=
  { t with
    pickfloor := BitVec.ofNat 32 (keepBits (leAt l 4 4) pickMask), pages := BitVec.ofNat 16 (leAt l 8 2)
    counters := (List.range 32).foldl (fun m i => Sparse.set {} m i (counterOfBytes (leAt l (49216 + 4 * i) 4))) []
    vcs := (List.range 32).foldl (fun m i => Sparse.set [] m i (fifoAt l (49344 + 72 * i) 8)) [] }

/-- A lock bit of a tile block, held by one of the field's cores. -/
def State.readLock (s : State) (f core i v : Nat) : State :=
  if bitB v 31 then
    let who := (s.fieldCores f).getD (bits v 16 8) core
    s.modLock (core * 1024 + i) fun k =>
      { k with held := true, byCell := bitB v 30, cycles := 0, holder := if bitB v 30 then who * 256 + v % 256 else taskAt who (v % 8) }
  else s

/-- The contexts and queues of a tile block. -/
def State.readContexts (s : State) (core ver : Nat) (l : List Byte) : State :=
  (List.range 8).foldl (fun s x => s.readContext core ver x l) s

/-- The lock bits of a tile block. -/
def State.readLocks (s : State) (f core : Nat) (l : List Byte) : State :=
  (List.range 1024).foldl (fun s i => s.readLock f core i (leAt l (51648 + 4 * i) 4)) s

/-- The cells of a tile block. -/
def State.readCells (s : State) (core : Nat) (l : List Byte) : State :=
  (List.range 256).foldl (fun s i => s.modCell (core * 256 + i) fun c => c.readBlock (part l (55744 + 3072 * i) 3072) s.cycle) s

/-- Write one tile's block back. -/
def State.readTile (s : State) (f core : Nat) (l : List Byte) : State :=
  ((((s.readContexts core (s.field f).ver l).modTile core fun t => t.readBlock l).readLocks f core l).readCells core l).writeQuiet
    (.istore core) 0 (part l 842176 65536)

/-! ## The granule list (R375) -/

/-- Granules that the list holds, as local addresses: all of them for a field of at most 8 tiles, else the dirty ones. -/
def State.listedGranules (s : State) (f : Nat) : List Nat :=
  let x := s.field f
  let full := decide (x.w * x.h ≤ 8)
  ((s.fieldCores f).flatMap fun c => ((List.range 192).filter fun g => full || Sparse.get false x.dirtyB (tileOf c * 192 + g)).map fun g =>
    0x20000000 + tileOf c * 0x100000 + 4096 * g) ++
  (((List.range (x.gwsize / 4096)).map fun i => x.gwbase + 4096 * i).filter fun a =>
    full || Sparse.get false x.dirtyG ((a - 0x10000000) / 4096))

/-- A granule's entry: header, and payload by its code. -/
def granuleEntry (a : Nat) (l : List Byte) : List Byte :=
  if l.all (· = 0) then bytesOfNat 8 a
  else if (List.range 512).all fun i => decide (part l (8 * i) 8 = l.take 8) then bytesOfNat 8 (a + 2 ^ 32) ++ l.take 8
  else bytesOfNat 8 (a + 2 ^ 33) ++ l

/-- Bytes at a local address that a granule entry names. -/
def State.granule (s : State) (die a : Nat) : List Byte :=
  let p := localPlace (die * 256) a
  s.read p.1 p.2 4096

/-- The granule list of a field. -/
def State.granuleList (s : State) (f : Nat) : List (List Byte) :=
  (s.listedGranules f).map fun a => granuleEntry a (s.granule (f / 256) a)

/-- A granule of the field: 4 KiB of one of its bins, or of its window. -/
def State.ownGranule (s : State) (f a : Nat) : Bool :=
  let x := s.field f
  decide (a % 4096 = 0) &&
  ((decide (x.gwbase ≤ a) && decide (a + 4096 ≤ x.gwbase + x.gwsize)) ||
   (decide (0x20000000 ≤ a) && (s.fieldCores f).any fun c =>
     decide (0x20000000 + tileOf c * 0x100000 ≤ a) && decide (a + 4096 ≤ 0x20000000 + tileOf c * 0x100000 + 0xC0000)))

/-- Put n granule entries back; none when an entry is not one of the field's. -/
def State.readGranules (s : State) (f : Nat) : Nat → List Byte → Option State
  | 0, _ => some s
  | n + 1, l =>
    let a := leAt l 0 4
    let code := leAt l 4 4
    let put (d : List Byte) : State := let p := localPlace (f / 256 * 256) a; s.writeQuiet p.1 p.2 d
    if !s.ownGranule f a then none
    else match code with
      | 0 => (put (List.replicate 4096 0)).readGranules f n (l.drop 8)
      | 1 => (put ((List.range 512).flatMap fun _ => part l 8 8)).readGranules f n (l.drop 16)
      | 2 => (put (part l 8 4096)).readGranules f n (l.drop 4104)
      | _ => none

/-! ## The whole image (R374) -/

/-- The save image of a field. -/
def State.saveImage (s : State) (f : Nat) : List Byte :=
  let x := s.field f
  let g := s.granuleList f
  let off := 64 + tileBlockLen * (x.w * x.h)
  let list := g.flatten
  block 64 (bytesOfNat 4 0x51465356 ++ bytesOfNat 2 1 ++ bytesOfNat 1 (f / 256) ++ bytesOfNat 1 (f % 256) ++ bytesOfNat 1 x.x0 ++
    bytesOfNat 1 x.y0 ++ bytesOfNat 1 x.w ++ bytesOfNat 1 x.h ++ bytesOfNat 2 x.ver ++ bytesOfNat 1 (b2n (decide (x.w * x.h ≤ 8))) ++ [0] ++
    bytesOfNat 8 x.coldImage ++ bytesOfNat 4 x.gwbase ++ bytesOfNat 4 x.gwsize ++ bytesOfNat 4 g.length ++ bytesOfNat 8 off ++
    bytesOfNat 8 (off + list.length)) ++
  (s.fieldCores f).flatMap (s.tileBlock f) ++ list

end Sys2Proof.Machine
end

