-- ==== Sys2Proof/Machine/Mgmt.lean ====
section
/-! DEFINITION. The management registers at work: the fault ring, FCTL's operations on fields, dumps and debug stops, STRCTL, the
debug window, MIGRELH (spec/15_dw_translation_faults.md R366-R378; spec/02_cw_slice_file.md R73, R82; spec/14_dw_host_launch.md R349). -/

namespace Sys2Proof.Machine

/-! ## The fault ring (R367, R368) -/

/-- A fault record as 64 bytes, with its number. -/
def FRec.bytes (r : FRec) (n : Nat) : List Byte :=
  block 64 (bytesOfNat 1 r.kind ++ bytesOfNat 1 (causeCode r.cause) ++ bytesOfNat 1 r.die ++ bytesOfNat 1 r.field ++ bytesOfNat 2 r.ver ++
    bytesOfNat 1 r.tile ++ bytesOfNat 1 r.ctx ++ bytesOfNat 2 r.addr ++ bytesOfNat 1 r.group ++ bytesOfNat 1 r.cell ++ bytesOfNat 4 n ++
    bytesOfNat 8 r.info ++ bytesOfNat 8 r.va ++ bytesOfNat 8 r.count ++ bytesOfNat 8 r.time)

/-- The management core of a die. -/
def mgmtCore (die : Nat) : Nat := die * 256 + 255

/-- FAULT_RECORD_WRITE: the oldest record that waits is written into the die's ring, and its number is sent to the ring's channel of
the management core. A ring outside the granary holds no bytes. -/
def State.ringWrite (s : State) (die : Nat) : State :=
  let d := s.die die
  match d.recs with
  | [] => s
  | r :: rest =>
    if !d.ringOpen then s
    else
      let n := d.frtail.toNat
      let a := d.reg 0x108 + 64 * (n % 2 ^ bits (d.reg 0x109) 12 4)
      let s1 := if 0x10000000 ≤ a ∧ a + 64 ≤ 0x16000000 then s.writeQuiet (.granary die) (a - 0x10000000) (r.bytes n) else s
      (s1.modDie die fun d => { d with recs := rest, frtail := d.frtail + 1 }).send none (mgmtCore die) (d.reg 0x109 % 32)
        (BitVec.ofNat 64 n) false

def execFaultRecordWrite (die : Nat) (s : State) : Host.Outcome State Fault Refusal := .next (s.ringWrite die)

/-- A record that satisfies a condition waits beyond the 64 held on chip, and its source with it (R367). -/
def State.beyond (s : State) (die : Nat) (p : FRec → Bool) : Bool := ((s.die die).recs.drop 64).any p

/-! ## FCTL and FSTAT (R372) -/

def fieldKey (die num : Nat) : Nat := die * 256 + num % 256

/-- An operation ends with a result. -/
def State.fctlDone (s : State) (die op result : Nat) : State :=
  s.modDie die fun d => { d with fstat := BitVec.ofNat 32 (op * 256 + result) }

/-- An operation is in progress. -/
def State.fctlBusy (s : State) (die op : Nat) : State :=
  s.modDie die fun d => { d with fstat := BitVec.ofNat 32 (2 ^ 31 + op * 256) }

/-- FSTAT shows that this operation on this field is in progress. -/
def State.fctlAt (s : State) (die op num : Nat) : Bool :=
  let d := s.die die
  bitB d.fstat.toNat 31 && decide (bits d.fstat.toNat 8 4 = op) && decide (d.reg 0x110 % 256 = num % 256)

/-! ## PREEMPT and EVICT (R373, R374) -/

/-- Tasks of a field. -/
def State.fieldTasks (s : State) (f : Nat) : List Nat := (s.fieldCores f).flatMap fun c => (List.range 8).map (taskAt c)

/-- A task's accesses and requests have ended, and its returns have values, but for a WAITF that parked (R73). -/
def Task.settled (t : Task) : Bool :=
  t.port.isEmpty && t.reqs.isEmpty && t.rets.all fun r => r.val.isSome || (match t.well with | some w => decide (w.ret = r.id) | none => false)

/-- A cell's operations have performed and its words have left (R373); a twinned cell has fired as often as its counterpart. -/
def State.cellSettled (s : State) (k : Nat) : Bool :=
  let c := s.cell k
  c.bin.all (·.done) && c.sinks.isEmpty && (c.wires.all fun x => x.2.isEmpty) &&
  (!c.twin || c.shadow || decide (c.count = (s.cell (shadowOf k)).count))

/-- Nothing of a field that is being frozen is outstanding (R73, R373). -/
def State.settled (s : State) (f : Nat) : Bool :=
  (s.fieldTasks f).all (fun tk => (s.task tk).settled && !s.rx.ops.any fun (o : RxReq) => decide (o.task = tk)) &&
  (s.cmds.all fun x => !s.holds f (coreOf (taskOfCmd x.1)) || x.2.owed.isEmpty) &&
  s.cells.all fun x => !s.cellIn f x.1 || s.cellSettled x.1

/-- The field freezes in place, without a fault: asynchronous faults that are due are taken, returns are written, results in flight
captured (R73, R373). -/
def State.freezeInPlace (s : State) (f : Nat) : State :=
  let s1 := (s.fieldTasks f).foldl (fun s tk => (s.modTask tk Task.forceRets).takeAsyncs tk) s
  let s2 := (s.fieldTasks f).foldl (fun s tk => s.modTask tk fun t => if t.st = .runnable then t.capture else t) s1
  let s3 : State := { s2 with
    cmds := Sparse.mapAll {} (fun k (c : Cmd) => if s.holds f (coreOf (taskOfCmd k)) then { c.beatOver with walk := none } else c) s2.cmds }
  (s3.modField f fun x => { x with st := .frozen, stopping := false, cause := none, dump := none, frozenAt := s.cycle }).traceEvent
    (f / 256) 2 0 0 (f % 256) (s.field f).ver

/-- What the pump keeps, besides its entry, of an MSEND and of a stream with writes to be sent again, while the field is evicted. -/
def State.keepSends (s : State) (f : Nat) : State :=
  let l := s.cmds.filter fun x => s.holds f (coreOf (taskOfCmd x.1)) && (decide (x.2.op = 0x31) || !x.2.redo.isEmpty) && x.2.live
  { s with cmds := l.foldl (fun m x => Sparse.set {} m (parkKey f x.1) x.2) s.cmds }

/-- The save area that a die's registers give. -/
def State.saveArea (s : State) (die : Nat) : Nat := (s.die die).reg 0x113 % 65536 * 2 ^ 32 + (s.die die).reg 0x112

/-- EVICT's release of a field whose image is saved. -/
def State.evictField (s : State) (f : Nat) : State :=
  let vout := s.mesh.filter fun m => m.vout && (match m.src with | some t => s.holds f (coreOf t) | none => false)
  let s2 := ((s.keepSends f).clearField f).releaseTiles f
  let outs := (s.fieldCores f).foldl (fun m c => (s.tile c).outq.foldl (fun m y => Sparse.set [] m (c * 32 + y.1) y.2) m) []
  s2.modField f fun x =>
    { x with evicted := true, w := 0, h := 0, gwsize := 0, dirtyG := [], dirtyB := [], kept := vout, keptOut := outs }

/-- EVICT of a frozen field: its image is saved, and the field is released, at once or when the peers that the save area lies in have answered
(R360; DESIGN CHOICE, log 94). -/
def State.evictSave (s : State) (die f : Nat) : State :=
  let l := s.saveImage f
  match s.writeDva .stream (s.saveArea die) l (evictKey die) with
  | none => s.fctlDone die 2 3
  | some s1 =>
    if (s1.cmd (evictKey die)).owed.isEmpty then (s1.evictField f).fctlDone die 2 0
    else s1.modCmd (evictKey die) fun c => { c with st := .running, buf := l }

/-- EVICT goes on once every packet of the image is answered: it fails where one was refused, and saves again where the field has changed since. -/
def State.evictOn (s : State) (die f : Nat) : State :=
  let c := s.cmd (evictKey die)
  let s1 := s.modCmd (evictKey die) fun _ => {}
  if !c.owed.isEmpty then s
  else if c.fault ≠ 0 then s1.fctlDone die 2 3
  else if c.buf ≠ s1.saveImage f then s1.evictSave die f
  else (s1.evictField f).fctlDone die 2 0

/-- PREEMPT (op 1) or EVICT (op 2) goes on: it ends once nothing of the field is outstanding. -/
def State.freezeOn (s : State) (die op num : Nat) : State :=
  let f := fieldKey die num
  if (s.field f).st = .unloaded then
    (if (s.cmd (evictKey die)).st = .running then s.modCmd (evictKey die) fun _ => {} else s).fctlDone die op 1
  else if op = 2 ∧ (s.field f).st = .frozen ∧ (s.cmd (evictKey die)).st = .running then s.evictOn die f
  else if (s.field f).st ≠ .live then (s.modField f fun x => { x with stopping := false }).fctlDone die op 2
  else if !s.settled f || (s.field f).closing.isSome then s
  else
    let s1 := s.freezeInPlace f
    if op = 1 then s1.fctlDone die op 0
    else s1.evictSave die f

/-- PREEMPT or EVICT starts. -/
def State.startFreeze (s : State) (die op num : Nat) : State :=
  let f := fieldKey die num
  if (s.field f).st = .unloaded then s.fctlDone die op 1
  else if (s.field f).st ≠ .live then s.fctlDone die op 2
  else ((s.fctlBusy die op).modField f fun x => { x with stopping := true }).freezeOn die op num

/-! ## RESUME (R377, R378) -/

/-- A field that does not run starts again: to LIVE, or, where a fault froze it while its wave was crossing, to LOADING again, a case that R12's
table leaves out (DESIGN CHOICE, log 60). -/
def State.thaw (s : State) (f : Nat) : State :=
  let x := s.field f
  let dt := s.cycle - x.frozenAt
  let s1 : State := { s with
    cells := Sparse.mapAll {} (fun k (c : Cell) => if s.cellIn f k then { c with lastFire := c.lastFire.map (· + dt) } else c) s.cells }
  let s2 := (s1.modField f fun x =>
    { x with st := if x.wave.isSome then .loading else .live, dstop := false, dump := none, cause := none, stopping := false }).traceEvent
      (f / 256) 3 0 0 (f % 256) x.ver
  if x.dstop then s2.releaseWave f else s2

/-- RESUME (op 3). It waits while the record of the fault waits beyond those held on chip (R367). -/
def State.resumeOn (s : State) (die num : Nat) : State :=
  let f := fieldKey die num
  let x := s.field f
  if x.st = .unloaded then s.fctlDone die 3 1
  else if x.st ≠ .frozen ∨ x.ended ∨ x.evicted then s.fctlDone die 3 2
  else if s.beyond die fun r => (decide (r.kind = 2) || decide (r.kind = 6)) && decide (r.field = num % 256) then s.fctlBusy die 3
  else (s.thaw f).fctlDone die 3 0

/-! ## RESTORE (R376) -/

/-- A rectangle of the die whose tiles hold no field. -/
def State.rectFree (s : State) (die x0 y0 w h : Nat) : Bool :=
  decide (1 ≤ w) && decide (1 ≤ h) && decide (x0 + w ≤ 12) && decide (y0 + h ≤ 12) &&
  (List.range h).all fun y => (List.range w).all fun x => (s.tile (die * 256 + (y0 + y) * 12 + x0 + x)).fld.isNone

/-- The cold load of a restore, its wave having crossed: tiles declared, every cell loaded, the measurement extended. -/
def State.loadWhole (s : State) (f x0 y0 image : Nat) (g : Bool) (im : Image) (bytes : List Byte) (ver : Nat) : State :=
  let w : Wave := ⟨bytes, .launch 0, true, true⟩
  let s1 := s.coldWave f x0 y0 image g im w
  let s2 := (s1.fieldCores f).foldl (fun s c => match s.sectOf f c im with | some x => s.declareTile c w ver x | none => s) s1
  let s3 := (s2.fieldCores f).foldl (fun s c => match s.sectOf f c im with
    | some x => (List.range 256).foldl (fun s i => s.loadCell (c * 256 + i) ver (x.cells.getD i [])) s
    | none => s) s2
  (s3.measure f ver bytes).modField f fun x => { x with ver := ver, wave := none }

/-- What the pump kept of the field's commands joins their entries again; one whose destination has become unreachable ends (R405). -/
def State.joinSends (s : State) (f : Nat) : State :=
  let kept := s.cmds.filter fun x => decide (x.1 / 2 ^ 24 = 1 + f)
  let s1 : State := { s with cmds := s.cmds.filter fun x => decide (x.1 / 2 ^ 24 ≠ 1 + f) }
  kept.foldl (fun s x =>
    let cm := x.1 % 2 ^ 24
    if (s.cmd cm).op ≠ 0x31 then s.modCmd cm fun c => { c with redo := x.2.redo }
    else if (s.cmd cm).live then
      let s2 := s.modCmd cm fun c =>
        { c with ver := x.2.ver, mseq := x.2.mseq, mkind := x.2.mkind, sent := x.2.sent, mdesc := x.2.mdesc, buf := x.2.buf
                 pull := x.2.pull, mdone := x.2.mdone, start := x.2.start }
      let m := sdMod x.2.mdesc
      if x.2.sent && !x.2.mdone && !s.ownModule m && !s.reachable m then
        (s2.failCmd cm 8).raiseAsync (taskOfCmd cm) .rmtUnknown (cmdInfo m cm)
      else s2
    else s) s1

/-- The vout words of a restored task, with the destinations they were pushed for (R153). -/
def State.joinVout (s : State) (f : Nat) (blocks : List (Nat × List Byte)) : State :=
  blocks.foldl (fun s x =>
    let words := fifoAt x.2 856 8
    let kept := (s.field f).kept.filter fun m => decide (m.src = some x.1)
    let v := (s.task x.1).voutdst
    words.zipIdx.foldl (fun s w =>
      match kept[w.2]? with
      | some m => s.send (some x.1) m.core m.vc w.1 true
      | none => s.send (some x.1) (voutCore v) (voutVc v) w.1 true) s) s

/-- The edge-output FIFOs of a restored tile hold what they held. -/
def State.joinOut (s : State) (f core : Nat) : State :=
  let l := (s.field f).keptOut.filter fun x => decide (x.1 / 32 = core)
  s.modTile core fun t => { t with outq := l.map fun x => (x.1 % 32, x.2) }

/-- Wait-well entries that the tile blocks of a save image hold. -/
def savedWells (n : Nat) (l : List Byte) : Nat :=
  ((List.range n).flatMap fun i => (List.range 8).filter fun x => decide (leAt l (64 + tileBlockLen * i + 64 + 2048 * x + 838) 1 = 1)).length

/-- The tiles, queues, cells and words of a save image, its list of granules having been put back. -/
def State.restoreTiles (s : State) (f : Nat) (l : List Byte) : State :=
  let cs := (s.fieldCores f).zipIdx
  let s1 := cs.foldl (fun s c => (s.readTile f c.1 (part l (64 + tileBlockLen * c.2) tileBlockLen)).joinOut f c.1) s
  let blocks := cs.flatMap fun c => (List.range 8).map fun x => (taskAt c.1 x, part l (64 + tileBlockLen * c.2 + 64 + 2048 * x) 2048)
  ((s1.joinVout f blocks).joinSends f).modField f fun x =>
    { x with st := .frozen, evicted := false, dirtyG := [], dirtyB := [], kept := [], keptOut := [], frozenAt := s.cycle }

/-- The field's cold image loaded whole into the rectangle of a save image `l` with header `h`. -/
def State.restoreLoad (s : State) (f : Nat) (h : List Byte) (im : Image) (bytes : List Byte) : State :=
  let o := s.field f
  (s.loadWhole f (leAt h 8 1) (leAt h 9 1) (leAt h 16 8) o.coldG im (bytes.take (leAt bytes 40 8)) (leAt h 12 2)).modField f fun x =>
    { x with
      gwbase := leAt h 24 4, gwsize := leAt h 28 4, strict := o.strict, image := o.image, imageG := o.imageG
      held := o.held, heldImage := o.heldImage, armed := o.armed, kept := o.kept, keptOut := o.keptOut }

/-- Why the rectangle and the window of a save image with header `h` cannot be taken: one of another field's tiles, or its window. -/
def State.restoreTaken (s : State) (f : Nat) (h : List Byte) : Bool :=
  !s.rectFree (f / 256) (leAt h 8 1) (leAt h 9 1) (leAt h 10 1) (leAt h 11 1) ||
  s.fields.any fun x => decide (x.1 / 256 = f / 256 ∧ x.1 ≠ f ∧ x.2.st ≠ .unloaded) && !x.2.evicted &&
    meets (leAt h 24 4) (leAt h 28 4) x.2.gwbase x.2.gwsize

/-- The header of a save image is not one of this field's. -/
def badHeader (f : Nat) (h : List Byte) : Bool :=
  decide (leAt h 0 4 ≠ 0x51465356) || decide (leAt h 4 2 ≠ 1) || decide (leAt h 6 1 ≠ f / 256) || decide (leAt h 7 1 ≠ f % 256)

/-- The field's cold image, at the address that a save image with header `h` names. -/
def State.coldBytes (s : State) (f : Nat) (h : List Byte) : Option (List Byte) := s.readImage (f / 256) (s.field f).coldG (leAt h 16 8)

/-- The wait-well entries of a save image `l` with header `h` do not fit in the die's well. -/
def State.wellsOver (s : State) (f : Nat) (h l : List Byte) : Bool :=
  decide (4096 < s.wellUse (fun c => decide (dieOf c = f / 256)) + savedWells (leAt h 10 1 * leAt h 11 1) l)

/-- A save image `l` with header `h`, its place free: the field in place and FROZEN, or the reason it fails. -/
def State.restoreImage (s : State) (f : Nat) (h l : List Byte) : Except Nat State :=
  if s.wellsOver f h l then .error 5
  else match s.judgeImage (f / 256) f (leAt h 10 1) (leAt h 11 1) (s.coldBytes f h) with
    | .error _ => .error 6
    | .ok im =>
      let bytes := (s.coldBytes f h).getD []
      match (s.restoreLoad f h im bytes).readGranules f (leAt h 32 4) (l.drop (leAt h 36 8)) with
      | none => .error 3
      | some s1 => .ok (s1.restoreTiles f l)

/-- A save image that was read, its place free, or why its bytes are not there. -/
def State.restoreRead (s : State) (f : Nat) (h : List Byte) : Option (List Byte) → Except Nat State
  | none => .error 3
  | some l => s.restoreImage f h l

/-- A save image's header, or why it is not there: the image is read and judged. -/
def State.restoreHeader (s : State) (f : Nat) : Option (List Byte) → Except Nat State
  | none => .error 3
  | some h =>
    if badHeader f h then .error 3
    else if s.restoreTaken f h then .error 4
    else s.restoreRead f h (s.readDva .stream (s.saveArea (f / 256)) (max 64 (leAt h 44 8)))

/-- RESTORE: the field in place and FROZEN, or the reason it fails. -/
def State.restoreField (s : State) (f : Nat) : Except Nat State :=
  s.restoreHeader f (s.readDva .stream (s.saveArea (f / 256)) 64)

/-- The ranges of device virtual addresses that RESTORE reads, as far as they are known. -/
def State.restoreRanges (s : State) (f : Nat) : List (Nat × Nat) :=
  let a := s.saveArea (f / 256)
  (a, 64) :: match s.readDva .stream a 64 with
    | some h => if badHeader f h then [] else (a, max 64 (leAt h 44 8)) :: s.imageRanges (f / 256) (s.field f).coldG (leAt h 16 8)
    | none => []

/-- The samples of the reads that RESTORE makes: the save image's header, the rest of it, and the field's cold image, as far as it gets
(R430). -/
def State.restoreReads (s : State) (f : Nat) : State :=
  let a := s.saveArea (f / 256)
  match s.readDva .stream a 64 with
  | none => s.noteDva a 64
  | some h =>
    if badHeader f h || s.restoreTaken f h then s.noteDva a 64
    else
      let s1 := s.noteDva a (max 64 (leAt h 44 8))
      match s.readDva .stream a (max 64 (leAt h 44 8)) with
      | none => s1
      | some l =>
        if s.wellsOver f h l || (s.field f).coldG then s1
        else s1.noteDva (leAt h 16 8) (match s.coldBytes f h with | some b => b.length | none => 64)

/-- RESTORE, at once or when the lines of peers' memory that it reads have come. -/
def State.restoreOn (s : State) (die num : Nat) : State :=
  let f := fieldKey die num
  let x := s.field f
  let need := s.linesNeeded (s.restoreRanges f)
  if x.st = .unloaded then s.fctlDone die 4 1
  else if x.st ≠ .frozen ∨ !x.evicted then s.fctlDone die 4 2
  else if !need.isEmpty then (s.askLines need).fctlBusy die 4
  else
    let s0 := s.restoreReads f
    (match s0.restoreField f with
    | .ok s1 => s1.fctlDone die 4 0
    | .error r => s0.fctlDone die 4 r).dropLines

/-! ## TEARDOWN, ATTACH, DETACH, ARM, DISARM (R349, R377, R378) -/

/-- A frozen field is unloaded; its launches complete FAULTED with the fault's cause, or TORNDOWN (R349). -/
def State.tearField (s : State) (f : Nat) : State :=
  let s1 := match (s.field f).cause with
    | some c => s.completeAll f 4 c fun _ => true
    | none => s.completeAll f 5 0 fun _ => true
  s1.unloadField f

/-- An operation that needs a frozen field and ends at once. -/
def State.onFrozen (s : State) (die op num : Nat) (g : Nat → State → State) : State :=
  let f := fieldKey die num
  if (s.field f).st = .unloaded then s.fctlDone die op 1
  else if (s.field f).st ≠ .frozen then s.fctlDone die op 2
  else (g f s).fctlDone die op 0

/-- An operation on any field there is. -/
def State.onField (s : State) (die op num : Nat) (g : Nat → State → State) : State :=
  let f := fieldKey die num
  if (s.field f).st = .unloaded then s.fctlDone die op 1 else (g f s).fctlDone die op 0

def State.attachField (f : Nat) (s : State) : State := s.modField f fun x => { x with dump := none }

/-- The dump timer, which runs for a field that a fault froze, starts from zero. -/
def State.detachField (f : Nat) (s : State) : State :=
  s.modField f fun x => { x with dump := if x.cause.isSome then some s.cycle else none }

def State.armField (f : Nat) (s : State) : State := s.modField f fun x => { x with armed := true }

/-- The stop flag clears: a wave that it holds in a LIVE field enters. -/
def State.disarmField (f : Nat) (s : State) : State :=
  let s1 := s.modField f fun x => { x with armed := false }
  if (s.field f).st = .live then s1.releaseWave f else s1

/-! ## The operations of FCTL -/

/-- An operation on a field starts, FSTAT not being BUSY. -/
def State.fctlOp (s : State) (die op num : Nat) : State :=
  let s1 := s.modDie die fun d => d.setReg 0x110 (op * 256 + num % 256)
  match op with
  | 1 => s1.startFreeze die 1 num
  | 2 => s1.startFreeze die 2 num
  | 3 => s1.resumeOn die num
  | 4 => s1.restoreOn die num
  | 5 => s1.onFrozen die 5 num fun f s => s.tearField f
  | 6 => s1.onFrozen die 6 num State.attachField
  | 7 => s1.onFrozen die 7 num State.detachField
  | 8 => s1.onField die 8 num State.armField
  | _ => s1.onField die 9 num State.disarmField

/-- A write of FCTL. -/
def State.fctl (s : State) (die v : Nat) : State :=
  let op := bits v 8 4
  if bits v 12 20 ≠ 0 ∨ bitB (s.die die).fstat.toNat 31 ∨ op = 0 ∨ 9 < op then s else s.fctlOp die op (v % 256)

/-- An operation of FCTL as an event: it starts, or goes on when it is in progress. -/
def State.fctlEvent (s : State) (die op num : Nat) : State :=
  if s.fctlAt die op num then
    (match op with
      | 3 => s.resumeOn die num
      | 4 => s.restoreOn die num
      | _ => s.freezeOn die op num)
  else s.fctl die (op * 256 + num % 256)

def execPreempt (die fld : Nat) (s : State) : Host.Outcome State Fault Refusal := .next (s.fctlEvent die 1 fld)
def execEvict (die fld : Nat) (s : State) : Host.Outcome State Fault Refusal := .next (s.fctlEvent die 2 fld)
def execResume (die fld : Nat) (s : State) : Host.Outcome State Fault Refusal := .next (s.fctlEvent die 3 fld)
def execRestore (die fld : Nat) (s : State) : Host.Outcome State Fault Refusal := .next (s.fctlEvent die 4 fld)
def execTeardown (die fld : Nat) (s : State) : Host.Outcome State Fault Refusal := .next (s.fctl die (5 * 256 + fld % 256))
def execAttach (die fld : Nat) (s : State) : Host.Outcome State Fault Refusal := .next (s.fctl die (6 * 256 + fld % 256))
def execDetach (die fld : Nat) (s : State) : Host.Outcome State Fault Refusal := .next (s.fctl die (7 * 256 + fld % 256))
def execArm (die fld : Nat) (s : State) : Host.Outcome State Fault Refusal := .next (s.fctl die (8 * 256 + fld % 256))
def execDisarm (die fld : Nat) (s : State) : Host.Outcome State Fault Refusal := .next (s.fctl die (9 * 256 + fld % 256))

/-! ## Dump limits and debug stops (R377, R378) -/

/-- A record that names a field alone. -/
def State.fieldRec (s : State) (f kind : Nat) : State :=
  s.pushRec ⟨kind, .none, f / 256, f % 256, (s.field f).ver, 255, 255, 0, 255, 255, 0, 0, 0, s.cycle⟩

/-- The field's dump timer has run for DUMPLIM milliseconds of 2,400,000 cycles. -/
def State.dumpDue (s : State) (f : Nat) : Bool :=
  match (s.field f).dump with
  | some t => decide ((s.die (f / 256)).reg 0x114 ≠ 0) && decide (t + (s.die (f / 256)).reg 0x114 * 2400000 ≤ s.cycle)
  | none => false

/-- DUMP_LIMIT_EXPIRY. -/
def execDumpLimitExpiry (f : Nat) (s : State) : Host.Outcome State Fault Refusal :=
  .next (if s.dumpDue f then (s.fieldRec f 7).tearField f else s)

/-- No link of the field holds a word. -/
def State.linksEmpty (s : State) (f : Nat) : Bool :=
  (s.cells.all fun x => !s.cellIn f x.1 || ((x.2.inp.all fun y => y.2.isEmpty) && x.2.wires.all fun y => y.2.isEmpty)) &&
  (s.fieldCores f).all fun c => (s.tile c).outq.all fun y => y.2.isEmpty

/-- DEBUG_STOP: a wave is held, and everything else of the field rests. -/
def State.debugStop (s : State) (f : Nat) : State :=
  let x := s.field f
  match s.heldWave f with
  | none => s
  | some w =>
    if decide (x.st = .live) && x.armed && !s.returnsOpen f && s.restBut f w.scfg && s.linksEmpty f then
      (((s.freezeInPlace f).modField f fun x => { x with dstop := true }).fieldRec f 6).traceEvent (f / 256) 7 0 0 (f % 256) x.ver
    else s

def execDebugStop (f : Nat) (s : State) : Host.Outcome State Fault Refusal := .next (s.debugStop f)

/-! ## STRCTL (R370) -/

/-- Landings of a tile that a not-present page has paused. -/
def State.pausedLandings (s : State) (core : Nat) : List Nat :=
  (s.rx.entries.filter fun x => x.2.paused && decide (coreOf x.2.task = core)).map (·.1)

/-- The record of a paused stream, or of a tile's landing, waits beyond those held on chip. -/
def State.strWaits (s : State) (die tile ctx entry : Nat) : Bool :=
  s.beyond die fun r => decide (r.kind = 3) && decide (r.tile = tile) && decide (r.ctx = ctx) && decide (r.addr = entry)

/-- A write of STRCTL with operation 1 (resume) or 2 (kill). -/
def State.strctl (s : State) (die v : Nat) : State :=
  let op := bits v 16 2
  let entry := bits v 12 4
  let ctx := bits v 8 3
  let tile := v % 256
  let core := die * 256 + tile
  if bits v 18 14 ≠ 0 ∨ 143 < tile ∨ op = 0 ∨ op = 3 then s
  else if bitB v 11 then
    if ctx ≠ 0 ∨ entry ≠ 0 ∨ s.strWaits die tile 8 0 then s
    else (s.pausedLandings core).foldl (fun s e =>
      if op = 1 then (s.modEntry e fun en => { en with paused := false }).landAll e else s.landFault e) s
  else
    let cm := cmdAt (taskAt core ctx) entry
    if (s.cmd cm).st ≠ .paused ∨ s.strWaits die tile ctx entry then s
    else if op = 1 then s.modCmd cm fun c => { c with st := .running, fault := 0, xl := none }
    else s.killCmd cm

/-- STRCTL_RESUME: v names the stream as STRCTL does. -/
def execStrctlResume (die v : Nat) (s : State) : Host.Outcome State Fault Refusal :=
  .next (s.strctl die (v % 2 ^ 16 + 2 ^ 16 + v / 2 ^ 18 * 2 ^ 18))

def execStrctlKill (die v : Nat) (s : State) : Host.Outcome State Fault Refusal :=
  .next (s.strctl die (v % 2 ^ 16 + 2 * 2 ^ 16 + v / 2 ^ 18 * 2 ^ 18))

/-! ## The debug window (R82, R371) -/

/-- The bytes of the item that DWSEL selects, where access is permitted; none otherwise. -/
def State.dwItem (s : State) (die sel : Nat) : Option (List Byte) :=
  let core := die * 256 + sel % 256
  let n := bits sel 8 8
  match s.fieldOf core with
  | none => none
  | some f =>
    let frozen := decide ((s.field f).st = .frozen)
    match bits sel 16 2 with
    | 0 =>
      let t := s.task (taskAt core n)
      if n < 8 && (frozen || decide (t.st = .held) || decide (t.st = .faulted)) then some (s.taskBlock (taskAt core n)) else none
    | 1 => if frozen then some (s.cell (core * 256 + n)).bytes else none
    | 2 => if frozen && decide (n < 128) then some (s.cmd (core * 128 + n)).bytes else none
    | _ =>
      if !frozen then none
      else if n = 0 then some (s.tileHeader f core ++ s.counterBytes core ++ s.vcBytes core ++ s.lockBytes f core)
      else if n = 1 then some (s.storeBytes core)
      else none

/-- Replace word n of a list of bytes. -/
def setWord (l : List Byte) (n v : Nat) : List Byte := l.take (4 * n) ++ bytesOfNat 4 v ++ l.drop (4 * n + 4)

/-- A write of the window takes effect on the parts that it reaches. -/
def State.dwWrite (s : State) (die sel v : Nat) (l : List Byte) : State :=
  let core := die * 256 + sel % 256
  let n := bits sel 8 8
  let o := bits sel 18 14
  match bits sel 16 2 with
  | 0 =>
    if (4 ≤ o ∧ o ≤ 183) ∨ (300 ≤ o ∧ o ≤ 315) then s.modTask (taskAt core n) fun t => t.readParts (setWord l o v) else s
  | 1 => if 4 ≤ o ∧ o ≤ 53 then s.modCell (core * 256 + n) fun c => c.readParts (setWord l o v) else s
  | _ => s

/-- OFFSET steps. -/
def nextSel (sel : Nat) : Nat := sel % 2 ^ 18 + (bits sel 18 14 + 1) % 2 ^ 14 * 2 ^ 18

/-- One access of DWDATA: the word read, and the state after. -/
def State.dwAccess (s : State) (die : Nat) (wr : Option Nat) : Nat × State :=
  let sel := (s.die die).reg 0x120
  let o := bits sel 18 14
  let step (s : State) : State := s.modDie die fun d => d.setReg 0x120 (nextSel sel)
  match s.dwItem die sel with
  | none => (0, step s)
  | some l =>
    if l.length ≤ 4 * o then (0, step s)
    else match wr with
      | none => (leAt l (4 * o) 4, step s)
      | some v => (0, step (s.dwWrite die sel v l))

def execDwdataAccess (die : Nat) (wr : Option Nat) (s : State) : Host.Outcome State Fault Refusal := .next (s.dwAccess die wr).2

/-! ## MIGRELH (R366) -/

/-- MIGRELH: the hold queue of the page that MIGRELL and the write name is released. -/
def State.migrelh (s : State) (die v : Nat) : State :=
  s.releasePage (v % 65536 * 2 ^ 32 + (s.die die).migrell.toNat / 65536 * 65536)

def execMigrelh (die v : Nat) (s : State) : Host.Outcome State Fault Refusal := .next (s.migrelh die v)

end Sys2Proof.Machine
end

