-- ==== Sys2Proof/Machine/Package.lean ====
section
/-! DEFINITION. The package management block: power-on and boot, READY and HALT, attestation, clock steps under limits
(spec/16_dw_boot_security_power.md R382-R389; spec/14_dw_host_launch.md R332). -/

namespace Sys2Proof.Machine

/-! ## Boot (R383-R385) -/

/-- The rollback counter: as fused, or as a COMMIT has raised it. -/
def State.rollbackCount (s : State) : Nat := max Config.rollback s.pkg.rollbk

/-- All bytes are zero. -/
def zeros (l : List Byte) : Bool := l.all (· = 0)

/-- The bytes of the firmware image in a flash slot, if the slot boots. -/
def State.bootImage (s : State) (slot : Nat) : Option (List Byte) :=
  let h := s.read (.flash slot) 0 512
  let blen := leAt h 16 8
  if leAt h 0 4 ≠ 0x51465746 ∨ leAt h 4 2 ≠ 1 ∨ !zeros (part h 6 2) ∨ 255 < leAt h 8 4 ∨ 1 < leAt h 12 4 ∨ blen % 4096 ≠ 0 ∨ blen < 4096 ∨
      65536 < blen ∨ !zeros (part h 24 40) ∨ leAt h 64 1 ≠ 4 ∨ !zeros (part h 197 59) ∨ !zeros (part h 388 124) then none
  else
    let body := s.read (.flash slot) 512 blen
    if sha512 (part h 64 133) ≠ Config.keyDigest ∨ leAt h 8 4 < s.rollbackCount ∨
        !ecdsaVerify (part h 65 66) (part h 131 66) (h.take 256 ++ body) (part h 256 132) then none
    else some (h ++ body)

/-- A context of a management core as the ROM declares it. -/
def bootTask (c : Nat) : Task :=
  { st := if c = 0 then .runnable else .parked, kind := if c = 0 then .none else .endK, vc := some c }

/-- A management core as the ROM starts it, with its first n pages supplied. -/
def State.bootCore (s : State) (die n : Nat) : State :=
  let s1 := s.modTile (mgmtCore die) fun t => { t with pages := BitVec.ofNat 16 (2 ^ n - 1), vcs := [], pickfloor := 0 }
  (List.range 8).foldl (fun s c => s.modTask (taskAt (mgmtCore die) c) fun _ => bootTask c) s1

/-- A die leaves reset with a firmware image. -/
def State.bootDie (s : State) (l : List Byte) (die : Nat) : State :=
  (s.writeQuiet (.istore (mgmtCore die)) 0 (l.drop 512)).bootCore die ((l.length - 512) / 4096)

/-- The dies leave reset with a firmware image from a slot. -/
def State.bootWith (s : State) (slot : Nat) (l : List Byte) : State :=
  let s1 := (List.range 4).foldl (fun s d => s.bootDie l d) s
  { s1 with pkg := { s1.pkg with
      started := true, svn := leAt l 8 4, slot := slot, fwHash := sha512 l
      rollbk := if bitB (leAt l 12 4) 0 then max s1.rollbackCount (leAt l 8 4) else s1.pkg.rollbk } }

/-- What outlives a loss of power: flash, the host's memory, the rollback counter; and the model's own schedule and counters. -/
def State.powerCycle (s : State) : State :=
  { State.reset with
    mem := s.mem.filter fun x => decide (2 ^ 56 ≤ x.1)
    pkg := { State.reset.pkg with rollbk := s.pkg.rollbk, reports := s.pkg.reports }
    health := { State.reset.health with samples := s.health.samples }
    agenda := s.agenda, here := s.here, fresh := s.fresh, out := s.out }

/-- The ROM with the firmware images of the slots: slot A's, else slot B's; with neither, FWSTATE is 2 and the dies stay in reset. -/
def State.bootSlots (s : State) : Option (List Byte) → Option (List Byte) → State
  | some l, _ => s.bootWith 0 l
  | none, some l => s.bootWith 1 l
  | none, none => { s with pkg := { s.pkg with fwstate := 2 } }

/-- POWER_ON: the ROM tries slot A, then slot B. -/
def State.powerOn (s : State) : State := s.powerCycle.bootSlots (s.powerCycle.bootImage 0) (s.powerCycle.bootImage 1)

def execPowerOn (s : State) : Host.Outcome State Fault Refusal := .next s.powerOn

/-- READY of a die; with all four, FWSTATE leaves 0 for 1. -/
def State.readyDie (s : State) (die : Nat) : State :=
  let s1 := s.modDie die fun d => { d with ready := true }
  if s1.pkg.fwstate = 0 && (List.range 4).all fun d => (s1.die d).ready then { s1 with pkg := { s1.pkg with fwstate := 1 } } else s1

/-- FWSTATE becomes 2 and stays so until power-on. -/
def State.haltPkg (s : State) : State := { s with pkg := { s.pkg with fwstate := 2 } }

/-- A write of PKGCTL (R382). -/
def State.pkgctl (s : State) (die v : Nat) : State :=
  if 4 ≤ v then s
  else
    let s1 := if bitB v 0 then s.readyDie die else s
    if bitB v 1 then s1.haltPkg else s1

def execReady (die : Nat) (s : State) : Host.Outcome State Fault Refusal := .next (s.pkgctl die 1)
def execHalt (die : Nat) (s : State) : Host.Outcome State Fault Refusal := .next (s.pkgctl die 2)

/-! ## Attestation (R387) -/

/-- A buffer address that a report may have. -/
def State.attOk (s : State) (die a : Nat) : Bool :=
  decide (a % 64 = 0) && decide (0x10000000 ≤ a) && decide (a + 768 ≤ 0x16000000) &&
  !s.fields.any fun x => decide (x.1 / 256 = die) && decide (x.2.st ≠ .unloaded) && !x.2.evicted && meets a 768 x.2.gwbase x.2.gwsize

/-- A write of ATTREQ. -/
def State.attreq (s : State) (die a : Nat) : State :=
  s.modDie die fun d =>
    if d.attBusy then { d with attResult := 2 }
    else if !s.attOk die a then { d with attResult := 1 }
    else { d with attBusy := true, attResult := 0, attAddr := a }

def execAttreq (die a : Nat) (s : State) : Host.Outcome State Fault Refusal := .next (s.attreq die (a % 2 ^ 32))

/-- A report with the nonce that stands in its buffer. -/
def State.report768 (s : State) (nonce : List Byte) : List Byte :=
  let l := bytesOfNat 4 0x51415452 ++ bytesOfNat 2 1 ++ bytesOfNat 2 s.fab.modid ++
    bytesOfNat 1 s.pkg.svn ++ bytesOfNat 1 s.rollbackCount ++ bytesOfNat 1 s.pkg.slot ++ [0] ++ bytesOfNat 4 0 ++ block 64 nonce ++
    block 64 s.pkg.fwHash ++ ((List.range 4).flatMap fun d => block 64 (s.die d).meas) ++
    ((List.range 4).flatMap fun d => bytesOfNat 4 (s.die d).measN.toNat) ++ block 132 (ecdsaPublic Config.identitySecret)
  block 768 (l ++ block 132 (ecdsaSign Config.identitySecret (Config.signNonce s.pkg.reports) l))

/-- ATTESTATION_COMPLETE: the report has been written whole. -/
def State.attDone (s : State) (die : Nat) : State :=
  let d := s.die die
  if !d.attBusy then s
  else
    let o := d.attAddr - 0x10000000
    let s1 := (s.write (.granary die) o (s.report768 (s.read (.granary die) (o + 16) 64))).modDie die fun d => { d with attBusy := false }
    { s1 with pkg := { s1.pkg with reports := s1.pkg.reports + 1 } }

def execAttestationComplete (die : Nat) (s : State) : Host.Outcome State Fault Refusal := .next (s.attDone die)

/-! ## Clock steps (R388, R389) -/

/-- The fields that hold tiles and satisfy a condition take another step. -/
def State.stepFields (s : State) (p : Nat → Field → Bool) (g : Field → Nat) : State :=
  { s with fields := Sparse.mapAll {} (fun k (x : Field) => if decide (x.st ≠ .unloaded) && p k x then { x with step := g x } else x) s.fields }

/-- One step slower, 1.2 GHz being the slowest. -/
def Field.slower (x : Field) : Nat := min 3 (x.step + 1)

/-- A write of STEPSEL: the selected field, and its ceiling. -/
def State.stepsel (s : State) (die v : Nat) : State :=
  let c := bits v 8 2
  (s.modDie die fun d => { d with stepField := v % 256 }).modField (fieldKey die v) fun x =>
    { x with ceil := c, step := max x.step c }

def execStepselCeiling (die v : Nat) (s : State) : Host.Outcome State Fault Refusal := .next (s.stepsel die v)

/-- The hottest junction has at least some degrees (R382). -/
def State.hotter (s : State) (t : Nat) : State := { s with pkg := { s.pkg with tj := max s.pkg.tj t } }

/-- JUNCTION_100C: every field of the die drops one step. -/
def execJunction100C (die : Nat) (s : State) : Host.Outcome State Fault Refusal :=
  .next ((s.stepFields (fun k _ => decide (k / 256 = die)) Field.slower).hotter 100)

/-- The fastest step in use. -/
def State.fastest (s : State) : Nat := (s.fields.filter fun x => decide (x.2.st ≠ .unloaded)).foldl (fun m x => min m x.2.step) 3

/-- A die has a field at a step. -/
def State.dieAt (s : State) (step die : Nat) : Bool :=
  s.fields.any fun x => decide (x.2.st ≠ .unloaded) && decide (x.1 / 256 = die) && decide (x.2.step = step)

/-- POWER_CAP_EXCEEDED: the fields at the fastest step in use drop one step, on the next die in turn that has one. -/
def State.powerCap (s : State) : State :=
  let m := s.fastest
  match ((List.range 4).map fun i => (s.pkg.dropDie + i) % 4).find? (s.dieAt m) with
  | none => s
  | some d =>
    let s1 := s.stepFields (fun k x => decide (k / 256 = d) && decide (x.step = m)) Field.slower
    { s1 with pkg := { s1.pkg with dropDie := (d + 1) % 4 } }

def execPowerCapExceeded (s : State) : Host.Outcome State Fault Refusal := .next s.powerCap

/-- STEP_RECOVERY: every field below its ceiling rises one step. -/
def execStepRecovery (s : State) : Host.Outcome State Fault Refusal :=
  .next (s.stepFields (fun _ x => decide (x.ceil < x.step)) fun x => x.step - 1)

/-- Every LIVE field freezes as a field fault with cause 0x00. -/
def State.freezeLive (s : State) : State :=
  (s.fields.filter fun x => decide (x.2.st = .live)).foldl (fun s x => s.fieldFault x.1 .none 255 255 255 0) s

/-- JUNCTION_110C. -/
def execJunction110C (s : State) : Host.Outcome State Fault Refusal := .next (s.freezeLive.haltPkg.hotter 110)

/-! ## The PCIe link (R332) -/

/-- PCIE_LINK_DOWN: every LIVE field freezes. -/
def execPcieLinkDown (s : State) : Host.Outcome State Fault Refusal :=
  .next (let s1 := s.freezeLive
    { s1 with intake := { s1.intake with linkUp := false } })

/-- PCIE_LINK_RETRAIN: the host path returns. -/
def execPcieLinkRetrain (s : State) : Host.Outcome State Fault Refusal := .next { s with intake := { s.intake with linkUp := true } }

end Sys2Proof.Machine
end

