-- ==== Sys2Proof/Machine/Sys.lean ====
section
/-! DEFINITION. MFS and MTS: the system registers of tasks, the health counters, the package and the management registers
(spec/05_cw_slice_control_isa.md R168; spec/15_dw_translation_faults.md R358; spec/16_dw_boot_security_power.md R382;
spec/19_fo_health.md R427). -/

namespace Sys2Proof.Machine

/-! ## Reading -/

/-- TASKID of the issuing task, its binding as it stood before the bundle. -/
def State.taskId (s : State) : Nat :=
  let c := s.myCore
  (match s.issue.vc with | some v => 2 ^ 26 + v * 8 | none => 0) + dieOf c * 2 ^ 24 + s.fieldNum c * 2 ^ 16 + tileOf c * 2 ^ 8 + ctxOf s.me

/-- The health counters and gauges (R427). -/
def State.counterRead (s : State) (r : Nat) : Nat :=
  let t := s.tile s.myCore
  let f : Field := match s.fieldOf s.myCore with | some k => s.field k | none => {}
  match r with
  | 0x40 => (s.task s.me).qstall.toNat
  | 0x41 => (s.task s.me).qdone.toNat
  | 0x48 => t.tbeats.toNat
  | 0x49 => t.txmiss.toNat
  | 0x4A => t.tgapn.toNat
  | 0x4B => t.tgapx.toNat
  | 0x4C => t.tlockw / 12 % 2 ^ 32
  | 0x50 => f.disc.toNat
  | 0x51 => f.step
  | 0x58 => s.pkg.mrefuse.toNat
  | 0x59 => s.pkg.mmatch.toNat
  | 0x5A => s.rx.cistern.length
  | 0x5B => s.rx.hold.length
  | 0x5C => (s.fab.peers.map fun p => p.2.relay.length).sum
  | 0x5D => s.pkg.mresend.toNat
  | 0x5E => s.pkg.mfref.toNat
  | _ => s.fab.txLive

/-- The package registers (R382); write-only ones read zero. -/
def State.pkgRead (s : State) (die r : Nat) : Nat :=
  let d := s.die die
  match r with
  | 0x81 => s.pkg.tj % 256 * 2 ^ 24 + s.pkg.svn % 256 * 2 ^ 16 + s.rollbackCount % 256 * 2 ^ 8 + s.pkg.slot % 2
  | 0x82 => s.pkg.pwrcap
  | 0x83 =>
    let f := s.field (fieldKey die d.stepField)
    f.step % 4 * 2 ^ 16 + f.ceil % 4 * 2 ^ 8 + d.stepField
  | 0x85 => b2n d.attBusy * 2 ^ 31 + d.attResult % 4
  | _ => 0

/-- The field that WWSEL selects. -/
def State.wwField (s : State) (die : Nat) : Nat := fieldKey die ((s.die die).reg 0x160)

/-- The management registers but for DWDATA (R358); write-only ones read zero. -/
def State.mgmtRead (s : State) (die r : Nat) : Nat :=
  let d := s.die die
  match r with
  | 0x100 => s.pkg.ptrootl.toNat
  | 0x101 => s.pkg.ptrooth.toNat
  | 0x10A => d.frtail.toNat
  | 0x10C => d.frlost.toNat
  | 0x110 => 0
  | 0x111 => d.fstat.toNat
  | 0x118 => 0
  | 0x128 => 0
  | 0x129 => 0
  | 0x153 => d.trtail.toNat
  | 0x155 => d.trlost.toNat
  | 0x161 => (s.field (s.wwField die)).wwlim
  | 0x162 => s.wellUse fun c => decide (s.fieldOf c = some (s.wwField die))
  | 0x168 => s.pkg.rxrgnl.toNat
  | 0x169 => s.pkg.rxrgnh.toNat
  | 0x16A => s.pkg.rxctl.toNat
  | r => d.reg r

/-- The value of a system register for the issuing task, and the state after the read. -/
def State.sysRead (s : State) (r : Nat) : Nat × State :=
  let t := s.task s.me
  let c := s.myCore
  let cyc := (s.tile c).corecycle
  match r with
  | 0 => (s.taskId, s)
  | 1 => (s.verOf c % 65536, s)
  | 2 => (t.tcycle % 2 ^ 32, s)
  | 3 => (cyc % 2 ^ 32, s.modTask s.me fun t => { t with cycleh := BitVec.ofNat 32 (cyc / 2 ^ 32) })
  | 4 => (t.cycleh.toNat, s)
  | 5 => (t.voutdst.toNat, s)
  | 0x10 => ((s.tile c).pickfloor.toNat, s)
  | 0x121 => s.dwAccess (dieOf c) none
  | r =>
    if r < 0x80 then (s.counterRead r, s)
    else if r < 0x100 then (s.pkgRead (dieOf c) r, { s with fresh := s.fresh + 1 })
    else (s.mgmtRead (dieOf c) r, s)

/-- MFS (R168): 32 bits through the landing buffer. A supervisor-only register raises PRIV, whatever the predicate. -/
def execMfs (c : Ctl) (d r : Nat) (s : State) : Host.Outcome State Fault Refusal :=
  let go (s : State) : State := (s.sysRead r).2.returnNow d 8 (s.sysRead r).1
  if sysregSupervisor r then slotPriv s (s.acts c.lc c.p) none go else slot s (s.acts c.lc c.p) go

/-- CYCLE_READ: an MFS of CYCLE latches the high half of the core's cycle count. -/
def execCycleRead (tk : Nat) (s : State) : Host.Outcome State Fault Refusal :=
  .next (s.modTask tk fun t => { t with cycleh := BitVec.ofNat 32 ((s.tile (coreOf tk)).corecycle / 2 ^ 32) })

/-! ## Writing -/

/-- Writable bits of the management registers held as plain words (R358, R367, R379, R380). -/
def mgmtMask (r : Nat) : List (Nat × Nat) :=
  match r with
  | 0x109 => [(31, 1), (12, 4), (0, 5)]
  | 0x113 => [(0, 16)]
  | 0x151 => [(0, 16)]
  | 0x152 => [(31, 1), (16, 5), (0, 8)]
  | 0x160 => [(0, 8)]
  | r =>
    if 0x130 ≤ r ∧ r < 0x150 then
      (if r % 4 = 1 then [(0, 16)] else if r % 4 = 2 then [(6, 26), (2, 3), (0, 1)] else [(0, 32)])
    else [(0, 32)]

/-- A module-wide register changes. -/
def State.modPkg (s : State) (g : Pkg → Pkg) : State := { s with pkg := g s.pkg }

/-- A write of a management register (R358). -/
def State.mgmtWrite (s : State) (die r v : Nat) : State :=
  let w := BitVec.ofNat 32 v
  match r with
  | 0x100 => s.modPkg fun p => { p with ptrootl := BitVec.ofNat 32 (v / 4096 * 4096) }
  | 0x101 => s.modPkg fun p => { p with ptrooth := BitVec.ofNat 32 (v % 256) }
  | 0x10C => s.modDie die fun d => { d with frlost := d.frlost &&& ~~~w }
  | 0x110 => s.fctl die v
  | 0x118 => s.strctl die v
  | 0x121 => (s.dwAccess die (some v)).2
  | 0x128 => s.modDie die fun d => { d with migrell := w }
  | 0x129 => s.migrelh die v
  | 0x155 => s.modDie die fun d => { d with trlost := d.trlost &&& ~~~w }
  | 0x161 => s.modField (s.wwField die) fun f => { f with wwlim := min 4096 (v % 8192) }
  | 0x168 => if s.pkg.fwstate = 0 then s.modPkg fun p => { p with rxrgnl := BitVec.ofNat 32 (v / 2 ^ 21 * 2 ^ 21) } else s
  | 0x169 => if s.pkg.fwstate = 0 then s.modPkg fun p => { p with rxrgnh := BitVec.ofNat 32 (v % 65536) } else s
  | 0x16A =>
    s.modPkg fun p =>
      { p with rxctl := BitVec.ofNat 32 (bits v 31 1 * 2 ^ 31 + (if p.fwstate = 0 then min 512 (v % 1024) else p.rxctl.toNat % 1024)) }
  | r => s.modDie die fun d => d.setReg r (keepBits v (mgmtMask r))

/-- A write of a package register (R382). -/
def State.pkgWrite (s : State) (die r v : Nat) : State :=
  match r with
  | 0x80 => s.pkgctl die v
  | 0x82 => s.modPkg fun p => { p with pwrcap := max 1600 (min 3200 (v % 65536)) }
  | 0x83 => s.stepsel die v
  | 0x84 => s.attreq die v
  | _ => s

/-- A write of a system register by the issuing task. -/
def State.sysWrite (s : State) (r v : Nat) : State :=
  let c := s.myCore
  if r = 5 then s.modTask s.me fun t => { t with voutdst := BitVec.ofNat 32 (keepBits v voutMask) }
  else if r = 0x10 then s.modTile c fun t => { t with pickfloor := BitVec.ofNat 32 (keepBits v pickMask) }
  else if r < 0x80 then s
  else if r < 0x100 then s.pkgWrite (dieOf c) r v
  else s.mgmtWrite (dieOf c) r v

/-- VOUTDST takes no destination tile above 143 (R168). -/
def mtsCause (r sl : Nat) (s : State) : Option (Cause × Nat) :=
  if r = 5 then s.protFree (decide (143 < bits (s.rd sl 32) 8 8)) else none

/-- MTS (R168). A write of a device register waits for the task's earlier accesses, those of earlier slots among them, and comes before the
task's next bundle (R358). -/
def execMts (c : Ctl) (r sl : Nat) (s : State) : Host.Outcome State Fault Refusal :=
  let go (s : State) : State :=
    let t := s.task s.me
    if 0x80 ≤ r && (t.accessOwed || !t.mts.isEmpty) then s.modTask s.me fun t => { t with mts := t.mts ++ [(r, s.rd sl 32)] }
    else s.sysWrite r (s.rd sl 32)
  if sysregSupervisor r then slotPriv s (s.acts c.lc c.p) none go else slotOr s (s.acts c.lc c.p) (mtsCause r sl s) go

end Sys2Proof.Machine
end

