-- ==== Sys2Proof/Machine/Host.lean ====
section
/-! DEFINITION. The host's side: BAR0 registers, the aperture, notifies, queue mapping, the intake, launches, unloads and seeds
(spec/14_dw_host_launch.md R333-R350; spec/10_kw_fields_streams.md R313). -/

namespace Sys2Proof.Machine

/-! ## BAR0 (R334-R336) -/

/-- The host reaches the module: the link is up and a firmware slot has booted (R332, R383). -/
def State.hostReach (s : State) : Bool := s.intake.linkUp && s.pkg.started

def State.modIntake (s : State) (g : Intake → Intake) : State := { s with intake := g s.intake }

def State.slot (s : State) (i : Nat) : Slot := Sparse.get {} s.intake.slots i

def State.modSlot (s : State) (i : Nat) (g : Slot → Slot) : State :=
  s.modIntake fun k => { k with slots := Sparse.modify {} k.slots i g }

/-- The 64-bit register at a BAR0 offset. -/
def State.bar0Read (s : State) (off : Nat) : Nat :=
  if off = 0x100000 then s.fab.modid % 65536 * 65536 + s.pkg.fwstate
  else if !s.pkg.started then 0
  else if off < 0x40000 ∧ off % 4096 = 8 then
    let x := s.slot (off / 4096)
    b2n x.mapped * 2 ^ 44 + x.queue * 2 ^ 32 + x.tail
  else if (0x40000 ≤ off ∧ off < 0x40400) ∨ off = 0x50000 then (Sparse.get 0 s.intake.msix (off / 8)).toNat
  else if off = 0x100008 then s.intake.qdtbase
  else if off = 0x100010 then s.intake.apbase.toNat
  else if off = 0x100018 then s.intake.aperr.toNat
  else if off = 0x100020 then s.intake.badnotify.toNat
  else 0

/-! ## Queue descriptors (R337) -/

/-- A queue descriptor. -/
structure QDesc where
  base : Nat
  cbase : Nat
  tail : Nat
  head : Nat
  lg : Nat
  prio : Nat
  loc : Bool
  vec : Nat
  deriving DecidableEq, Repr

/-- Address of descriptor q. -/
def State.qdAddr (s : State) (q : Nat) : Nat := s.intake.qdtbase + 64 * q

/-- The fields of a descriptor. -/
def descFields (l : List Byte) : QDesc :=
  ⟨leAt l 0 8, leAt l 8 8, leAt l 16 4, leAt l 20 4, leAt l 24 1, leAt l 25 1, bitB (leAt l 26 1) 0, leAt l 27 1⟩

/-- A descriptor enables its queue. -/
def descEnabled (l : List Byte) : Bool := bitB (leAt l 26 1) 1

/-- Descriptor q, if it can be read and its queue may be mapped. -/
def State.qdesc (s : State) (q : Nat) : Option QDesc :=
  match s.readDva .stream (s.qdAddr q) 64 with
  | none => none
  | some l =>
    let d := descFields l
    if bits (leAt l 26 1) 1 7 ≠ 1 ∨ 16 < d.lg ∨ 3 < d.prio ∨ d.base % 128 ≠ 0 ∨ d.cbase % 16 ≠ 0 ∨ (64 ≤ d.vec ∧ d.vec ≤ 254) ∨
        !zeros (l.drop 28) then none
    else some d

/-- Descriptor q, if it can be read and enables its queue, whatever else is wrong with it (R340). -/
def State.qenabled (s : State) (q : Nat) : Option QDesc :=
  (s.readDva .stream (s.qdAddr q) 64).bind fun l => if descEnabled l then some (descFields l) else none

/-- Store into descriptor q; none where its page takes no store. -/
def State.putDesc (s : State) (q o n v : Nat) : Option State := s.writeDva .stream (s.qdAddr q + o) (bytesOfNat n v)

/-- The slot that a queue is mapped to. -/
def State.slotOf (s : State) (q : Nat) : Option Nat :=
  (List.range 64).find? fun i => (s.slot i).mapped && decide ((s.slot i).queue = q)

/-! ## NOTIFY, mapping and unmapping (R339, R340) -/

/-- A notify counts as bad. -/
def State.badNotify (s : State) : State := s.modIntake fun k => { k with badnotify := k.badnotify + 1 }

/-- A 64-bit write of a NOTIFY register. A tail that a descriptor cannot take, or a descriptor that cannot be read, counts as bad (DESIGN CHOICE,
log 65). -/
def State.notifyNow (s : State) (v : Nat) : State :=
  let q := bits v 32 12
  let t := v % 2 ^ 32
  match s.qenabled q with
    | none => s.badNotify
    | some d =>
      let m := s.slotOf q
      let c := match m with | some i => (s.slot i).tail | none => d.tail
      if 2 ^ d.lg < (t + 2 ^ 32 - d.head) % 2 ^ 32 ∨ 2 ^ 31 ≤ (t + 2 ^ 32 - c) % 2 ^ 32 then s.badNotify
      else match m with
        | some i => s.modSlot i fun x => { x with tail := t }
        | none => (s.putDesc q 16 4 t).getD s.badNotify

/-- A notify, once the descriptor that it names can be read. -/
def State.notify (s : State) (v : Nat) : State :=
  if bits v 44 20 ≠ 0 then s.badNotify
  else s.withLines [(s.qdAddr (bits v 32 12), 64)] fun s => (s.noteDva (s.qdAddr (bits v 32 12)) 64).notifyNow v

def execNotify (slot v : Nat) (s : State) : Host.Outcome State Fault Refusal :=
  .next (if s.hostReach && decide (slot < 64) then s.notify (v % 2 ^ 64) else s)

/-- A queue and a slot that may be joined. -/
def State.mayMap (s : State) (q slot : Nat) : Bool :=
  decide (slot < 64) && decide (q < 4096) && !(s.slot slot).mapped && (s.slotOf q).isNone

/-- QUEUE_MAP: a queue whose descriptor is good, to a free slot; the tail comes from the descriptor. -/
def State.mapQueue (s : State) (q slot : Nat) : State :=
  match s.qdesc q with
  | none => s.noteDva (s.qdAddr q) 64
  | some d => (s.noteDva (s.qdAddr q) 64).modSlot slot fun _ => { mapped := true, queue := q, tail := d.tail, raised := 0, since := s.cycle }

def execQueueMap (q slot : Nat) (s : State) : Host.Outcome State Fault Refusal :=
  .next (if s.mayMap q slot then s.withLines [(s.qdAddr q, 64)] fun s => s.mapQueue q slot else s)

/-- QUEUE_UNMAP: the tail goes to the descriptor; QUEUE goes on naming the queue. Where the descriptor cannot take it, the queue stays
mapped (DESIGN CHOICE, log 65). -/
def State.unmapQueue (s : State) (slot : Nat) : State :=
  let x := s.slot slot
  if x.mapped then
    match s.putDesc x.queue 16 4 x.tail with
    | some s1 => s1.modSlot slot fun x => { x with mapped := false, raised := 0 }
    | none => s
  else s

def execQueueUnmap (slot : Nat) (s : State) : Host.Outcome State Fault Refusal := .next (s.unmapQueue slot)

/-! ## The aperture (R333, R363) -/

/-- The leaf for an address of the aperture, from its cache or by a walk that fills the cache. -/
def State.apLeaf (s : State) (a : Nat) : Option Leaf × State :=
  match s.pkg.aptlb.find? (·.covers a) with
  | some l => (some l, s)
  | none =>
    let s1 := s.noteWalk [] a
    let put (l : Leaf) : State :=
      { s1 with
        fresh := s.fresh + 1
        pkg := { s.pkg with aptlb := cachePut 64 (fun _ => false) (Config.victim s.fresh) l s.pkg.aptlb } }
    match (s.walk [] a).1 with
    | .ok l => (some l, put l)
    | .mig l => (some l, put l)
    | _ => (none, s1)

/-- The spots of n bytes from an address up; none when the translation of one fails. -/
def State.apSpots (wr : Bool) : Nat → Nat → State → Option (List Spot) × State
  | 0, _, s => (some [], s)
  | n + 1, a, s =>
    if 2 ^ 48 ≤ a ∨ inRegs a then (none, s)
    else
      let r := s.apLeaf a
      match r.1 with
      | none => (none, r.2)
      | some l => match r.2.leafSpot wr ownHops .host l a with
        | .error _ => (none, r.2)
        | .ok p =>
          let q := State.apSpots wr n (a + 1) r.2
          (q.1.map (p :: ·), q.2)

/-- An aperture access that translates to nothing is dropped and counted. -/
def State.apDrop (s : State) : State := s.modIntake fun k => { k with aperr := k.aperr + 1 }

/-- The walks of an aperture access beyond its leaves (R360, R430). -/
def State.noteAp (s : State) (a n : Nat) : State :=
  (lines64 a n).foldl (fun s x => match s.pkg.aptlb.find? (·.covers (64 * x)) with | some l => s.noteHops l (64 * x) | none => s) s

/-- A host write through the aperture. -/
def State.apWrite (s : State) (a : Nat) (l : List Byte) : State :=
  let q := State.apSpots true l.length a s
  let r := (q.1, q.2.noteAp a l.length)
  match r.1 with
  | none => r.2.apDrop
  | some p =>
    let pairs := p.zip l
    if pairs.any fun x => match x.1 with | .peer m _ => !r.2.canSend m | _ => false then s
    else
      let s1 := pairs.foldl (fun s y => match y.1 with | .here sp o => s.write sp o [y.2] | _ => s) r.2
      (peerWrites pairs).foldl (fun s w =>
        let psn := (s.fab.peer w.1).nextPsn
        (s.toPeer w.1 1 fun n => .stream n hostKey w.2.1 (some w.2.2)).modCmd hostKey fun c =>
          { c with owed := c.owed ++ [{ peer := w.1, psn := psn }] }) s1

/-- The bytes of a read, or the peer line that must come first; none when a peer cannot be reached. -/
def State.apBytes (s : State) : List Spot → Except (Option (Nat × Nat)) (List Byte)
  | [] => .ok []
  | p :: l =>
    match s.spotByte (s.cmd hostKey).lines p 0 with
    | .error (.line m a _) => .error (some (m, a))
    | .error _ => .error none
    | .ok b => match s.apBytes l with
      | .ok r => .ok (b :: r)
      | .error e => .error e

/-- A host read through the aperture; a read of peer memory is asked for first, and completes when it happens again. -/
def State.apRead (s : State) (off a n : Nat) : State :=
  let ones (s : State) : State := { s with out := s.out ++ [.hostRead off (List.replicate n 255)] }
  let q := State.apSpots false n a s
  let r := (q.1, q.2.noteAp a n)
  match r.1 with
  | none => ones r.2.apDrop
  | some p => match r.2.apBytes p with
    | .error (some (m, x)) => r.2.askLine hostKey m x 0 a none
    | .error none => ones r.2.apDrop
    | .ok l =>
      let lines := (p.filterMap fun x => match x with | .here .hbm o => some (o / 64) | _ => none).eraseDups
      let s1 := (lines.foldl (fun s x => s.hbmRead (64 * x) 64) r.2).modCmd hostKey fun c => { c with lines := [] }
      { s1 with out := s1.out ++ [.hostRead off l] }

/-- HOST_APERTURE_ACCESS: a read of n bytes at an offset of BAR2, or a write. -/
def execHostApertureAccess (off n : Nat) (wr : Option (List Byte)) (s : State) : Host.Outcome State Fault Refusal :=
  let a := s.intake.apbase.toNat + off
  .next (if !s.hostReach || decide (2 ^ 34 ≤ off) then s
    else match wr with
      | some l => s.apWrite a l
      | none => s.apRead off a n)

/-! ## REGISTER_WRITE (R334-R336, R411) -/

/-- Where firmware sets QDTBASE, as an offset beyond BAR0 (the spec gives no register number for it). -/
def fwQdtbase : Nat := 0x4000000 + 0x100008

/-- A 64-bit write: by the host at a BAR0 offset, by a management core at a fabric or health register, or by firmware of QDTBASE. -/
def State.registerWrite (s : State) (off v : Nat) : State :=
  let w : Word64 := BitVec.ofNat 64 v
  if 0xFFFFFF000000 ≤ off ∧ off < 0xFFFFFF002000 then s.regWrite (off - 0xFFFFFF000000) (v % 2 ^ 64)
  else if off = fwQdtbase then s.modIntake fun k => { k with qdtbase := v % 2 ^ 48 }
  else if !s.hostReach then s
  else if off < 0x40000 ∧ off % 4096 = 0 then s.notify (v % 2 ^ 64)
  else if 0x40000 ≤ off ∧ off < 0x40400 ∧ off % 8 = 0 then s.modIntake fun k => { k with msix := Sparse.set 0 k.msix (off / 8) w }
  else if off = 0x100010 then s.modIntake fun k => { k with apbase := BitVec.ofNat 64 (bits v 34 14 * 2 ^ 34) }
  else if off = 0x100018 then s.modIntake fun k => { k with aperr := k.aperr &&& ~~~w }
  else if off = 0x100020 then s.modIntake fun k => { k with badnotify := k.badnotify &&& ~~~w }
  else s

def execRegisterWrite (off v : Nat) (s : State) : Host.Outcome State Fault Refusal := .next (s.registerWrite off v)

/-! ## The intake (R338, R342, R345) -/

/-- The 128 bytes of record t of a queue. -/
def State.record (s : State) (d : QDesc) (t : Nat) : Option (List Byte) := s.readAt d.loc (d.base + 128 * (t % 2 ^ d.lg)) 128

/-- A launch, by identifier. -/
def State.launch? (s : State) (id : Nat) : Option Launch := s.intake.launches.find? fun l => decide (l.id = id)

/-- The next record of a queue may start: its predecessor has completed, or its own OVERLAP flag is set and the predecessor's seeds are
all injected. A NOP without OVERLAP waits until every earlier record of its queue has completed (R345). -/
def State.mayStart (s : State) (q : Nat) (rcd : List Byte) : Bool :=
  if decide (leAt rcd 0 1 = 0) && !bitB (leAt rcd 1 1) 0 then !s.intake.launches.any fun l => decide (l.queue = q)
  else match Sparse.get 0 s.intake.lastTaken q with
  | 0 => true
  | n + 1 => match s.launch? n with
    | none => true
    | some l => bitB (leAt rcd 1 1) 0 && decide (l.st = .running)

/-- The record that an eligible slot offers, with its descriptor. None is taken whose descriptor cannot take head + 1, as each is taken
exactly once (R338). -/
def State.offer (s : State) (slot : Nat) : Option (QDesc × List Byte) :=
  let x := s.slot slot
  if !x.mapped then none
  else match s.qdesc x.queue with
    | none => none
    | some d =>
      if d.head = x.tail ∨ (s.putDesc x.queue 20 4 (d.head + 1)).isNone then none
      else match s.record d d.head with
        | none => none
        | some r => if s.mayStart x.queue r then some (d, r) else none

/-- Effective priority of a slot. -/
def State.slotPrio (s : State) (slot : Nat) (d : QDesc) : Nat := min 3 (d.prio + (s.slot slot).raised)

/-- Slots in order after one, wrapping. -/
def slotsAfter (n : Nat) : List Nat := (List.range 64).map fun i => (n + 1 + i) % 64

/-- The slot that the intake takes from. -/
def State.choose (s : State) : Option Nat :=
  [3, 2, 1, 0].findSome? fun p =>
    (slotsAfter (Sparse.get 63 s.intake.lastSlot p)).find? fun i =>
      match s.offer i with | some (d, _) => decide (s.slotPrio i d = p) | none => false

/-- INTAKE_DECISION: one record is taken; its queue's head advances. -/
def State.intakeTake (s : State) : State :=
  if !s.pkg.started then s
  else match s.choose with
  | none => s
  | some i => match s.offer i with
    | none => s
    | some (d, r) =>
      let x := s.slot i
      let id := s.intake.nextId
      let s0 := (s.putDesc x.queue 20 4 (d.head + 1)).getD s
      let s1 := (if d.loc then s0 else s0.noteDva (d.base + 128 * (d.head % 2 ^ d.lg)) 128).noteDva (s.qdAddr x.queue) 64
      (s1.modSlot i fun x => { x with raised := 0, since := s.cycle }).modIntake fun k =>
        { k with
          lastSlot := Sparse.set 63 k.lastSlot (s.slotPrio i d) i, lastTaken := Sparse.set 0 k.lastTaken x.queue (id + 1), nextId := id + 1
          launches := k.launches ++ [⟨id, x.queue, r, .started, none, 0, s.cycle, d.cbase, d.loc, d.vec⟩] }

/-- The descriptors of mapped queues, and the next record of each, where they lie at device virtual addresses. -/
def State.intakeRanges (s : State) : List (Nat × Nat) :=
  (List.range 64).flatMap fun i =>
    let x := s.slot i
    if !x.mapped then []
    else (s.qdAddr x.queue, 64) :: match s.qdesc x.queue with
      | some d => if d.loc ∨ d.head = x.tail then [] else [(d.base + 128 * (d.head % 2 ^ d.lg), 128)]
      | none => []

def execIntakeDecision (s : State) : Host.Outcome State Fault Refusal := .next (s.withLines s.intakeRanges State.intakeTake)

/-- INTAKE_AGING: a slot eligible for 64 microseconds of 2,400 cycles rises one level. -/
def State.ageSlot (s : State) (slot : Nat) : State :=
  match s.offer slot with
  | some (d, _) =>
    if s.slotPrio slot d < 3 ∧ (s.slot slot).since + 153600 ≤ s.cycle then
      s.modSlot slot fun x => { x with raised := x.raised + 1, since := s.cycle }
    else s
  | none => s

def execIntakeAging (slot : Nat) (s : State) : Host.Outcome State Fault Refusal := .next (s.ageSlot slot)

/-! ## Records (R344) -/

/-- Seed entry i of a record. -/
def Launch.seed (l : Launch) (i : Nat) : List Byte := part l.rcd (32 + 16 * i) 16

/-- The record keeps the rules of R344. -/
def Launch.legal (l : Launch) : Bool :=
  let image := l.le 8 8
  let w := l.le 6 1
  let h := l.le 7 1
  decide (l.kind ≤ 2) && decide (l.le 1 1 / 16 = 0) && decide (l.nseed ≤ 6) && decide (l.die ≤ 3) && decide (l.le 16 4 % 16 = 0) &&
  decide (l.le 24 8 = 0) &&
  (if l.kind = 0 then zeros (part l.rcd 3 5) && decide (image = 0) && decide (l.nseed = 0) && zeros (l.rcd.drop 32)
   else decide (1 ≤ w) && decide (1 ≤ h) && decide (l.le 4 1 + w ≤ 12) && decide (l.le 5 1 + h ≤ 12) &&
    (if l.kind = 2 then decide (image = 0) && decide (l.nseed = 0) && zeros (l.rcd.drop 32)
     else decide (image % 64 = 0) && (!l.imgg || (decide (0x10000000 ≤ image) && decide (image < 0x16000000))) &&
      (List.range l.nseed).all fun i =>
        let e := l.seed i
        decide (leAt e 0 1 < w) && decide (leAt e 1 1 < h) && decide (leAt e 2 1 ≤ 0x5F) && zeros (part e 3 5)))

/-- The record names exactly the rectangle of a field. -/
def Launch.exact (l : Launch) (x : Field) : Bool :=
  decide (l.le 4 1 = x.x0) && decide (l.le 5 1 = x.y0) && decide (l.le 6 1 = x.w) && decide (l.le 7 1 = x.h)

/-- Fields that hold tiles of the record's rectangle. -/
def State.overlaps (s : State) (l : Launch) : List Nat :=
  ((List.range (l.le 7 1)).flatMap fun y => (List.range (l.le 6 1)).filterMap fun x =>
    s.fieldOf (l.die * 256 + (l.le 5 1 + y) * 12 + l.le 4 1 + x)).eraseDups

/-- The lowest free field number of a die (R347), which holds at most 144 fields (R10), those that are evicted among them. -/
def State.freeField (s : State) (die : Nat) : Option Nat :=
  if 144 ≤ (s.fields.filter fun x => decide (x.1 / 256 = die) && decide (x.2.st ≠ .unloaded)).length then none
  else (List.range 256).find? fun i => decide ((s.field (die * 256 + i)).st = .unloaded)

/-! ## LAUNCH (R346, R347) -/

/-- A launch is rejected: CONFIG_REJECT's record, and its completion. -/
def State.rejectLaunch (s : State) (id die num ver reason : Nat) : State :=
  (s.refuseRec die num ver reason).completeLaunch id 1 reason

/-- A launch names a field from now on. -/
def State.nameField (s : State) (id f : Nat) (st : LState) : State := s.modLaunch id fun l => { l with fld := some f, st := st }

/-- A cold launch. On a die that holds 144 fields it completes BUSY (DESIGN CHOICE, log 56). -/
def State.coldLaunch (s : State) (l : Launch) : State :=
  match s.freeField l.die with
  | none => s.completeLaunch l.id 6 0
  | some n =>
    let f := l.die * 256 + n
    let bytes := s.readImage l.die l.imgg (l.le 8 8)
    let v := s.judgeImage l.die f (l.le 6 1) (l.le 7 1) bytes
    let s := s.noteImageRead f l.imgg (l.le 8 8) bytes
    match v with
    | .error r => s.rejectLaunch l.id l.die 255 0 r
    | .ok im =>
      let b := bytes.getD []
      (s.coldWave f (l.le 4 1) (l.le 5 1) (l.le 8 8) l.imgg im ⟨b.take (leAt b 40 8), .launch l.id, true, false⟩).nameField l.id f .loading

/-- A reconfiguration by a launch. -/
def State.reconfigure (s : State) (l : Launch) (f : Nat) : State :=
  let x := s.field f
  let bytes := s.readImage l.die l.imgg (l.le 8 8)
  let v := s.judgeImage l.die f x.w x.h bytes
  let s := s.noteImageRead f l.imgg (l.le 8 8) bytes
  match v with
  | .error r => (s.nameField l.id f .started).rejectLaunch l.id l.die (f % 256) x.ver r
  | .ok _ =>
    let b := bytes.getD []
    (s.nameField l.id f .loading).waveDue f ⟨b.take (leAt b 40 8), .launch l.id, false, false⟩ (l.le 8 8) l.imgg

/-- A launch classified as a reconfiguration of field f goes on once the field is LIVE and no other wave is held there (R346). -/
def State.launchReconfig (s : State) (l : Launch) (f : Nat) : State :=
  let need := s.linesNeeded (s.imageRanges l.die l.imgg (l.le 8 8))
  if (s.field f).st ≠ .live ∨ (s.heldWave f).isSome then s.nameField l.id f .reconfig
  else if need.isEmpty then (s.reconfigure l f).dropLines
  else (s.nameField l.id f .reconfig).askLines need

/-- LAUNCH: the record starts, and is classified; or a reconfiguration that has started goes on. -/
def State.launchStart (s : State) (id : Nat) : State :=
  match s.launch? id with
  | none => s
  | some l =>
    if l.st = .reconfig then (match l.fld with | some f => s.launchReconfig l f | none => s)
    else if l.st ≠ .started ∨ l.kind = 0 ∨ l.kind = 2 then s
    else if !l.legal then s.completeLaunch id 3 0
    else match s.overlaps l with
      | [] => s.withLines (s.imageRanges l.die l.imgg (l.le 8 8)) fun s => s.coldLaunch l
      | [f] =>
        let x := s.field f
        let same := decide (x.image = l.le 8 8) && decide (x.imageG = l.imgg)
        if !l.exact x then s.completeLaunch id 2 0
        else match x.st with
          | .frozen => (s.nameField id f .started).completeLaunch id 6 0
          | .loading => if same then s.nameField id f .waiting else (s.nameField id f .started).completeLaunch id 6 0
          | _ =>
            if same && !l.reload then s.nameField id f .seeding else s.launchReconfig l f
      | _ => s.completeLaunch id 2 0

def execLaunch (id : Nat) (s : State) : Host.Outcome State Fault Refusal := .next (s.launchStart id)

/-- The field's launches but one meet its unloading: at rest, running ones complete OK; the others complete TORNDOWN; and all FAULTED, where a
protection fault has ended the field (R348, R349). -/
def State.unloadLaunches (s : State) (id f : Nat) : State :=
  let others (l : Launch) : Bool := decide (l.id ≠ id)
  let s1 := if (s.field f).ended then s.completeAll f 4 0x0B others else s
  (if s.atRest f then s1.completeAll f 0 0 fun l => decide (l.st = .running) && others l else s1).completeAll f 5 0 others

/-- UNLOAD: of exactly one field, once it is LIVE and at rest, or FROZEN (R350). -/
def State.launchUnload (s : State) (id : Nat) : State :=
  match s.launch? id with
  | none => s
  | some l =>
    if l.kind ≠ 2 then s
    else if !l.legal then s.completeLaunch id 3 0
    else match s.overlaps l with
      | [f] =>
        if !l.exact (s.field f) then s.completeLaunch id 2 0
        else if s.atRest f || decide ((s.field f).st = .frozen) then
          let s1 := (s.unloadLaunches id f).nameField id f .started
          (s1.completeLaunch id 0 0).unloadField f
        else s
      | _ => s.completeLaunch id 2 0

def execUnload (id : Nat) (s : State) : Host.Outcome State Fault Refusal := .next (s.launchUnload id)

/-- LAUNCH_NOP. -/
def State.launchNop (s : State) (id : Nat) : State :=
  match s.launch? id with
  | none => s
  | some l => if l.kind ≠ 0 then s else s.completeLaunch id (if l.legal then 0 else 3) 0

def execLaunchNop (id : Nat) (s : State) : Host.Outcome State Fault Refusal := .next (s.launchNop id)

/-! ## SEED_INJECT (R313, R347) -/

/-- A launch's next seed has entered its target, or been discarded; the last one leaves it RUNNING. -/
def State.seedDone (s : State) (l : Launch) : State :=
  s.modLaunch l.id fun x => { x with nextSeed := x.nextSeed + 1, st := if l.nseed ≤ x.nextSeed + 1 then .running else .seeding }

/-- SEED_INJECT: the launch's next seed, once its target takes it. -/
def State.seed (s : State) (id : Nat) : State :=
  match s.launch? id with
  | none => s
  | some l => match l.fld with
    | none => s
    | some f =>
      let x := s.field f
      if l.st ≠ .seeding ∨ x.st ≠ .live then s
      else if l.nseed ≤ l.nextSeed then s.modLaunch id fun y => { y with st := .running }
      else
        let e := l.seed l.nextSeed
        let core := f / 256 * 256 + (x.y0 + leAt e 1 1) * 12 + x.x0 + leAt e 0 1
        let p := leAt e 2 1
        let v := leAt e 8 8
        if 0x40 ≤ p then
          (if ((s.tile core).vc (p - 0x40)).length < 8 then (s.vcPut core (p - 0x40) (BitVec.ofNat 64 v)).seedDone l else s)
        else match s.portTakes core p x.ver with
          | none => (s.discardWord (portCell core p).1).seedDone l
          | some true => (s.portPut core p x.ver v 0 false).seedDone l
          | some false => s

def execSeedInject (id : Nat) (s : State) : Host.Outcome State Fault Refusal := .next (s.seed id)

end Sys2Proof.Machine
end

