-- ==== Sys2Proof/Machine/Issue.lean ====
section
/-! DEFINITION. A core's cycle: the bundle that its picker takes, the precise cause it may raise, its slots in order, and what
follows it; and the module's schedule (spec/01_cw_execution_model.md R23-R28, R50-R54; spec/02_cw_slice_file.md R69, R74;
spec/05_cw_slice_control_isa.md R159-R162). -/

namespace Sys2Proof.Machine

/-! ## Precise causes (R51, R52) -/

/-- The cause that a slot raises when it acts, but for PRIV. -/
def ownCause : Instr → State → Option (Cause × Nat)
  | .ld o, s | .st o, s => ldCause o s
  | .ldl o, s | .stu o, s => ldlCause o s
  | .spill o, s | .fill o, s => spillCause o s
  | .sld o, s => strCause 0 o s
  | .sst o, s => strCause 1 o s
  | .scp o, s => strCause 2 o s
  | .sga o, s => strCause 3 o s
  | .ssc o, s => strCause 4 o s
  | .srec o, s => strCause 5 o s
  | .smc o, s => strCause 6 o s
  | .sfil o, s => strCause 7 o s
  | .scfg _ h _ _, s => scfgCause h s
  | .sbar _ _ _ _, s => s.queueCause
  | .msend o, s => msendCause o s
  | .sig _ _ sl _, s => sigCause sl s
  | .sigm _ _ sl _, s => sigmCause sl s
  | .draw o, s => drawCause o s
  | .fput o, s => fputCause o s
  | .resv o, s | .publ o, s | .rtake o _, s => ringCause o s
  | .aadd o, s | .amin o, s | .amax o, s | .aminu o, s | .amaxu o, s | .aand o, s | .aor o, s | .axor o, s | .aswp o, s | .acas o, s
  | .ald o, s | .ast o, s => atomicCause o s
  | .mpost o, s => mpostCause o s
  | .mprobe o, s => descrCause (s.rd o.s 32) s
  | .hld o, s | .hst o, s => hldCause o s
  | .loop _ _ _, s | .loopi _ _ _, s => loopCause s
  | .waitf _ a _ _, s => s.windowCause (s.futureAddr a) 16
  | .trap _ code, _ => some (.trap, code)
  | .bkpt _ code, s => when_ (!s.issue.skip) .bkpt code
  | .mts _ r sl, s => if sysregSupervisor r then none else mtsCause r sl s
  | .eret _ t _, s | .hold _ t, s => selectorCause t s
  | .ipage _ p, s => ipageCause p s
  | _, _ => none

/-- The cause that a slot raises. -/
def slotCause (i : Instr) (s : State) : Option (Cause × Nat) :=
  if isSupervisor i && !s.supervisor then some (.priv, s.issue.word * 2 ^ 32 + s.issue.slot)
  else if s.acts (slotLoop i) (slotPred i) then ownCause i s
  else none

/-- The state as slot n of the bundle sees it, k queue commands of earlier slots coming before its own (R202). -/
def State.atSlot (s : State) (n k : Nat) : State :=
  { s.modTask s.me fun t => { t with q := t.q + k } with issue := { s.issue with slot := n } }

/-- The causes of a bundle's slots from slot n on, k queue commands acting before it. -/
def slotCauses (s : State) : Nat → Nat → List Instr → List (Option (Cause × Nat))
  | _, _, [] => []
  | n, k, i :: l =>
    slotCause i (s.atSlot n k) ::
      slotCauses s (n + 1) (if isQueueCmd i && s.acts (slotLoop i) (slotPred i) then k + 1 else k) l

/-- The cause that a legal bundle raises: PRIV, which decoding finds, before any that is judged after it (R51); else R52's choice, the
earliest slot of equals. -/
def State.bundleCause (s : State) (l : List Instr) : Option (Cause × Nat) :=
  let cs := slotCauses s 0 0 l
  match cs.find? fun c => decide (c.map (·.1) = some Cause.priv) with
  | some c => c
  | none => firstCause cs

/-! ## A bundle (R27, R50, R74, R159-R164) -/

/-- The meaning of an instruction. -/
abbrev Meaning := Instr → State → Host.Outcome State Fault Refusal

/-- Slot n of the bundle executes. -/
def State.forSlot (s : State) (n : Nat) : State := { s with issue := { s.issue with slot := n } }

/-- The slot is a DCSET of the counter. -/
def setsCounter (dc : Nat) : Instr → Bool
  | .dcset _ _ k => decide (k = dc)
  | _ => false

/-- The slot is a WAITC. -/
def isWaitc : Instr → Bool
  | .waitc _ _ => true
  | _ => false

/-- Put a DCDEC behind the last DCSET of its counter (R224). -/
def putDec (x : Nat × Instr) (dc : Nat) (l : List (Nat × Instr)) : List (Nat × Instr) :=
  match l with
  | [] => [x]
  | y :: r => if (y :: r).any fun z => setsCounter dc z.2 then y :: putDec x dc r else x :: y :: r

/-- Slots as stored, but that a DCDEC comes after the DCSETs of its counter in its bundle (R201, R224). -/
def decsLast : List (Nat × Instr) → List (Nat × Instr)
  | [] => []
  | x :: l => match x.2 with
    | .dcdec _ dc => putDec x dc (decsLast l)
    | _ => x :: decsLast l

/-- The slots of a bundle, with their numbers, in the order in which they execute: as stored (R201), but for R224, and with WAITC last: a counter
event of the bundle comes first (R36), and what the bundle's DCSET wrote is what WAITC finds (DESIGN CHOICE, log 49). -/
def slotOrder (l : List Instr) : List (Nat × Instr) :=
  let z := decsLast (l.zipIdx.map fun x => (x.2, x.1))
  (z.filter fun x => !isWaitc x.2) ++ z.filter fun x => isWaitc x.2

/-- Slots execute in order. -/
def runSlots (ex : Meaning) : List (Nat × Instr) → State → Host.Outcome State Fault Refusal
  | [], s => .next s
  | (n, i) :: l, s =>
    match ex i (s.forSlot n) with
    | .next s1 => runSlots ex l s1
    | o => o

/-- Where the task goes after a bundle, and its loop levels: END's entry, a branch's target, the end bundle of a loop of count 0, or
what the loop sequencer says. -/
def Task.afterBundle (t : Task) (i : Issue) : Task :=
  let t1 := { t with noAct := false, skip := false, tcycle := t.tcycle + 1 }
  if i.ended then { t1 with pc := t.entry }
  else match i.taken with
    | some a => { t1 with pc := a, fetch := true }
    | none => match i.zeroLoop with
      | some a => { t1 with pc := a, noAct := true }
      | none =>
        let r := sequencer i.addr i.sf 7 t1
        { r.1 with pc := r.2.getD i.next }

/-- After the last slot: the task's next address; a task that parked has its results captured; asynchronous faults that are due are
taken at the boundary. -/
def State.finish (s : State) : State :=
  let tk := s.issue.task
  (({ s with issue := { s.issue with active := false } } : State).modTask tk fun t =>
    let u := t.afterBundle s.issue
    if u.st = .runnable then u else u.capture).takeAsyncs tk

/-- A finished bundle. -/
def finishOutcome : Host.Outcome State Fault Refusal → Host.Outcome State Fault Refusal
  | .next s => .next s.finish
  | o => o

/-- The bundle issues: results in flight are one bundle nearer, and a .sc atomic that acts takes its wheel cycle (R47). -/
def State.issued (s : State) (l : List Instr) : State :=
  let s1 := ({ s with issue := { s.issue with active := true } } : State).modTask s.me Task.countDown
  if (s.acting l).any isScAtomic then { s1 with pkg := { s1.pkg with scLast := s.wheelCycle s.myCore } } else s1

/-- A legal bundle of a task issues: it raises its cause, or every slot takes effect. -/
def runBundle (ex : Meaning) (s : State) (l : List Instr) : Host.Outcome State Fault Refusal :=
  match s.bundleCause l with
  | some c => .next (s.precise c.1 c.2)
  | none => finishOutcome (runSlots ex (slotOrder l) (s.issued l))

/-- The state in which the slots of a task's next bundle execute: what is due has landed, and what the slots read is recorded. -/
def State.issueState (s : State) (tk : Nat) : State :=
  let s1 := s.modTask tk Task.landDue
  let b := s1.bundleAt tk
  { s1 with issue := s1.issueOf tk b.2.1 b.2.2 }

/-- A task's next bundle is taken. -/
def issueTask (ex : Meaning) (tk : Nat) (s : State) : Host.Outcome State Fault Refusal :=
  match ((s.modTask tk Task.landDue).bundleAt tk).1 with
  | .good l => runBundle ex (s.issueState tk) l
  | _ => .next (s.takeBad tk)

/-! ## A core's cycle (R22-R26) -/

/-- MTSs of a task to device registers perform, once its port's accesses and its requests have (R358). -/
def State.sysWrites (s : State) (tk : Nat) : State :=
  let t := s.task tk
  if t.mts.isEmpty || t.accessOwed then s
  else
    let s1 := s.modTask tk fun t => { t with mts := [] }
    t.mts.foldl (fun s x => { s with issue := { s.issue with task := tk } }.sysWrite x.1 x.2) s1

/-- Before the pick, at a RUNNABLE task's bundle boundary: register writes that waited perform, asynchronous faults are taken (R54), and
fetch reads the next bundle's lines. -/
def State.boundary (s : State) (tk : Nat) : State :=
  if (s.task tk).st ≠ .runnable then s
  else
    let s1 := (s.sysWrites tk).takeAsyncs tk
    let t := s1.task tk
    if t.st = .runnable ∧ t.fetch = false then s1.fetchLines tk else s1

/-- The boundaries of a core's contexts. -/
def State.boundaries (s : State) (core : Nat) : State := (List.range 8).foldl (fun s x => s.boundary (taskAt core x)) s

/-- The cycle of a core whose picker takes a task's bundle that cannot be decoded: the bundle faults. -/
def State.badTurn (s : State) (tk : Nat) : State :=
  let core := coreOf tk
  ((((s.marks core (s.standing core .queue)).taking core (ctxOf tk)).takeBad tk).countCycle core)

/-- The task's core runs, its picker takes the task now, and no asynchronous fault of it comes first (R23, R24, R54). -/
def State.mayTake (s : State) (tk : Nat) : Bool :=
  s.coreRuns (coreOf tk) && (s.task tk).asyncs.isEmpty &&
    decide (s.pick (coreOf tk) (s.standing (coreOf tk) .yes) = some (ctxOf tk))

/-- ILLEGAL_BUNDLE: the core's cycle in which the task's bundle is taken. -/
def execIllegalBundle (tk : Nat) (s : State) : Host.Outcome State Fault Refusal :=
  .next (match s.fetchCause tk with
    | none => s
    | some (.ifetchMiss, _) => s
    | some _ => if s.mayTake tk then s.badTurn tk else s)

/-- IFETCH_MISS: the core's cycle in which the task's bundle is taken. -/
def execIfetchMiss (tk : Nat) (s : State) : Host.Outcome State Fault Refusal :=
  .next (match s.fetchCause tk with
    | some (.ifetchMiss, _) => if s.mayTake tk then s.badTurn tk else s
    | _ => s)

/-- One cycle of a core. -/
def coreTurn (ex : Meaning) (core : Nat) (s : State) : Host.Outcome State Fault Refusal :=
  if !s.coreRuns core then .next s
  else
    let s0 := s.boundaries core
    let s1 := s0.marks core (s0.standing core .queue)
    match s0.pick core (s0.standing core .yes) with
    | none => .next (s1.countCycle core)
    | some x =>
      match issueTask ex (taskAt core x) (s1.taking core x) with
      | .next s2 => .next (s2.countCycle core)
      | o => o

/-! ## Time (R150, R342, R427) -/

/-- The holder of a lock bit is in a LIVE field, or on a management core that runs. -/
def State.holderLive (s : State) (l : Lock) : Bool :=
  let c := if l.byCell then coreOfCell l.holder else coreOf l.holder
  match s.fieldOf c with
  | some f => decide ((s.field f).st = .live)
  | none => s.pumpRuns c

/-- Cores whose requests wait for a lock bit. -/
def State.lockWaits (s : State) : List Nat :=
  (s.locks.flatMap fun x => x.2.waiters.map fun w => if w.1 then coreOfCell w.2.1 else coreOf w.2.1).eraseDups.filter fun c => s.portRuns c

/-- Twelfths of a cycle of its own clock that a core makes in one module cycle of 2.4 GHz: clock steps 0 to 3 run at 2.4, 2.0, 1.6 and 1.2 GHz
(R382, R388). -/
def stepRate12 (step : Nat) : Nat := [12, 10, 8, 6].getD step 12
def State.rate12 (s : State) (core : Nat) : Nat := match s.fieldOf core with | some f => stepRate12 (s.field f).step | none => 12

/-- The core of a lock bit's holder. -/
def Lock.core (l : Lock) : Nat := if l.byCell then coreOfCell l.holder else coreOf l.holder

/-- Gap records that no later gap can join leave their cells (R259, R260). -/
def State.flushGaps (s : State) : State :=
  (s.cells.filter fun x => match x.2.gap with | some g => decide (g.since + 4096 ≤ s.liveCycles x.1) | none => false).foldl
    (fun s x => s.flushGap x.1) s

/-- n module cycles pass: fields count those of their own clocks. -/
def State.passCycles (s : State) (n : Nat) : State :=
  let s1 : State := { s with
    cycle := s.cycle + n
    pkg := if n = 0 then s.pkg else { s.pkg with tj := Config.junction (s.cycle + n) % 256 }
    health := if n = 0 then s.health else s.health.settle
    fields := Sparse.mapAll {} (fun _ (x : Field) =>
      if x.st = .unloaded then x
      else { x with own := x.own + n * stepRate12 x.step, live := if x.st = .live then x.live + n * stepRate12 x.step else x.live }) s.fields
    locks := Sparse.mapAll {} (fun _ (l : Lock) =>
      if l.held && s.holderLive l then { l with cycles := l.cycles + n * s.rate12 l.core } else l) s.locks
    intake := { s.intake with
      slots := Sparse.mapAll {} (fun i (x : Slot) => if x.mapped && (s.offer i).isNone then { x with since := s.cycle + n } else x)
        s.intake.slots } }
  (s.lockWaits.foldl (fun s c => s.modTile c fun t => { t with tlockw := t.tlockw + n * s.rate12 c }) s1).flushGaps

/-! ## The schedule -/

/-- A known return of a runnable task waits for a result that is due before the task's next bundle (R72). -/
def Task.retBehindDue (t : Task) : Bool :=
  decide (t.st = .runnable) && t.rets.any (fun r => r.val.isSome && !t.retFree r)

/-- With no order given: the module powers on; then what stands ready for the tasks of the core `here`, which otherwise takes a
cycle. A return that only waits for a TINV's packets, or for the field's freeze, stands ready too. -/
def State.due (s : State) : Option Instr :=
  if !s.pkg.started && decide (s.pkg.fwstate = 0) then some .powerOn
  else (List.range 8).findSome? fun x =>
    let tk := taskAt s.here x
    let t := s.task tk
    match t.rets.find? t.retReady with
    | some r => some (.landingBufferWrite tk r.id)
    | none =>
      if t.retBehindDue && t.flight.any (fun f => decide (f.rc = 0)) then some (.fixedLatencyLanding tk)
      else if t.retBehindDue && t.entries.any (fun p => decide (p.2.rc = 0)) then some (.replayEntryLanding tk)
      else if t.st = .runnable ∧ t.rets.any (s.stalledOn tk) then some (.fixedLatencyLanding tk)
      else if t.tinvs.any (fun x => decide ((s.tinvAnswer tk x.1).task tk ≠ t)) then (t.tinvs.find? fun x =>
        decide ((s.tinvAnswer tk x.1).task tk ≠ t)).map fun x => .landingBufferWrite tk x.1
      else if (match s.fieldOf s.here with | some k => (s.field k).closing.isSome && !s.returnsOpen k | none => false) then
        some (.landingBufferWrite tk 0)
      else match t.waitLock with
      | some k => if !(s.lockBit k).held && (match (s.lockBit k).waiters with | (false, w, _) :: _ => decide (w = tk) | _ => false) then
          some (.lockBitGrant k) else none
      | none => none

/-- The schedule takes up or leaves a task's port: a port left to itself performs what it holds. -/
def State.setLag (s : State) (tk : Nat) (b : Bool) : State :=
  let s1 := s.modTask tk fun t => { t with lag := b }
  if b || !s.portRuns (coreOf tk) then s1 else s1.drain tk

/-- Access i of a task's port performs, while its field runs. -/
def State.performTurn (s : State) (tk i : Nat) : State := if s.portRuns (coreOf tk) then s.performAt tk i else s

/-- Piece j of access i of a task's port performs alone, while its field runs. -/
def State.pieceTurn (s : State) (tk i j : Nat) : State := if s.portRuns (coreOf tk) then s.pieceAt tk i j else s

/-- The first task of the core `here` whose port the schedule holds, or whose port could go on, and the first copy of an IPAGE that has not
ended. -/
def State.lagging (s : State) : Option Nat := ((List.range 8).map (taskAt s.here)).find? fun tk =>
  (s.task tk).lag || (s.portRuns s.here && s.portOpen tk)
def State.copying (s : State) : Option (Nat × Nat) := (s.tiles.flatMap fun x => x.2.sup.map fun y => (x.1, y.1)).head?

/-- A turn of the default schedule: what is due, an IPAGE's copy, or a cycle of the core `here`. -/
def idleTurn (ex : Meaning) (s : State) : Host.Outcome State Fault Refusal :=
  match s.due with
  | some i => ex i s
  | none => match s.lagging with
    | some tk => .next (s.setLag tk false)
    | none => match s.copying with
      | some (c, tk) => .next (s.copyDone c tk)
      | none =>
        match coreTurn ex s.here s with
        | .next s1 => .next (s1.passCycles 1)
        | o => o

/-- One step of the module: the next turn of its agenda. A slot operation has no turn of its own. -/
def stepWith (ex : Meaning) (s : State) : Host.Outcome State Fault Refusal :=
  match s.agenda with
  | [] => idleTurn ex s
  | .core c :: l => if coreExists c then coreTurn ex c { s with agenda := l } else .fault .noSuchCore
  | .run i :: l => if i.isSlot then .next { s with agenda := l } else ex i { s with agenda := l }
  | .tick n :: l => .next ({ s with agenda := l }.passCycles n)
  | .copied c t :: l => .next ({ s with agenda := l }.copyDone c t)
  | .lag t b :: l => .next ({ s with agenda := l }.setLag t b)
  | .perform t i :: l => .next ({ s with agenda := l }.performTurn t i)
  | .piece t i j :: l => .next ({ s with agenda := l }.pieceTurn t i j)

/-! ## Placing an instruction -/

/-- The management core of die 0 as the ROM starts it (R385), one page loaded, with words at the start of its instruction store, and
nothing else to come before its next cycle. -/
def State.placeWords (s : State) (l : List Nat) : State :=
  let s1 : State := { s with
    agenda := [], here := 255, pkg := { s.pkg with started := true }
    mem := s.mem.putAll (place (.istore 255) 0) (l.flatMap (bytesOfNat 4)) }
  ((s1.modDie 0 fun d => { d with halted := false }).modTile 255 fun _ => {}).bootCore 0 1

end Sys2Proof.Machine
end

