-- ==== Sys2Proof/Machine/Dispatch.lean ====
section
/-! DEFINITION. The dispatch: one arm for every row of the opcode table, each a direct call of its meaning. -/

namespace Sys2Proof.Machine

def exec (i : Instr) (s : State) : Host.Outcome State Fault Refusal :=
  match i with
  | .add o => Sys2Proof.Machine.execAdd o s
  | .sub o => Sys2Proof.Machine.execSub o s
  | .addi o => Sys2Proof.Machine.execAddi o s
  | .mul o => Sys2Proof.Machine.execMul o s
  | .logAnd o => Sys2Proof.Machine.execAnd o s
  | .logOr o => Sys2Proof.Machine.execOr o s
  | .logXor o => Sys2Proof.Machine.execXor o s
  | .shl o => Sys2Proof.Machine.execShl o s
  | .shr o => Sys2Proof.Machine.execShr o s
  | .mov o => Sys2Proof.Machine.execMov o s
  | .sel o => Sys2Proof.Machine.execSel o s
  | .cmp o => Sys2Proof.Machine.execCmp o s
  | .minS o => Sys2Proof.Machine.execMin o s
  | .maxS o => Sys2Proof.Machine.execMax o s
  | .ld o => Sys2Proof.Machine.execLd o s
  | .st o => Sys2Proof.Machine.execSt o s
  | .mulh o => Sys2Proof.Machine.execMulh o s
  | .mulhu o => Sys2Proof.Machine.execMulhu o s
  | .adds o => Sys2Proof.Machine.execAdds o s
  | .subs o => Sys2Proof.Machine.execSubs o s
  | .addsu o => Sys2Proof.Machine.execAddsu o s
  | .subsu o => Sys2Proof.Machine.execSubsu o s
  | .neg o => Sys2Proof.Machine.execNeg o s
  | .abs o => Sys2Proof.Machine.execAbs o s
  | .andn o => Sys2Proof.Machine.execAndn o s
  | .logNot o => Sys2Proof.Machine.execNot o s
  | .rol o => Sys2Proof.Machine.execRol o s
  | .ror o => Sys2Proof.Machine.execRor o s
  | .clz o => Sys2Proof.Machine.execClz o s
  | .ctz o => Sys2Proof.Machine.execCtz o s
  | .popc o => Sys2Proof.Machine.execPopc o s
  | .brev o => Sys2Proof.Machine.execBrev o s
  | .ext o => Sys2Proof.Machine.execExt o s
  | .bfx o => Sys2Proof.Machine.execBfx o s
  | .bfi o => Sys2Proof.Machine.execBfi o s
  | .pack o => Sys2Proof.Machine.execPack o s
  | .movi o => Sys2Proof.Machine.execMovi o s
  | .tst o => Sys2Proof.Machine.execTst o s
  | .fadd o => Sys2Proof.Machine.execFadd o s
  | .fsub o => Sys2Proof.Machine.execFsub o s
  | .fmul o => Sys2Proof.Machine.execFmul o s
  | .fma o => Sys2Proof.Machine.execFma o s
  | .fmin o => Sys2Proof.Machine.execFmin o s
  | .fmax o => Sys2Proof.Machine.execFmax o s
  | .fsgn o => Sys2Proof.Machine.execFsgn o s
  | .fcmp o => Sys2Proof.Machine.execFcmp o s
  | .fcvt o => Sys2Proof.Machine.execFcvt o s
  | .frcp o => Sys2Proof.Machine.execFrcp o s
  | .frsq o => Sys2Proof.Machine.execFrsq o s
  | .topk o => Sys2Proof.Machine.execTopk o s
  | .topkc o => Sys2Proof.Machine.execTopkc o s
  | .ldl o => Sys2Proof.Machine.execLdl o s
  | .stu o => Sys2Proof.Machine.execStu o s
  | .spill o => Sys2Proof.Machine.execSpill o s
  | .fill o => Sys2Proof.Machine.execFill o s
  | .push o => Sys2Proof.Machine.execPush o s
  | .pop o => Sys2Proof.Machine.execPop o s
  | .hfld o => Sys2Proof.Machine.execHfld o s
  | .hfset o => Sys2Proof.Machine.execHfset o s
  | .sld o => Sys2Proof.Machine.execSld o s
  | .sst o => Sys2Proof.Machine.execSst o s
  | .scp o => Sys2Proof.Machine.execScp o s
  | .sga o => Sys2Proof.Machine.execSga o s
  | .ssc o => Sys2Proof.Machine.execSsc o s
  | .srec o => Sys2Proof.Machine.execSrec o s
  | .smc o => Sys2Proof.Machine.execSmc o s
  | .sfil o => Sys2Proof.Machine.execSfil o s
  | .scfg lc h nt nk => Sys2Proof.Machine.execScfg lc h nt nk s
  | .sbar lc mask nt nk => Sys2Proof.Machine.execSbar lc mask nt nk s
  | .skil lc all entry => Sys2Proof.Machine.execSkil lc all entry s
  | .ssta lc sl entry => Sys2Proof.Machine.execSsta lc sl entry s
  | .sig lc vc sl scope => Sys2Proof.Machine.execSig lc vc sl scope s
  | .sigm lc vc sl scope => Sys2Proof.Machine.execSigm lc vc sl scope s
  | .bind lc vc ctx => Sys2Proof.Machine.execBind lc vc ctx s
  | .unbind lc vc => Sys2Proof.Machine.execUnbind lc vc s
  | .dcset lc sl dc => Sys2Proof.Machine.execDcset lc sl dc s
  | .dcdec lc dc => Sys2Proof.Machine.execDcdec lc dc s
  | .draw o => Sys2Proof.Machine.execDraw o s
  | .fput o => Sys2Proof.Machine.execFput o s
  | .resv o => Sys2Proof.Machine.execResv o s
  | .publ o => Sys2Proof.Machine.execPubl o s
  | .rtake o maxm1 => Sys2Proof.Machine.execRtake o maxm1 s
  | .aadd o => Sys2Proof.Machine.execAadd o s
  | .amin o => Sys2Proof.Machine.execAmin o s
  | .amax o => Sys2Proof.Machine.execAmax o s
  | .aminu o => Sys2Proof.Machine.execAminu o s
  | .amaxu o => Sys2Proof.Machine.execAmaxu o s
  | .aand o => Sys2Proof.Machine.execAand o s
  | .aor o => Sys2Proof.Machine.execAor o s
  | .axor o => Sys2Proof.Machine.execAxor o s
  | .aswp o => Sys2Proof.Machine.execAswp o s
  | .acas o => Sys2Proof.Machine.execAcas o s
  | .ald o => Sys2Proof.Machine.execAld o s
  | .ast o => Sys2Proof.Machine.execAst o s
  | .mpost o => Sys2Proof.Machine.execMpost o s
  | .msend o => Sys2Proof.Machine.execMsend o s
  | .mprobe o => Sys2Proof.Machine.execMprobe o s
  | .mcancel o => Sys2Proof.Machine.execMcancel o s
  | .mtest o => Sys2Proof.Machine.execMtest o s
  | .hld o => Sys2Proof.Machine.execHld o s
  | .hst o => Sys2Proof.Machine.execHst o s
  | .hmov lc h h2 => Sys2Proof.Machine.execHmov lc h h2 s
  | .rsyn o => Sys2Proof.Machine.execRsyn o s
  | .tinv lc sl all => Sys2Proof.Machine.execTinv lc sl all s
  | .nop c => Sys2Proof.Machine.execNop c s
  | .br c off => Sys2Proof.Machine.execBr c off s
  | .brl c link off => Sys2Proof.Machine.execBrl c link off s
  | .jmp c t => Sys2Proof.Machine.execJmp c t s
  | .loop c cnt fin => Sys2Proof.Machine.execLoop c cnt fin s
  | .loopi c count fin => Sys2Proof.Machine.execLoopi c count fin s
  | .lind c n lvl w stride => Sys2Proof.Machine.execLind c n lvl w stride s
  | .lbrk c lvl => Sys2Proof.Machine.execLbrk c lvl s
  | .endTask c => Sys2Proof.Machine.execEnd c s
  | .yield c => Sys2Proof.Machine.execYield c s
  | .waitc c dc => Sys2Proof.Machine.execWaitc c dc s
  | .waitf c a v g => Sys2Proof.Machine.execWaitf c a v g s
  | .fence c kind scope => Sys2Proof.Machine.execFence c kind scope s
  | .trap c code => Sys2Proof.Machine.execTrap c code s
  | .bkpt c code => Sys2Proof.Machine.execBkpt c code s
  | .prio c p => Sys2Proof.Machine.execPrio c p s
  | .mfs c d r => Sys2Proof.Machine.execMfs c d r s
  | .mts c r sl => Sys2Proof.Machine.execMts c r sl s
  | .eret c t skip => Sys2Proof.Machine.execEret c t skip s
  | .ipage c p => Sys2Proof.Machine.execIpage c p s
  | .hold c t => Sys2Proof.Machine.execHold c t s
  | .illegalBundle task => Sys2Proof.Machine.execIllegalBundle task s
  | .ifetchMiss task => Sys2Proof.Machine.execIfetchMiss task s
  | .fixedLatencyLanding task => Sys2Proof.Machine.execFixedLatencyLanding task s
  | .landingBufferWrite task ret => Sys2Proof.Machine.execLandingBufferWrite task ret s
  | .replayEntryLanding task => Sys2Proof.Machine.execReplayEntryLanding task s
  | .asyncTaskFault task => Sys2Proof.Machine.execAsyncTaskFault task s
  | .taskMarkedDead task => Sys2Proof.Machine.execTaskMarkedDead task s
  | .vcWordArrival n => Sys2Proof.Machine.execVcWordArrival n s
  | .lockBitGrant lk => Sys2Proof.Machine.execLockBitGrant lk s
  | .lockHeldTimeout lk => Sys2Proof.Machine.execLockHeldTimeout lk s
  | .cellLockHeldTimeout lk => Sys2Proof.Machine.execCellLockHeldTimeout lk s
  | .queueCommandStart cmd => Sys2Proof.Machine.execQueueCommandStart cmd s
  | .streamBeat cmd => Sys2Proof.Machine.execStreamBeat cmd s
  | .translationWalk cmd => Sys2Proof.Machine.execTranslationWalk cmd s
  | .streamComplete cmd => Sys2Proof.Machine.execStreamComplete cmd s
  | .sbarComplete cmd => Sys2Proof.Machine.execSbarComplete cmd s
  | .fqRequestSend task => Sys2Proof.Machine.execFqRequestSend task s
  | .fqResponse task => Sys2Proof.Machine.execFqResponse task s
  | .messageArrival n => Sys2Proof.Machine.execMessageArrival n s
  | .matchEligibleMessage n => Sys2Proof.Machine.execMatchEligibleMessage n s
  | .matchPost n => Sys2Proof.Machine.execMatchPost n s
  | .matchProbe n => Sys2Proof.Machine.execMatchProbe n s
  | .matchCancel n => Sys2Proof.Machine.execMatchCancel n s
  | .matchTest n => Sys2Proof.Machine.execMatchTest n s
  | .receiveComplete entry => Sys2Proof.Machine.execReceiveComplete entry s
  | .msendComplete cmd => Sys2Proof.Machine.execMsendComplete cmd s
  | .cellLoad cell => Sys2Proof.Machine.execCellLoad cell s
  | .imageReadComplete fld => Sys2Proof.Machine.execImageReadComplete fld s
  | .configCompleteWave fld => Sys2Proof.Machine.execConfigCompleteWave fld s
  | .cellFire cell => Sys2Proof.Machine.execCellFire cell s
  | .cellResultLanding cell => Sys2Proof.Machine.execCellResultLanding cell s
  | .linkWordArrival link => Sys2Proof.Machine.execLinkWordArrival link s
  | .binPortPerform cell n => Sys2Proof.Machine.execBinPortPerform cell n s
  | .twinCompare cell => Sys2Proof.Machine.execTwinCompare cell s
  | .notify slot v => Sys2Proof.Machine.execNotify slot v s
  | .hostApertureAccess off bytes wr => Sys2Proof.Machine.execHostApertureAccess off bytes wr s
  | .registerWrite off v => Sys2Proof.Machine.execRegisterWrite off v s
  | .queueMap q slot => Sys2Proof.Machine.execQueueMap q slot s
  | .queueUnmap slot => Sys2Proof.Machine.execQueueUnmap slot s
  | .intakeDecision => Sys2Proof.Machine.execIntakeDecision s
  | .intakeAging slot => Sys2Proof.Machine.execIntakeAging slot s
  | .launch n => Sys2Proof.Machine.execLaunch n s
  | .unload n => Sys2Proof.Machine.execUnload n s
  | .launchNop n => Sys2Proof.Machine.execLaunchNop n s
  | .seedInject n => Sys2Proof.Machine.execSeedInject n s
  | .launchComplete n => Sys2Proof.Machine.execLaunchComplete n s
  | .pcieLinkDown => Sys2Proof.Machine.execPcieLinkDown s
  | .powerOn => Sys2Proof.Machine.execPowerOn s
  | .ready die => Sys2Proof.Machine.execReady die s
  | .halt die => Sys2Proof.Machine.execHalt die s
  | .attreq die addr => Sys2Proof.Machine.execAttreq die addr s
  | .attestationComplete die => Sys2Proof.Machine.execAttestationComplete die s
  | .stepselCeiling die v => Sys2Proof.Machine.execStepselCeiling die v s
  | .junction100C die => Sys2Proof.Machine.execJunction100C die s
  | .powerCapExceeded => Sys2Proof.Machine.execPowerCapExceeded s
  | .stepRecovery => Sys2Proof.Machine.execStepRecovery s
  | .junction110C => Sys2Proof.Machine.execJunction110C s
  | .faultRecordWrite die => Sys2Proof.Machine.execFaultRecordWrite die s
  | .preempt die fld => Sys2Proof.Machine.execPreempt die fld s
  | .evict die fld => Sys2Proof.Machine.execEvict die fld s
  | .resume die fld => Sys2Proof.Machine.execResume die fld s
  | .restore die fld => Sys2Proof.Machine.execRestore die fld s
  | .teardown die fld => Sys2Proof.Machine.execTeardown die fld s
  | .attach die fld => Sys2Proof.Machine.execAttach die fld s
  | .detach die fld => Sys2Proof.Machine.execDetach die fld s
  | .arm die fld => Sys2Proof.Machine.execArm die fld s
  | .disarm die fld => Sys2Proof.Machine.execDisarm die fld s
  | .dumpLimitExpiry fld => Sys2Proof.Machine.execDumpLimitExpiry fld s
  | .debugStop fld => Sys2Proof.Machine.execDebugStop fld s
  | .strctlResume die v => Sys2Proof.Machine.execStrctlResume die v s
  | .strctlKill die v => Sys2Proof.Machine.execStrctlKill die v s
  | .dwdataAccess die wr => Sys2Proof.Machine.execDwdataAccess die wr s
  | .migrelh die v => Sys2Proof.Machine.execMigrelh die v s
  | .cycleRead task => Sys2Proof.Machine.execCycleRead task s
  | .hctlSnap => Sys2Proof.Machine.execHctlSnap s
  | .hctlClr => Sys2Proof.Machine.execHctlClr s
  | .applyTable => Sys2Proof.Machine.execApply s
  | .key => Sys2Proof.Machine.execKey s
  | .lock => Sys2Proof.Machine.execLock s
  | .openFabric => Sys2Proof.Machine.execOpen s
  | .drain => Sys2Proof.Machine.execDrain s
  | .dark => Sys2Proof.Machine.execDark s
  | .lockComplete => Sys2Proof.Machine.execLockComplete s
  | .rotorSlot fibre slot => Sys2Proof.Machine.execRotorSlot fibre slot s
  | .rotorCycleBoundary => Sys2Proof.Machine.execRotorCycleBoundary s
  | .flitReceive fibre slot bytes => Sys2Proof.Machine.execFlitReceive fibre slot bytes s
  | .packetResendTimeout dest psn => Sys2Proof.Machine.execPacketResendTimeout dest psn s
  | .memberUnreachable m => Sys2Proof.Machine.execMemberUnreachable m s
  | .keyActivation => Sys2Proof.Machine.execKeyActivation s
  | .oldKeyErase => Sys2Proof.Machine.execOldKeyErase s
  | .wavelengthDegrade fibre => Sys2Proof.Machine.execWavelengthDegrade fibre s
  | .pcieLinkRetrain => Sys2Proof.Machine.execPcieLinkRetrain s
  | .fibreGoesDead fibre => Sys2Proof.Machine.execFibreGoesDead fibre s

end Sys2Proof.Machine
end

