-- ==== Sys2Proof/Machine/Step.lean ====
section
/-! DEFINITION. One step of the module, and the placing of an instruction where the next step fetches it. -/

namespace Sys2Proof.Machine

/-- One step of the module: its next turn, every instruction and event having its meaning in `exec`. -/
def step (s : State) : Host.Outcome State Fault Refusal := stepWith exec s

/-- The state with an opcode-table word where the next step fetches it: at address 0 of the instruction store of die 0's management
core, which has just been started as the package ROM starts it (R383, R385). A word whose stop bit is clear is followed by the stop
word, as in `decodeTableWord`; the bundle is two words then, and one word otherwise. -/
def State.withFetchWord (s : State) (nbits w : Nat) : State :=
  let w0 := w % 2 ^ nbits % 2 ^ 32
  s.placeWords (if bitB w0 31 then [w0] else [w0, stopWord])

end Sys2Proof.Machine
end

