-- ==== Sys2Proof/Machine/Scope.lean ====
section
/-! DEFINITION. The ports of the memory model, their homes, the instances of the six scopes, and when a release and an acquire meet
(spec/09_cw_memory_model.md R288, R290, R296). Every access of this model performs at one moment of one memory, so at every scope at once;
which pairs of a release and an acquire the spec makes synchronise is what these definitions say. -/

namespace Sys2Proof.Machine

/-- The ports (R288). A remote peer's is named by its module, source task and destination address; the module may be this one, whose own
requests are performed as any (R155). -/
inductive PortId where
  | task (t : Nat) | stream (cm : Nat) | pull (entry : Nat) | bin (cell : Nat) | receive (entry : Nat)
  | remote (module task addr : Nat) | config (fld : Nat) | host | trace (die : Nat)
  deriving DecidableEq, Repr

/-- The core, by its number in the port's module, of the tile that a port is homed in: a receive and its pull are homed at the posting tile, a
remote peer's port at the source task. -/
def State.homeTile (s : State) : PortId → Option Nat
  | .task t => some (coreOf t)
  | .stream cm => some (coreOf (taskOfCmd cm))
  | .bin k => some (coreOfCell k)
  | .receive e => some (coreOf (Sparse.get {} s.rx.entries e).task)
  | .pull e => some (coreOf (Sparse.get {} s.rx.entries e).task)
  | .remote _ t _ => some (coreOf t)
  | _ => none

/-- The field that a port is homed in: its tile's, or a configuration reader's own. The fields of another module are not this one's to know. -/
def State.homeField (s : State) : PortId → Option Nat
  | .config f => some f
  | .remote m t _ => if m = s.fab.modid then s.fieldOf (coreOf t) else none
  | p => (s.homeTile p).bind s.fieldOf

/-- The die, in the port's module, that a port is homed on; the host and the trace units are homed in the module alone. -/
def State.homeDie (s : State) : PortId → Option Nat
  | .config f => some (f / 256)
  | p => (s.homeTile p).map dieOf

/-- The module that a port is homed in: a remote peer's at its source task. -/
def State.homeModule (s : State) : PortId → Nat
  | .remote m _ _ => m
  | _ => s.fab.modid

/-- The module is in this module's rotor group: itself, or a member of the applied table. -/
def State.inGroup (s : State) (m : Nat) : Bool := decide (m = s.fab.modid) || (s.fab.applied && s.fab.ports.contains m)

/-- Both are there and equal. -/
def sameHome (a b : Option Nat) : Bool := a.isSome && decide (a = b)

/-- Port b is in the instance of a scope around port a (R290), the scope coded as FENCE's. -/
def State.inst (s : State) (a : PortId) (scope : Nat) (b : PortId) : Bool :=
  let here := decide (s.homeModule a = s.homeModule b)
  match scope with
  | 0 => decide (a = b) || (match a, b with | .task t, .stream cm => decide (taskOfCmd cm = t) | _, _ => false)
  | 1 => here && sameHome (s.homeTile a) (s.homeTile b)
  | 2 => here && sameHome (s.homeField a) (s.homeField b)
  | 3 => here && sameHome (s.homeDie a) (s.homeDie b)
  | 4 => here
  | _ => s.inGroup (s.homeModule a) && s.inGroup (s.homeModule b)

/-- A release of a at one scope and an acquire of b at another include each other's port: they synchronise when the acquire observes the
release (R296). -/
def State.synchronises (s : State) (a : PortId) (x : Nat) (b : PortId) (y : Nat) : Bool := s.inst a x b && s.inst b y a

end Sys2Proof.Machine
end

