-- ==== Sys2Proof/Safety.lean ====
section
/-! DEFINITION. What claims call a safe state, a safe run, and the frame of an effect. -/

namespace Sys2Proof.Machine

/-! ## States and runs -/

/-- The memory and every table of the state are in their canonical form, so that equal contents are equal data. -/
def State.Canonical (s : State) : Prop :=
  s.mem.wf = true ∧ Sparse.wf ({} : Task) s.tasks = true ∧ Sparse.wf ({} : Tile) s.tiles = true ∧
    Sparse.wf ({} : Cell) s.cells = true ∧ Sparse.wf ({} : Cmd) s.cmds = true ∧ Sparse.wf ({} : Lock) s.locks = true ∧
    Sparse.wf ({} : Field) s.fields = true ∧ Sparse.wf ({} : Die) s.dies = true

/-- g0 of every task reads 1 (R60). -/
def State.GateOne (s : State) : Prop := ∀ t, gateRead (s.task t).sf 0 = true

/-- What every step keeps: canonical memory and tables, and g0 reading 1 in every task and in the bundle being issued (R60). -/
def State.Inv (s : State) : Prop := s.Canonical ∧ s.GateOne ∧ gateRead s.issue.sf 0 = true

/-- n steps from s end in a next state. -/
def Runs : Nat → State → State → Prop
  | 0, s, t => s = t
  | n + 1, s, t => ∃ u, step s = .next u ∧ Runs n u t

/-- The machine does not stop within n steps. -/
def Safe (n : Nat) (s : State) : Prop := ∃ t, Runs n s t

/-! ## Frames -/

/-- From s to t only one table entry differs, task k's: no byte of memory, no other task, and nothing else of the module. -/
def OnlyTask (s t : State) (k : Nat) : Prop := t = { s with tasks := t.tasks } ∧ ∀ j, j ≠ k → t.task j = s.task j

/-- From s to t only tile c's registers differ. -/
def OnlyTile (s t : State) (c : Nat) : Prop := t = { s with tiles := t.tiles } ∧ ∀ j, j ≠ c → t.tile j = s.tile j

/-- A fixed-latency result: t is s but for one result more in flight in the issuing task, with a destination, a value, and a latency
in bundles (R27). Nothing else of the task, and nothing else of the module, differs. -/
def Lands (s t : State) (d : Dst) (v : Nat) (lat : Nat) : Prop :=
  OnlyTask s t s.me ∧
    t.task s.me = { s.task s.me with flight := (s.task s.me).flight ++ [⟨lat - 1, d, BitVec.ofNat 512 v⟩] }

/-- A return: t is s but for one return more of the issuing task, into n slices from d, whose value is known (R71). -/
def Returns (s t : State) (d n v : Nat) : Prop :=
  OnlyTask s t s.me ∧ t.task s.me = ((s.task s.me).addRet (some (d, n)) none none).fillRet (s.task s.me).nextRet v false

/-- Every byte of every storage outside n bytes of a storage from o up is the same in t as in s. -/
def SameOutside (s t : State) (sp : Space) (o n : Nat) : Prop :=
  ∀ p, p < place sp o ∨ place sp o + n ≤ p → t.mem.byte p = s.mem.byte p

/-- From s to t only bytes of memory differ, and the dirty bits of fields that record it (R375). -/
def OnlyMem (s t : State) : Prop :=
  t = { s with mem := t.mem, fields := t.fields } ∧
    ∀ k, t.field k = { s.field k with dirtyG := (t.field k).dirtyG, dirtyB := (t.field k).dirtyB }

/-- A store: t is s but for the n bytes at local address a of core c, which hold the value v (R4, R147). -/
def Stores (s t : State) (c a n v : Nat) : Prop :=
  OnlyMem s t ∧ t.readLocal c a n = v % 256 ^ n ∧ SameOutside s t (localPlace c a).1 (localPlace c a).2 n

/-- Nothing is counted behind a task's port. -/
def NoneBehind (s : State) (tk : Nat) : Prop :=
  (∀ e, e < 16 → (s.cmd (cmdAt tk e)).behind = 0 ∧ (s.cmd (cmdAt tk e)).rel = 0) ∧ (∀ o ∈ s.rx.ops, o.task = tk → o.behind = 0) ∧
    ∀ m ∈ s.mesh, m.src = some tk → m.behind = 0

/-- The issuing task's port is empty and left to itself, no reconfiguration holds its accesses, and nothing is counted behind it: an access
performs at once (R295, R303, R305). -/
def PortFree (s : State) : Prop :=
  (s.task s.me).port = [] ∧ (s.task s.me).waitLock = none ∧ (s.task s.me).lag = false ∧ s.verHold s.myCore = false ∧ NoneBehind s s.me

/-- No watchpoint of the issuing core's die is enabled (R380). -/
def Unwatched (s : State) : Prop := ∀ w, w < 8 → bitB ((s.die (dieOf s.myCore)).reg (0x132 + 4 * w)) 0 = false

end Sys2Proof.Machine
end

