-- ==== Sys2Proof/Certificates/Slice0/Obligations.lean ====
section
/-! DEFINITION. The statements for the provers: what the instructions and events do, what they leave unchanged, when they complete,
and what every step keeps. -/

open Sys2Proof Sys2Proof.Machine

/-- For every slot operation that is well formed, with every operand at every value its encoding admits, decoding the words that
encode it (a header word where it needs one, then its slot word with the stop bit) gives a bundle of exactly that instruction;
where the instruction cannot stand alone in a bundle (WAITF whose gate lies in its value, a loop that ends inside its own bundle),
decoding refuses those words. -/
def Obligations.DecodingUndoesEncoding : Prop :=
  ∀ i : Instr, i.isSlot = true → i.wf = true →
    (i.standsAlone = true → decodeBundle (encode i) = .ok [i]) ∧
    (i.standsAlone = false → ∃ r, decodeBundle (encode i) = .error r)

/-- The words of the spec's own examples and of one slot of each class, written out bit by bit, decode to the instructions they
stand for. -/
def Obligations.WordsOfTheSpecDecode : Prop :=
  decodeBundle [0x80000000] = .ok [.add ⟨LoopCond.none, Pred.always, 0, 0, 0, 0, false⟩] ∧
  decodeBundle [0x631C0000, 0x82E02859] = .ok [.topk ⟨LoopCond.none, 4, 1, 3, 64, 40, 44, true⟩] ∧
  decodeBundle [0xC0000000] = .ok [.nop ⟨LoopCond.none, Pred.always⟩] ∧
  decodeBundle [0xBD000000] = .ok [.hmov LoopCond.none 0 0] ∧
  decodeBundle [0x80000000 + 2 ^ 30 + 13 * 2 ^ 25 + 0x1234] = .ok [.trap ⟨LoopCond.none, Pred.always⟩ 0x1234]

/-- When the schedule names an event, the step is that event's meaning. When it names a core that runs, whose picker takes a
context with a legal bundle that raises no cause and whose slots each answer a next state, the step is those slots executed on the
state in which the bundle issues, each once, in stored order but that a DCDEC with a DCSET of its counter stored after it comes
behind that, and a WAITC last (the latter, log entry 49, where R36 leaves it open), then what follows the bundle (the next address
and the boundary's faults), and the core's cycle counted. -/
def Obligations.StepTakesItsTurn : Prop :=
  (∀ (s : State) (i : Instr) (l : List Turn), s.agenda = .run i :: l → i.isSlot = false → step s = exec i { s with agenda := l }) ∧
  ∀ (s : State) (c x : Nat) (l : List Turn) (b : List Instr) (u : State),
    s.agenda = .core c :: l → coreExists c = true →
    let a : State := { s with agenda := l }
    let e := a.boundaries c
    a.coreRuns c = true → e.pick c (e.standing c .yes) = some x →
    let f := (e.marks c (e.standing c .queue)).taking c x
    ((f.modTask (taskAt c x) Task.landDue).bundleAt (taskAt c x)).1 = .good b →
    let g := f.issueState (taskAt c x)
    g.bundleCause b = none →
    runSlots exec (slotOrder b) (g.issued b) = .next u →
    step s = .next (u.finish.countCycle c) ∧
    (slotOrder b).Perm (b.zipIdx.map fun y => (y.2, y.1)) ∧
    (slotOrder b).Pairwise fun y z =>
      (isWaitc y.2 = true → isWaitc z.2 = true) ∧ (∀ lc lc' dc p, y.2 = .dcdec lc dc → z.2 ≠ .dcset lc' p dc) ∧
      (z.1 < y.1 → isWaitc y.2 = false → isWaitc z.2 = true ∨
        ∃ lc lc' dc p n, z.2 = .dcdec lc dc ∧ z.1 < n ∧ b[n]? = some (.dcset lc' p dc))

/-- For every state whose memory and tables are in canonical form and in which g0 reads 1 in every task and in the bundle being
issued, a step that answers a next state answers one with the same property, whatever instruction or event it runs. -/
def Obligations.EveryStepKeepsTheInvariant : Prop :=
  ∀ s t : State, s.Inv → step s = .next t → t.Inv

/-- At reset memory and every table are in canonical form, and g0 reads 1 in every task and in the bundle being issued. Every
readable management register of every die reads 0, but DUMPLIM, which reads 30,000, and WWLIM, which reads 4,096; DWDATA reads 0;
PWRCAP reads 3,200 and PKGSTAT's junction temperature 0. FABSTAT reads module identifier 0xFFFF and zeros, every FIBRE register 7,
the other fabric registers zero; MODINFO reads 0xFFFF and FWSTATE 0, and the other registers of BAR0 zero. -/
def Obligations.ResetSatisfiesTheInvariant : Prop :=
  State.reset.Inv ∧
    (∀ die r, r ∈ [0x100, 0x101, 0x108, 0x109, 0x10A, 0x10B, 0x10C, 0x111, 0x112, 0x113, 0x120, 0x150, 0x151, 0x152, 0x153, 0x154, 0x155, 0x160, 0x162,
      0x168, 0x169, 0x16A] → State.reset.mgmtRead die r = 0) ∧
    (∀ die w, w < 8 → State.reset.mgmtRead die (0x130 + 4 * w) = 0 ∧ State.reset.mgmtRead die (0x131 + 4 * w) = 0 ∧
      State.reset.mgmtRead die (0x132 + 4 * w) = 0) ∧
    (∀ die, die < 4 → State.reset.mgmtRead die 0x114 = 30000 ∧ State.reset.mgmtRead die 0x161 = 4096 ∧ State.reset.pkgRead die 0x82 = 3200 ∧
      State.reset.pkgRead die 0x81 / 2 ^ 24 = 0 ∧ (State.reset.dwAccess die none).1 = 0) ∧
    State.reset.regRead 0 = 0xFFFF * 2 ^ 48 ∧ (∀ o, o ∈ [0x10, 0x18, 0x20, 0x28, 0x30] → State.reset.regRead o = 0) ∧
    (∀ f, f < 64 → State.reset.regRead (0x100 + 8 * f) = 7) ∧ State.reset.bar0Read 0x100000 = 0xFFFF0000 ∧
    ∀ o, o ≠ 0x100000 → State.reset.bar0Read o = 0

/-- For a range of n slices from slice a that ends within s127, the range reads back the value in 4n bits, but that bit 0 of slice
0 reads 1; every bit outside the range, and bit 0, is as it was or 1. A write of gate g reads back at g, but that g0 reads 1, and
no other gate or slice bit changes. -/
def Obligations.SliceWritesReadBack : Prop :=
  (∀ (sf : SliceFile) (a n v : Nat), a + n ≤ 128 → gateRead sf 0 = true →
    (1 ≤ a → sfRead (sfWrite sf a n v) a (4 * n) = v % 2 ^ (4 * n)) ∧
    (a = 0 → 1 ≤ n → sfRead (sfWrite sf a n v) a (4 * n) = v % 2 ^ (4 * n) ||| 1) ∧
    ∀ b m, b + m ≤ a ∨ a + n ≤ b → b + m ≤ 128 → sfRead (sfWrite sf a n v) b (4 * m) = sfRead sf b (4 * m)) ∧
  ∀ (sf : SliceFile) (g : Nat) (v : Bool), g < 16 → gateRead sf 0 = true →
    gateRead (gateWrite sf g v) g = (v || decide (g = 0)) ∧
    ∀ i, i < 512 → i ≠ g → (gateWrite sf g v).getLsbD i = sf.getLsbD i

/-- A task with one result in flight, captured nowhere, of latency L to a range of slices, has the same slice file before each of
its next L - 1 bundles, and the result in that range before bundle L; every bundle it issues counts the result down by one. -/
def Obligations.ResultsLandAfterTheirLatency : Prop :=
  ∀ (t : Task) (d : Dst) (v : BitVec 512) (lat : Nat), 1 ≤ lat → t.replay = [] → t.flight = [⟨lat - 1, d, v⟩] →
    (∀ k, k + 1 < lat → (Nat.repeat Task.countDown k t).landDue.sf = t.sf) ∧
    (Nat.repeat Task.countDown (lat - 1) t).landDue.sf = d.write t.sf v ∧
    (Nat.repeat Task.countDown (lat - 1) t).landDue.flight = []

/-- ADD, SUB, NEG, ABS, ADDS, SUBS, ADDSU, SUBSU, MIN, MAX, ADDI, MUL, MULH and MULHU, when they act, answer a next state that
differs only in one result more in flight: the table's exact value on the sources extended under x (MIN and MAX the other way
round), in its low w_d bits, with latency 1, or 5 for the multiplications. No memory byte, slice, gate, handle or special register
changes. -/
def Obligations.ArithmeticResultsLand : Prop :=
  ∀ s : State, s.Canonical →
    (∀ o : OpP, s.acts o.lc o.p = true →
      let w := wBits o.w
      let a := s.src o.a w o.x
      let b := s.src o.b w o.x
      let ua : Int := (s.rd o.a w : Nat)
      let ub : Int := (s.rd o.b w : Nat)
      let d := Dst.range o.d (w / 4)
      let low (r : Int) := (r % 2 ^ w).toNat
      let sat (r : Int) := max (-(2 ^ (w - 1))) (min (2 ^ (w - 1) - 1) r)
      let usat (r : Int) := max 0 (min (2 ^ w - 1) r)
      (∃ t, exec (.add o) s = .next t ∧ Lands s t d (low (a + b)) 1) ∧
      (∃ t, exec (.sub o) s = .next t ∧ Lands s t d (low (a - b)) 1) ∧
      (∃ t, exec (.neg o) s = .next t ∧ Lands s t d (low (-a)) 1) ∧
      (∃ t, exec (.abs o) s = .next t ∧ Lands s t d (low (if 0 ≤ a then a else -a)) 1) ∧
      (∃ t, exec (.adds o) s = .next t ∧ Lands s t d (low (sat (a + b))) 1) ∧
      (∃ t, exec (.subs o) s = .next t ∧ Lands s t d (low (sat (a - b))) 1) ∧
      (∃ t, exec (.addsu o) s = .next t ∧ Lands s t d (low (usat (ua + ub))) 1) ∧
      (∃ t, exec (.subsu o) s = .next t ∧ Lands s t d (low (usat (ua - ub))) 1) ∧
      (∃ t, exec (.minS o) s = .next t ∧ Lands s t d (low (min (s.src o.a w !o.x) (s.src o.b w !o.x))) 1) ∧
      (∃ t, exec (.maxS o) s = .next t ∧ Lands s t d (low (max (s.src o.a w !o.x) (s.src o.b w !o.x))) 1) ∧
      (∃ t, exec (.mulh o) s = .next t ∧ Lands s t d (low (a * b / 2 ^ w)) 5) ∧
      (∃ t, exec (.mulhu o) s = .next t ∧ Lands s t d (low (ua * ub / 2 ^ w)) 5)) ∧
    (∀ o : OpI, s.acts o.lc o.p = true →
      let w := wBits o.w
      ∃ t, exec (.addi o) s = .next t ∧ Lands s t (.range o.d (w / 4)) ((s.src o.a w o.x + o.imm) % 2 ^ w).toNat 1) ∧
    ∀ o : OpW, s.acts o.lc o.p = true →
      let w := wBits o.w
      ∃ t, exec (.mul o) s = .next t ∧ Lands s t (.range o.d (o.wd / 4)) ((s.src o.a w o.x * s.src o.b w o.x) % 2 ^ o.wd).toNat 5

/-- AND, OR, XOR, ANDN, NOT, MOV, EXT, MOVI and SEL answer a next state that differs only in one result more in flight, with
latency 1. Bit i of a logic result is the operation of bit i of the extended sources; MOV lands the extended source in w_d bits;
EXT clamps it to the signed or unsigned range of w_d bits; MOVI, which has no predicate, lands its immediate; SEL lands A where
the gate it names, inverted as it says, reads 1 before the bundle, else B. -/
def Obligations.LogicAndMovesLand : Prop :=
  ∀ s : State, s.Canonical →
    (∀ o : OpP, s.acts o.lc o.p = true →
      let w := wBits o.w
      let d := Dst.range o.d (w / 4)
      let bitA (i : Nat) := decide (s.src o.a w o.x / 2 ^ i % 2 = 1)
      let bitOf (i : Nat) := decide (s.src o.b w o.x / 2 ^ i % 2 = 1)
      (∃ t v, exec (.logAnd o) s = .next t ∧ Lands s t d v 1 ∧ v < 2 ^ w ∧ ∀ i < w, v.testBit i = (bitA i && bitOf i)) ∧
      (∃ t v, exec (.logOr o) s = .next t ∧ Lands s t d v 1 ∧ v < 2 ^ w ∧ ∀ i < w, v.testBit i = (bitA i || bitOf i)) ∧
      (∃ t v, exec (.logXor o) s = .next t ∧ Lands s t d v 1 ∧ v < 2 ^ w ∧ ∀ i < w, v.testBit i = (bitA i ^^ bitOf i)) ∧
      (∃ t v, exec (.andn o) s = .next t ∧ Lands s t d v 1 ∧ v < 2 ^ w ∧ ∀ i < w, v.testBit i = (bitA i && !bitOf i)) ∧
      (∃ t v, exec (.logNot o) s = .next t ∧ Lands s t d v 1 ∧ v < 2 ^ w ∧ ∀ i < w, v.testBit i = !bitA i)) ∧
    (∀ o : OpW, s.acts o.lc o.p = true →
      let a := s.src o.a (wBits o.w) o.x
      let d := Dst.range o.d (o.wd / 4)
      (∃ t, exec (.mov o) s = .next t ∧ Lands s t d (a % 2 ^ o.wd).toNat 1) ∧
      (o.x = true → ∃ t, exec (.ext o) s = .next t ∧
        Lands s t d (max (-(2 ^ (o.wd - 1))) (min (2 ^ (o.wd - 1) - 1) a) % 2 ^ o.wd).toNat 1) ∧
      (o.x = false → ∃ t, exec (.ext o) s = .next t ∧ Lands s t d (max 0 (min (2 ^ o.wd - 1) a) % 2 ^ o.wd).toNat 1)) ∧
    (∀ o : OpM, s.acts o.lc Pred.always = true →
      ∃ t, exec (.movi o) s = .next t ∧ Lands s t (.range o.d (wBits o.w / 4)) (o.imm % 2 ^ wBits o.w).toNat 1) ∧
    ∀ o : OpP, s.acts o.lc Pred.always = true →
      let w := wBits o.w
      let chosen := if (gateRead s.issue.sf o.p.gate ^^ o.p.neg) = true then s.src o.a w o.x else s.src o.b w o.x
      ∃ t, exec (.sel o) s = .next t ∧ Lands s t (.range o.d (w / 4)) (chosen % 2 ^ w).toNat 1

/-- SHL, SHR, ROL, ROR, CLZ, CTZ, POPC, BREV, BFX, BFI and PACK, when they act, answer a next state that differs only in one
result more in flight, with latency 1: the table's value, where a shift count of 64 or more leaves 0 (or all ones under an
arithmetic right shift). -/
def Obligations.ShiftsAndFieldsLand : Prop :=
  ∀ s : State, s.Canonical →
    (∀ o : OpP, s.acts o.lc o.p = true →
      let w := wBits o.w
      let a := s.src o.a w o.x
      let c := s.rd o.b w
      let d := Dst.range o.d (w / 4)
      (c < 64 → ∃ t, exec (.shl o) s = .next t ∧ Lands s t d (a * 2 ^ c % 2 ^ w).toNat 1) ∧
      (64 ≤ c → ∃ t, exec (.shl o) s = .next t ∧ Lands s t d 0 1) ∧
      (c < 64 → ∃ t, exec (.shr o) s = .next t ∧ Lands s t d (a / 2 ^ c % 2 ^ w).toNat 1) ∧
      (64 ≤ c → ∃ t, exec (.shr o) s = .next t ∧ Lands s t d (if a < 0 then 2 ^ w - 1 else 0) 1) ∧
      (∃ t v, exec (.rol o) s = .next t ∧ Lands s t d v 1 ∧ v < 2 ^ w ∧
        ∀ i < w, v.testBit ((i + c) % w) = (s.rd o.a w).testBit i) ∧
      (∃ t v, exec (.ror o) s = .next t ∧ Lands s t d v 1 ∧ v < 2 ^ w ∧
        ∀ i < w, v.testBit i = (s.rd o.a w).testBit ((i + c) % w)) ∧
      (∃ t v, exec (.brev o) s = .next t ∧ Lands s t d v 1 ∧ v < 2 ^ w ∧
        ∀ i < w, v.testBit i = (s.rd o.a w).testBit (w - 1 - i)) ∧
      (∃ t v, exec (.bfi o) s = .next t ∧ Lands s t d v 1 ∧ v < 2 ^ w ∧ ∀ i < w,
        v.testBit i = if c % 64 ≤ i ∧ i < c % 64 + (c / 64 % 64 + 1) then (s.rd o.a w).testBit (i - c % 64) else (s.rd o.d w).testBit i)) ∧
    ∀ o : OpW, s.acts o.lc o.p = true →
      let w := wBits o.w
      let a := s.rd o.a w
      let c := s.rd o.b w
      let d := Dst.range o.d (o.wd / 4)
      (∃ t n, exec (.clz o) s = .next t ∧ Lands s t d (n % 2 ^ o.wd) 1 ∧ n ≤ w ∧ a < 2 ^ (w - n) ∧ (n < w → 2 ^ (w - n - 1) ≤ a)) ∧
      (∃ t n, exec (.ctz o) s = .next t ∧ Lands s t d (n % 2 ^ o.wd) 1 ∧ n ≤ w ∧ a % 2 ^ n = 0 ∧ (n < w → a.testBit n = true)) ∧
      (∃ t, exec (.popc o) s = .next t ∧ Lands s t d (((List.range w).filter fun i => a.testBit i).length % 2 ^ o.wd) 1) ∧
      (∃ t, exec (.bfx o) s = .next t ∧
        let f := a / 2 ^ (c % 64) % 2 ^ (c / 64 % 64 + 1)
        Lands s t d ((if o.x && f.testBit (c / 64 % 64) then (f : Int) - 2 ^ (c / 64 % 64 + 1) else (f : Int)) % 2 ^ o.wd).toNat 1) ∧
      ∃ t, exec (.pack o) s = .next t ∧ Lands s t d ((c * 2 ^ w + a) % 2 ^ o.wd) 1

/-- CMP and TST, when they act, answer a next state that differs only in one result more in flight: the gate d[3:0], with latency
1. CMP's bit compares the extended sources as signed 64-bit values under eq, ne, lt, le, gt or ge; TST's tells whether some bit,
or no bit, is set in both. -/
def Obligations.ComparesWriteOneGate : Prop :=
  ∀ (s : State) (o : OpP), s.Canonical → s.acts o.lc o.p = true →
    let w := wBits o.w
    let signed (v : Int) : Int := (v + 2 ^ 63) % 2 ^ 64 - 2 ^ 63
    let a := signed (s.src o.a w o.x)
    let b := signed (s.src o.b w o.x)
    let bitOf (p : Prop) [Decidable p] : Nat := if p then 1 else 0
    let both := s.rd o.a w &&& s.rd o.b w
    (o.d / 16 < 6 → ∃ t v, exec (.cmp o) s = .next t ∧ Lands s t (.gate (o.d % 16)) v 1 ∧
      v = [bitOf (a = b), bitOf (a ≠ b), bitOf (a < b), bitOf (a ≤ b), bitOf (a > b), bitOf (a ≥ b)].getD (o.d / 16) 0) ∧
    (o.d / 16 < 2 → ∃ t v, exec (.tst o) s = .next t ∧ Lands s t (.gate (o.d % 16)) v 1 ∧
      v = [bitOf (both ≠ 0), bitOf (both = 0)].getD (o.d / 16) 0)

/-- FADD, FSUB, FMUL, FMA, FMIN, FMAX, FSGN, FRCP, FRSQ, FCMP and FCVT, when they act, answer a next state that differs only in
one result more in flight, with latency 5: the exact value of the operation on the operands' values, rounded to nearest once
(FMA's third operand is the destination as it stood before the bundle); FCMP's gate; FCVT's converted value in w_d bits. -/
def Obligations.FloatResultsLand : Prop :=
  ∀ s : State, s.Canonical →
    (∀ o : OpP, s.acts o.lc o.p = true →
      let a := fdec fp32 (s.rd o.a 32)
      let b := fdec fp32 (s.rd o.b 32)
      let d := Dst.range o.d 8
      (∃ t, exec (.fadd o) s = .next t ∧ Lands s t d (rne fp32 (fsum [a, b])) 5) ∧
      (∃ t, exec (.fsub o) s = .next t ∧ Lands s t d (rne fp32 (fsum [a, b.negate])) 5) ∧
      (∃ t, exec (.fmul o) s = .next t ∧ Lands s t d (rne fp32 (fmulV a b)) 5) ∧
      (∃ t, exec (.fma o) s = .next t ∧ Lands s t d (rne fp32 (fsum [fmulV a b, fdec fp32 (s.rd o.d 32)])) 5) ∧
      (∃ t, exec (.fmin o) s = .next t ∧ Lands s t d (rne fp32 (fminV a b)) 5) ∧
      (∃ t, exec (.fmax o) s = .next t ∧ Lands s t d (rne fp32 (fmaxV a b)) 5) ∧
      (a.isNan = true → ∃ t, exec (.fsgn o) s = .next t ∧ Lands s t d 0x7FC00000 5) ∧
      (a.isNan = false → ∃ t v, exec (.fsgn o) s = .next t ∧ Lands s t d v 5 ∧ v < 2 ^ 32 ∧
        v % 2 ^ 31 = s.rd o.a 32 % 2 ^ 31 ∧ v.testBit 31 = (s.rd o.b 32).testBit 31) ∧
      (∃ t, exec (.frcp o) s = .next t ∧ Lands s t d (rne fp32 (frcpV a)) 5) ∧
      (∃ t, exec (.frsq o) s = .next t ∧ Lands s t d (rne fp32 (frsqV a)) 5) ∧
      ∃ t, exec (.fcmp o) s = .next t ∧ Lands s t (.gate (o.d % 16)) (if fcmpHolds (o.d / 16) a b then 1 else 0) 5) ∧
    ∀ o : OpW, s.acts o.lc o.p = true →
      ∃ t, exec (.fcvt o) s = .next t ∧
        Lands s t (.range o.d (o.wd / 4))
          (cvt (o.b % 8) (o.b / 8 % 8) (wBits o.w) o.wd (s.rd o.a (wBits o.w)) (o.b.testBit 6) o.x) 5

/-- In each of the formats FP32, FP16, BF16, E4M3, E5M2 and E2M1, rounding the value of a code to nearest, or toward zero, gives
the code back, unless the code is a NaN, which gives the canonical NaN. In particular no subnormal is flushed to zero and -0 keeps
its sign. -/
def Obligations.CodesSurviveDecodingAndRounding : Prop :=
  ∀ f ∈ [fp32, fp16, bf16, e4m3, e5m2, e2m1], ∀ c, c < 2 ^ f.w → ∀ rz : Bool,
    if (fdec f c).isNan = true then some (fenc f rz false (fdec f c)) = f.nan else fenc f rz false (fdec f c) = c

/-- TOPKC writes every entry of the list with the key operand and a tag of all ones. TOPK reads the list as it stood before the
bundle; with i the first index whose key is smaller than the new key (signed when x is 1), the entries from i on move one place
up, entry k-1 is dropped and entry i is the new pair; with no such index the list is unchanged. The whole list lands with latency
2 and nothing else changes. -/
def Obligations.TopkInsertsInOrder : Prop :=
  ∀ (s : State) (o : OpK), s.Canonical → s.acts o.lc Pred.always = true → 1 ≤ o.k →
    let w := wBits o.w
    let tw := 4 * (o.t + 1)
    let old := s.rd o.d (o.k * (w + tw))
    let key (v i : Nat) : Nat := v / 2 ^ (i * (w + tw) + tw) % 2 ^ w
    let tag (v i : Nat) : Nat := v / 2 ^ (i * (w + tw)) % 2 ^ tw
    let rank (k : Nat) : Int := if o.x = true then (if k.testBit (w - 1) = true then (k : Int) - 2 ^ w else (k : Int)) else (k : Int)
    let new := s.rd o.a w
    let newTag := s.rd o.b w % 2 ^ tw
    (∃ t v, exec (.topkc o) s = .next t ∧ Lands s t (.list o.d (o.k * (w + tw) / 4)) v 2 ∧ v < 2 ^ (o.k * (w + tw)) ∧
      ∀ i < o.k, key v i = new ∧ tag v i = 2 ^ tw - 1) ∧
    ∃ t v, exec (.topk o) s = .next t ∧ Lands s t (.list o.d (o.k * (w + tw) / 4)) v 2 ∧ v < 2 ^ (o.k * (w + tw)) ∧
      ((∀ j < o.k, rank new ≤ rank (key old j)) → ∀ j < o.k, key v j = key old j ∧ tag v j = tag old j) ∧
      ∀ i < o.k, (∀ j < i, rank new ≤ rank (key old j)) → rank (key old i) < rank new →
        (∀ j < i, key v j = key old j ∧ tag v j = tag old j) ∧ key v i = new ∧ tag v i = newTag ∧
        ∀ j, i < j → j < o.k → key v j = key old (j - 1) ∧ tag v j = tag old (j - 1)

/-- With an empty port and no watchpoint enabled, LD, LDL and FILL of a permitted address answer a next state in which the task
has one return more, whose value is the little-endian bytes at (A + imm) mod 2^32, or for FILL the w/4 nibbles from nibble (2A +
imm) mod 2^33 on, low nibble first. LDL also takes the granule's lock bit, which must be free with no requester waiting or held by
the task. No byte of memory and no other task, slice, gate, handle or lock bit changes. -/
def Obligations.LoadsReturnMemory : Prop :=
  ∀ (s : State) (o : OpI), s.Canonical → PortFree s → Unwatched s → s.acts o.lc o.p = true →
    let c := s.myCore
    let n := wBits o.w / 8
    let a := (((s.rd o.a 32 : Int) + o.imm) % 2 ^ 32).toNat
    let m := wBits o.w / 4
    let na := ((2 * (s.rd o.a 32 : Int) + o.imm) % 2 ^ 33).toNat
    let at_ := localPlace c (na / 2)
    let nibble (i : Nat) := (s.mem.byte (place at_.1 at_.2 + (na % 2 + i) / 2)).toNat / 16 ^ ((na % 2 + i) % 2) % 16
    (s.chk c a n = none → ∃ t, exec (.ld o) s = .next t ∧ Returns s t o.d m (s.readLocal c a n)) ∧
    (∀ k, s.chk c a n = none → a / 16 = (a + n - 1) / 16 → ¬ (0x10000000 ≤ a ∧ a < 0x16000000) → lockOf c a = some k →
      (s.lockBit k).openTo s.me = true →
      ∃ u t, exec (.ldl o) s = .next t ∧ Returns s u o.d m (s.readLocal c a n) ∧ t = { u with locks := t.locks } ∧
        (t.lockBit k).heldBy s.me = true ∧ (t.lockBit k).waiters = (s.lockBit k).waiters ∧ ∀ j, j ≠ k → t.lockBit j = s.lockBit j) ∧
    (s.chk c (na / 2) ((na + m - 1) / 2 - na / 2 + 1) = none →
      ∃ t v, exec (.fill o) s = .next t ∧ Returns s t o.d m v ∧ v < 16 ^ m ∧ ∀ i, i < m → v / 16 ^ i % 16 = nibble i)

/-- With an empty port and no watchpoint enabled, ST, STU and SPILL of a permitted address answer a next state in which the bytes
at (A + imm) mod 2^32, or for SPILL the w/4 nibbles from nibble (2A + imm) mod 2^33 on, hold the operand at D, every other byte
and nibble of memory is as it was, and nothing else of the module differs but the fields' dirty bits. STU also frees the granule's
lock bit if the task holds it. -/
def Obligations.StoresWriteMemory : Prop :=
  ∀ (s : State) (o : OpI), s.Canonical → PortFree s → Unwatched s → s.acts o.lc o.p = true →
    let c := s.myCore
    let n := wBits o.w / 8
    let a := (((s.rd o.a 32 : Int) + o.imm) % 2 ^ 32).toNat
    let v := s.rd o.d (wBits o.w)
    let m := wBits o.w / 4
    let na := ((2 * (s.rd o.a 32 : Int) + o.imm) % 2 ^ 33).toNat
    let at_ := localPlace c (na / 2)
    let nibble (t : State) (i : Nat) := (t.mem.byte (i / 2)).toNat / 16 ^ (i % 2) % 16
    let first := 2 * place at_.1 at_.2 + na % 2
    (s.chk c a n = none → ∃ t, exec (.st o) s = .next t ∧ Stores s t c a n v) ∧
    (∀ k, s.chk c a n = none → a / 16 = (a + n - 1) / 16 → ¬ (0x10000000 ≤ a ∧ a < 0x16000000) → lockOf c a = some k →
      ∃ u t, exec (.stu o) s = .next t ∧ Stores s u c a n v ∧ t = { u with locks := t.locks } ∧
        (t.lockBit k).heldBy s.me = false ∧ (t.lockBit k).waiters = (s.lockBit k).waiters ∧
        ((s.lockBit k).heldBy s.me = false → t.lockBit k = s.lockBit k) ∧ ∀ j, j ≠ k → t.lockBit j = s.lockBit j) ∧
    (s.chk c (na / 2) ((na + m - 1) / 2 - na / 2 + 1) = none →
      ∃ t, exec (.spill o) s = .next t ∧ OnlyMem s t ∧ (∀ i, i < m → nibble t (first + i) = v / 16 ^ i % 16) ∧
        ∀ i, i < first ∨ first + m ≤ i → nibble t i = nibble s i)

/-- Every PUSH and every POP that acts completes: it answers a next state. A PUSH to vout with fewer than 8 words there sends the
zero-extended operand toward the tile and channel that VOUTDST named before the bundle, as a release of the accesses then in the
task's port. A PUSH to fq with fewer than 16 words there appends it to fq; a request that it completes is numbered next, and where
it is a release, or comes after an acquire or a fence in the port, a mark for it joins the port, and for an acquire what holds
later accesses until its response. Where the port is empty and left to itself, the mark is gone at once and the hold stays while
the response is owed; where the schedule or a lock bit keeps the port, both stand at its end. A POP of vin takes the oldest word
of the channel bound before the bundle, and a POP of fr the oldest word of fr: its low bits return to the destination. Where the
FIFO has no room, or no word, the form changes nothing. Nothing else differs. -/
def Obligations.FifosMoveWords : Prop :=
  ∀ (s : State) (o : OpP), s.Canonical → s.acts o.lc o.p = true →
    let w : Word64 := BitVec.ofNat 64 (s.rd o.a (wBits o.w))
    let k := s.task s.me
    let m := wBits o.w / 4
    let v := s.issue.voutdst.toNat
    (∃ t, exec (.push o) s = .next t) ∧ (∃ t, exec (.pop o) s = .next t) ∧
    (o.b = 1 → (s.voutWords s.me).length < 8 → ∃ t, exec (.push o) s = .next t ∧ t = { s with mesh := s.mesh ++
      [⟨some s.me, v / 2 ^ 16 % 4 * 256 + v / 2 ^ 8 % 256, v % 32, w, true, k.port.length, if v / 2 ^ 29 % 8 = 5 then 4 else v / 2 ^ 29 % 8⟩] }) ∧
    (o.b = 1 → 8 ≤ (s.voutWords s.me).length → exec (.push o) s = .next s) ∧
    (o.b = 2 → 16 ≤ k.fq.length → exec (.push o) s = .next s) ∧
    (o.b = 0 → s.vin = [] → exec (.pop o) s = .next s) ∧ (o.b = 3 → k.fr = [] → exec (.pop o) s = .next s) ∧
    (o.b = 2 → k.fq.length < 16 →
      let u : Task := { k with fq := k.fq ++ [w] }
      let v : Task := { u with reqNo := k.reqNo + 1 }
      let ord := (lastCtl 16 u.fq).toNat / 256 % 8
      let rel := decide (ord = 2 ∨ ord = 3)
      let mark : List Access := if rel = true ∨ (∃ a ∈ k.port, a.kind.acquires = true ∨ a.kind.bars = true) then
        [⟨.mark k.reqNo rel, 0, none, []⟩] else []
      let hold : List Access := if ord = 1 ∨ ord = 3 then [⟨.hold (k.reqNo + 1) 3 5, 0, none, []⟩] else []
      (u.fqComplete = k.fqComplete → ∃ t, exec (.push o) s = .next t ∧ OnlyTask s t s.me ∧ t.task s.me = u) ∧
      (u.fqComplete ≠ k.fqComplete →
        (∃ t, exec (.push o) s = .next t ∧ (t.task s.me).fq = u.fq ∧ (t.task s.me).reqNo = k.reqNo + 1) ∧
        (mark ++ hold = [] ∨ k.lag = true ∨ k.waitLock.isSome = true →
          ∃ t, exec (.push o) s = .next t ∧ OnlyTask s t s.me ∧ t.task s.me = { v with port := k.port ++ mark ++ hold }) ∧
        (PortFree s → ∃ t, exec (.push o) s = .next t ∧ OnlyTask s t s.me ∧
          t.task s.me = { v with port := if v.owes (k.reqNo + 1) = true then hold else [] }))) ∧
    (∀ (n : Nat) (x : Word64) (l : List Word64), o.b = 0 → s.issue.vc = some n → (s.tile s.myCore).vc n = x :: l →
      ∃ u t, exec (.pop o) s = .next t ∧ OnlyTile s u s.myCore ∧
        u.tile s.myCore = { s.tile s.myCore with vcs := Sparse.set [] (s.tile s.myCore).vcs n l } ∧ Returns u t o.d m x.toNat) ∧
    ∀ (x : Word64) (l : List Word64), o.b = 3 → k.fr = x :: l →
      ∃ u t, exec (.pop o) s = .next t ∧ OnlyTask s u s.me ∧ u.task s.me = { k with fr := l } ∧ Returns u t o.d m x.toNat

/-- HFLD lands a field of the handle as it stood before the bundle, sign-extended from 26 bits for a stride, with latency 1. HFSET
replaces one field of a handle and leaves its other bits. HMOV copies a handle, and has no effect with one handle named twice. HLD
returns 32 aligned bytes to a handle and holds it pending until they are written; HST stores a handle's 32 bytes. No other handle,
slice, byte or task changes. -/
def Obligations.HandlesMoveWhole : Prop :=
  ∀ s : State, s.Canonical →
    (∀ o : OpP, s.acts o.lc o.p = true → o.b ≤ 17 →
      let at_ := [(0, 48), (48, 3), (51, 4), (55, 2), (57, 2), (59, 2), (61, 4), (65, 1), (66, 2), (72, 20), (92, 20), (112, 20), (132, 20),
        (152, 26), (178, 26), (204, 26), (230, 26), (68, 4)].getD o.b (0, 0)
      let f : Nat := (hGet s.issue.hs o.a).toNat / 2 ^ at_.1 % 2 ^ at_.2
      let v : Int := if 13 ≤ o.b ∧ o.b ≤ 16 ∧ 2 ^ 25 ≤ f then (f : Int) - 2 ^ 26 else f
      (∃ t, exec (.hfld o) s = .next t ∧ Lands s t (.range o.d (wBits o.w / 4)) (v % 2 ^ wBits o.w).toNat 1) ∧
      ∃ t h, exec (.hfset o) s = .next t ∧ OnlyTask s t s.me ∧
        t.task s.me = { s.task s.me with hs := Sparse.set 0 (s.task s.me).hs o.d h } ∧
        ∀ i, i < 256 → h.getLsbD i = if at_.1 ≤ i ∧ i < at_.1 + at_.2 then (s.rd o.a (wBits o.w)).testBit (i - at_.1)
          else (hGet (s.task s.me).hs o.d).getLsbD i) ∧
    (∀ (lc : LoopCond) (h h2 : Nat), s.acts lc Pred.always = true →
      (h = h2 → exec (.hmov lc h h2) s = .next s) ∧
      (h ≠ h2 → ∃ t, exec (.hmov lc h h2) s = .next t ∧ OnlyTask s t s.me ∧
        t.task s.me = { s.task s.me with hs := Sparse.set 0 (s.task s.me).hs h (hGet s.issue.hs h2) })) ∧
    ∀ o : OpHS, s.acts o.lc Pred.always = true → PortFree s → Unwatched s →
      let a := s.rd o.s 32
      a % 32 = 0 → s.chk s.myCore a 32 = none →
      (∃ t, exec (.hld o) s = .next t ∧ OnlyTask s t s.me ∧ t.task s.me =
        ((s.task s.me).addRet none none (some o.h)).fillRet (s.task s.me).nextRet (s.readLocal s.myCore a 32) false) ∧
      ∃ t, exec (.hst o) s = .next t ∧ Stores s t s.myCore a 32 (hGet s.issue.hs o.h).toNat

/-- SLD, SST, SCP, SGA, SSC, SREC, SMC, SFIL, SCFG, SBAR and MSEND, when they act, raise no cause and entry q mod 16 is free,
answer a next state in which that entry waits with the command's number, the handles, scale handles and slice value as they stood
before the bundle, the accesses of the port that come before it (all up to the last acquire, release or fence of the port, and all
that a release of the task outside the port, a word sent, a match post or another command, still comes after; for SCFG and MSEND
also the number that it releases) and the tile's version, the task's count q is one more, and nothing else differs. -/
def Obligations.QueueCommandsTakeTheirSnapshot : Prop :=
  ∀ s : State, s.Canonical →
    let e := cmdAt s.me ((s.task s.me).q % 16)
    (s.cmd e).ended = true →
    let before := (((s.mesh.filter fun x => decide (x.src = some s.me)).map fun x => x.behind) ++
      ((s.rx.ops.filter fun x => decide (x.task = s.me) && match x.op with | .post _ _ => true | _ => false).map fun x => x.behind) ++
      ((List.range 16).map fun i => (s.cmd (cmdAt s.me i)).rel)).foldl max (orderedLen (s.task s.me).port)
    let scale (h : Handle) : Handle := if h.getLsbD 65 = true then hGet s.issue.hs (h.toNat / 2 ^ 61 % 16) else 0
    let takes (i : Instr) (op : Nat) (o : OpStr) (two : Bool) (v : Nat) : Prop :=
      let h := hGet s.issue.hs o.h
      let h2 : Handle := if two = true then hGet s.issue.hs o.h2 else 0
      ∃ t, exec i s = .next t ∧ t = { s with tasks := t.tasks, cmds := t.cmds } ∧
        t.task s.me = { s.task s.me with q := (s.task s.me).q + 1 } ∧ (∀ j, j ≠ s.me → t.task j = s.task j) ∧
        (∀ j, j ≠ e → t.cmd j = s.cmd j) ∧
        t.cmd e = { st := .waiting, op := op, stop := s.issue.last, o := o, sop := BitVec.ofNat 64 v, h := h, h2 := h2, hs := scale h
                    h2s := scale h2, seq := (s.task s.me).q, ver := s.verOf s.myCore, behind := before
                    rel := if op = 8 ∨ op = 0x31 then (s.task s.me).port.length else 0 }
    (∀ o : OpStr, s.acts o.lc Pred.always = true →
      (strCause 0 o s = none → takes (.sld o) 0 o (decide (o.h2 ≠ 0)) (s.rd o.s 64)) ∧
      (strCause 1 o s = none → takes (.sst o) 1 o (decide (o.h2 ≠ 0)) (s.rd o.s 64)) ∧
      (strCause 2 o s = none → takes (.scp o) 2 o true (s.rd o.s 64)) ∧
      (strCause 3 o s = none → takes (.sga o) 3 o (decide (o.h2 ≠ 0 ∨ o.port = 0x7F)) (s.rd o.s 64)) ∧
      (strCause 4 o s = none → takes (.ssc o) 4 o (decide (o.h2 ≠ 0)) (s.rd o.s 64)) ∧
      (strCause 5 o s = none → takes (.srec o) 5 o (decide (o.h2 ≠ 0)) (s.rd o.s 16)) ∧
      (strCause 6 o s = none → takes (.smc o) 6 o (decide (o.h2 ≠ 0)) (s.rd o.s 64)) ∧
      (strCause 7 o s = none → takes (.sfil o) 7 o (decide (o.h2 ≠ 0)) (s.rd o.s 64))) ∧
    (∀ (lc : LoopCond) (h nt : Nat) (nk : Bool), s.acts lc Pred.always = true → scfgCause h s = none →
      takes (.scfg lc h nt nk) 8 ⟨lc, h, 0, nt, 0, 0, false, false, 0, nk⟩ false 0) ∧
    (∀ (lc : LoopCond) (mask nt : Nat) (nk : Bool), s.acts lc Pred.always = true → s.queueCause = none →
      takes (.sbar lc mask nt nk) 9 ⟨lc, 0, 0, nt, 0, 0, mask.testBit 3, mask.testBit 2, mask % 4, nk⟩ false 0) ∧
    ∀ o : OpHS, s.acts o.lc Pred.always = true → msendCause o s = none →
      takes (.msend o) 0x31 ⟨o.lc, o.h, 0, 0, 0, o.s, false, false, 0, false⟩ false (s.rd o.s 32)

/-- SKIL, when it acts, changes only the entries it names: a command that has ended, an SCFG whose wave has entered and an MSEND
whose first flit has left stay as they are; a waiting command, or one whose packets outstanding are all reads of lines for its
next beat, ends KILLED with its count; another gives up those reads and is marked to end KILLED once its other packets have ended.
SSTA returns STATE in [3:0], FAULT in [7:4], OP in [15:10] and COUNT in [55:16] of its entry, and changes nothing else. -/
def Obligations.SkilEndsAndSstaReports : Prop :=
  ∀ (s : State) (lc : LoopCond), s.Canonical → s.acts lc Pred.always = true →
    (∀ (all : Bool) (entry : Nat), ∃ t, exec (.skil lc all entry) s = .next t ∧ t = { s with cmds := t.cmds } ∧
      (∀ j, (∀ e, (all = true ∧ e < 16 ∨ all = false ∧ e = entry) → j ≠ cmdAt s.me e) → t.cmd j = s.cmd j) ∧
      ∀ e, (all = true ∧ e < 16 ∨ all = false ∧ e = entry) →
        let c := s.cmd (cmdAt s.me e)
        let spent := c.ended = true ∨ c.op = 8 ∧ c.entered = true ∨ c.op = 0x31 ∧ c.sent = true
        (spent → t.cmd (cmdAt s.me e) = c) ∧
        (¬ spent → (c.st = .waiting ∨ ∀ o ∈ c.owed, o.line ≠ none) → t.cmd (cmdAt s.me e) =
          { c with st := .killed, count := c.elems c.pos, walk := none, xl := none, lines := [], under := [], stale := false, owed := []
                   redo := [], kill := false }) ∧
        (¬ spent → c.st ≠ .waiting → (∃ o ∈ c.owed, o.line = none) → t.cmd (cmdAt s.me e) =
          { c with kill := true, walk := none, lines := [], under := [], stale := false, xl := if c.stale then none else c.xl
                   owed := c.owed.filter fun o => o.line.isNone })) ∧
    ∀ sl entry : Nat,
      let c := s.cmd (cmdAt s.me entry)
      let code : Nat := match c.st with
        | .never => 0 | .waiting => 1 | .running => 2 | .paused => 3 | .done => 4 | .killed => 5 | .faulted => 6
      let count := if c.st = .running ∨ c.st = .waiting then c.elems c.pos else c.count
      ∃ t, exec (.ssta lc sl entry) s = .next t ∧
        Returns s t sl 16 (code + c.fault * 2 ^ 4 + c.op * 2 ^ 10 + count % 2 ^ 40 * 2 ^ 16)

/-- SIG, when it acts and names a tile of at most 143, answers the same state with one word more on its way to the named channel
of that tile of that die, which releases, at the scope it names, the accesses that the task's port holds and arrives after them.
SIGM sends the same word to every tile of a non-empty rectangle inside the issuing field, row by row. The word is the payload in
[31:0], the sender's module tile number in [41:32] and its context in [44:42]. -/
def Obligations.TokensAreSent : Prop :=
  ∀ (s : State) (lc : LoopCond) (vc sl scope : Nat), s.acts lc Pred.always = true →
    let v := s.rd sl 64
    let c := s.myCore
    let tile := if c % 256 = 255 then 576 + c / 256 else c / 256 * 144 + c % 256
    let w : Word64 := BitVec.ofNat 64 (v % 2 ^ 32 + tile * 2 ^ 32 + s.me % 8 * 2 ^ 42)
    let n := (s.task s.me).port.length
    (v / 2 ^ 32 % 2 ^ 8 ≤ 143 → exec (.sig lc vc sl scope) s =
      .next { s with mesh := s.mesh ++ [⟨some s.me, v / 2 ^ 40 % 4 * 256 + v / 2 ^ 32 % 2 ^ 8, vc, w, false, n, scope⟩] }) ∧
    ∀ k, s.fieldOf c = some k →
      let f := s.field k
      let x0 := v / 2 ^ 32 % 2 ^ 8
      let y0 := v / 2 ^ 40 % 2 ^ 8
      let wd := v / 2 ^ 48 % 2 ^ 8
      let ht := v / 2 ^ 56 % 2 ^ 8
      wd ≠ 0 → ht ≠ 0 → x0 + wd ≤ f.w → y0 + ht ≤ f.h →
      exec (.sigm lc vc sl scope) s = .next { s with
        mesh := s.mesh ++ (List.range ht).flatMap fun y => (List.range wd).map fun x =>
          ⟨some s.me, k / 256 * 256 + (f.y0 + y0 + y) * 12 + f.x0 + x0 + x, vc, w, false, n, scope⟩ }

/-- Every BIND and every UNBIND that acts completes: it answers a next state. BIND of a context that is not FREE, when it acts,
gives it the channel, unbinds the task that held the channel, wakes the context if it is parked with the END kind and a word waits
there, and changes nothing else; on a FREE context it has no effect. UNBIND unbinds the task that holds the channel, its words
stay, and nothing else changes. -/
def Obligations.BindingsMove : Prop :=
  ∀ (s : State) (lc : LoopCond) (vc : Nat), s.Canonical → s.acts lc Pred.always = true →
    (∀ ctx, ∃ t, exec (.bind lc vc ctx) s = .next t) ∧ (∃ t, exec (.unbind lc vc) s = .next t) ∧
    (∀ ctx, ctx < 8 →
      let k := s.myCore * 8 + ctx
      ((s.task k).st = .free → exec (.bind lc vc ctx) s = .next s) ∧
      ((s.task k).st ≠ .free → ∃ t, exec (.bind lc vc ctx) s = .next t ∧ t = { s with tasks := t.tasks } ∧
        (t.task k).vc = some vc ∧
        (((s.tile s.myCore).vc vc = [] ∨ (s.task k).waits .endK = false) → t.task k = { s.task k with vc := some vc }) ∧
        ((s.tile s.myCore).vc vc ≠ [] → (s.task k).waits .endK = true →
          (t.task k).kind = .none ∧ (t.task k).pc = (s.task k).entry ∧
          ((s.task k).st = .parked → (t.task k).st = .runnable) ∧ ((s.task k).st = .held → (t.task k).st = .held ∧ (t.task k).rem = .runnable)) ∧
        ∀ j, j ≠ k → t.task j = if s.boundTo s.myCore vc = some j then { s.task j with vc := none } else s.task j)) ∧
    ∃ t, exec (.unbind lc vc) s = .next t ∧ t = { s with tasks := t.tasks } ∧
      ∀ j, t.task j = if s.boundTo s.myCore vc = some j then { s.task j with vc := none } else s.task j

/-- DCSET, when it acts, writes the counter's value from [15:0] and its binding from [19:16], clears its underflow bit when bit 20
is set, and changes nothing else. DCDEC waits at the end of the task's port where that holds accesses, which it releases. Else, of
a counter at zero it sets its underflow bit; of another it takes one away, and where that leaves zero and a task is bound, the
task gets the counter's event: it wakes from a WAITC on that counter at its resume address or from END at its entry, and
otherwise, if it is neither FREE nor FAULTED, its latch is set. -/
def Obligations.CountersAreSetAndDecremented : Prop :=
  ∀ (s : State) (lc : LoopCond) (dc : Nat), s.Canonical → s.acts lc Pred.always = true →
    let c := (s.tile s.myCore).counter dc
    let put (u : Tile) (k : Counter) : Tile := { u with counters := Sparse.set {} u.counters dc k }
    (∀ sl : Nat, let v := s.rd sl 32
      ∃ t, exec (.dcset lc sl dc) s = .next t ∧ OnlyTile s t s.myCore ∧ t.tile s.myCore = put (s.tile s.myCore)
        { val := BitVec.ofNat 16 v, bound := if v.testBit 19 = true then some (v / 2 ^ 16 % 8) else none
          uf := c.uf && !v.testBit 20 }) ∧
    (∀ b l, (s.task s.me).port = b :: l → ∃ t, exec (.dcdec lc dc) s = .next t ∧ OnlyTask s t s.me ∧
      t.task s.me = { s.task s.me with port := b :: l ++ [⟨.dec dc, 0, none, []⟩] }) ∧
    ((s.task s.me).port = [] → c.val = 0 → ∃ t, exec (.dcdec lc dc) s = .next t ∧ OnlyTile s t s.myCore ∧ t.tile s.myCore = put (s.tile s.myCore) { c with uf := true }) ∧
    ((s.task s.me).port = [] → c.val ≠ 0 → c.val ≠ 1 ∨ c.bound = none → ∃ t, exec (.dcdec lc dc) s = .next t ∧ OnlyTile s t s.myCore ∧
      t.tile s.myCore = put (s.tile s.myCore) { c with val := c.val - 1 }) ∧
    ∀ x, (s.task s.me).port = [] → c.val = 1 → c.bound = some x →
      let k := s.task (s.myCore * 8 + x)
      ∃ u t, exec (.dcdec lc dc) s = .next t ∧ OnlyTile s u s.myCore ∧ u.tile s.myCore = put (s.tile s.myCore) { c with val := 0 } ∧
        OnlyTask u t (s.myCore * 8 + x) ∧
        let k' := t.task (s.myCore * 8 + x)
        (k.waits .waitc = true → k.waitDc = dc → k' = k.wake k.pc) ∧
        (k.waits .endK = true → k' = k.wake k.entry) ∧
        (k.waits .endK = false → (k.waits .waitc = false ∨ k.waitDc ≠ dc) →
          k' = if k.st = .free ∨ k.st = .faulted then k else { k with latch := true })

/-- With an empty port and no watchpoint enabled, a DRAW that acts and passes its checks reads the card's next n, total t,
minsheaf and takers; on an empty card (n >= t) it returns start n and size 0 and writes nothing; else with rem = t - n, k =
max(takers, 1) and m = max(minsheaf, 1) the size is min(rem, max(m, ceil(rem / 2k))), it returns start n and that size, and next
becomes n + size. The read and the write are one step, and nothing else of the module differs. -/
def Obligations.DrawTakesASheaf : Prop :=
  ∀ (s : State) (o : OpHS), s.Canonical → PortFree s → Unwatched s → s.acts o.lc Pred.always = true → drawCause o s = none →
    let c := s.myCore
    let a := hLocal (hGet s.issue.hs o.h) / 64 * 64
    let n := s.readLocal c a 4
    let total := s.readLocal c (a + 4) 4
    let m := max (s.readLocal c (a + 8) 4) 1
    let k := max (s.readLocal c (a + 12) 2) 1
    let rem := total - n
    (total ≤ n → ∃ t, exec (.draw o) s = .next t ∧ Returns s t o.s 16 n) ∧
    (n < total → ∃ u t size, exec (.draw o) s = .next t ∧ size = min rem (max m ((rem + 2 * k - 1) / (2 * k))) ∧
      2 * k * ((rem + 2 * k - 1) / (2 * k)) < rem + 2 * k ∧ rem ≤ 2 * k * ((rem + 2 * k - 1) / (2 * k)) ∧ 1 ≤ size ∧ n + size ≤ total ∧
      Returns s u o.s 16 (n + size * 2 ^ 32) ∧ Stores u t c a 4 (n + size))

/-- With an empty port and no watchpoint enabled, an FPUT that acts and passes its checks writes the value to the future's first 8
bytes and sets its full bit, and every task of the die that waits for an empty future there gets the value, its gate set, and runs
on. A WAITF that acts and passes its check returns the value of a full future with the gate set; of an empty one it parks with an
entry in the well while the well and the field's limit have room, and otherwise returns the gate clear and the slices as they are.
No other byte or task changes. -/
def Obligations.FuturesFillAndWait : Prop :=
  ∀ s : State, s.Canonical → PortFree s → Unwatched s →
    let c := s.myCore
    let k := s.task s.me
    let full (a : Nat) := s.readLocal c (a + 8) 1 % 2 = 1
    (∀ o : OpHS, s.acts o.lc Pred.always = true → fputCause o s = none →
      let a := hLocal (hGet s.issue.hs o.h) / 16 * 16
      0x10000000 ≤ a → a < 0x16000000 →
      ∃ t, exec (.fput o) s = .next t ∧ t = { s with mem := t.mem, fields := t.fields, tasks := t.tasks } ∧
        OnlyMem s { t with tasks := s.tasks } ∧ t.readLocal c a 8 = s.rd o.s 64 ∧
        t.readLocal c (a + 8) 1 = s.readLocal c (a + 8) 1 / 2 * 2 + 1 ∧ SameOutside s t (.granary (dieOf c)) (a - 0x10000000) 9 ∧
        (full a → t.tasks = s.tasks) ∧
        (¬ full a → ∀ j w, dieOf (coreOf j) = dieOf c → (s.task j).well = some w → w.addr = a →
          let u := { (s.task j).fillRet w.ret (s.rd o.s 64) true with well := none }
          t.task j = if u.waits .waitf then u.wake u.pc else u) ∧
        ∀ j, (dieOf (coreOf j) ≠ dieOf c ∨ ∀ w, (s.task j).well = some w → w.addr ≠ a) → t.task j = s.task j) ∧
    ∀ (x : Ctl) (f v g : Nat), s.acts x.lc x.p = true →
      let a := s.rd f 32 / 16 * 16
      s.windowCause a 16 = none →
      let u := k.addRet (some (v, 16)) (some g) none
      ∃ t, exec (.waitf x f v g) s = .next t ∧ OnlyTask s t s.me ∧
        (full a → t.task s.me = u.fillRet k.nextRet (s.readLocal c a 8) true) ∧
        (¬ full a → s.wellRoom c = true → (∀ r ∈ k.rets, r.id ≠ k.nextRet) →
          t.task s.me = { u with st := if k.st = .runnable then .parked else k.st, kind := .waitf, well := some ⟨a, v, g, k.nextRet⟩ }) ∧
        (¬ full a → s.wellRoom c = false → t.task s.me = u.gateRet k.nextRet)

/-- With an empty port and no watchpoint enabled, where the checks pass: RESV of a valid block returns the full mark when tail -
done has reached 2^lg, else the slot address and the ticket, and tail becomes one more; PUBL writes ticket + 1 to its slot's stamp
and nothing else; RTAKE returns the largest number n of at most max tickets from take on that are all published, with take, and
take becomes take + n. Of an invalid block RESV and RTAKE return all ones, and PUBL has no effect. -/
def Obligations.RingsHandOutTickets : Prop :=
  ∀ (s : State) (o : OpHS), s.Canonical → PortFree s → Unwatched s → s.acts o.lc Pred.always = true → ringCause o s = none →
    let c := s.myCore
    let a := hLocal (hGet s.issue.hs o.h)
    let r := s.ring c a
    let stamp (t : Nat) := s.readLocal c (r.slotaddr t) 4
    let ready (t : Nat) := t ≠ r.tail ∧ stamp t = (t + 1) % 2 ^ 32
    (s.ringOk c r = false → ∀ mx, (∃ t, exec (.resv o) s = .next t ∧ Returns s t o.s 16 (2 ^ 64 - 1)) ∧
      (∃ t, exec (.rtake o mx) s = .next t ∧ Returns s t o.s 16 (2 ^ 64 - 1)) ∧ exec (.publ o) s = .next s) ∧
    (s.ringOk c r = true →
      (2 ^ r.lg ≤ (r.tail + 2 ^ 32 - r.done) % 2 ^ 32 →
        ∃ t, exec (.resv o) s = .next t ∧ Returns s t o.s 16 (0xFFFFFFFF * 2 ^ 32 + r.tail)) ∧
      ((r.tail + 2 ^ 32 - r.done) % 2 ^ 32 < 2 ^ r.lg → ∃ u t, exec (.resv o) s = .next t ∧
        Returns s u o.s 16 (r.slotaddr r.tail * 2 ^ 32 + r.tail) ∧ Stores u t c a 4 (r.tail + 1)) ∧
      (∃ t, exec (.publ o) s = .next t ∧ Stores s t c (r.slotaddr (s.rd o.s 32)) 4 (s.rd o.s 32 + 1)) ∧
      ∀ mx, ∃ u t n, exec (.rtake o mx) s = .next t ∧ n ≤ mx + 1 ∧ (∀ i, i < n → ready ((r.take + i) % 2 ^ 32)) ∧
        (n < mx + 1 → ¬ ready ((r.take + n) % 2 ^ 32)) ∧
        Returns s u o.s 16 (n * 2 ^ 32 + r.take) ∧ Stores u t c (a + 4) 4 (r.take + n))

/-- With an empty port, no watchpoint enabled and its lock bit open to the task, an atomic that acts and passes its checks returns
the n-byte value at its address (AST returns nothing) and writes the table's new value there in the same step: the sum mod 2^(8n),
the smaller or larger signed or unsigned, AND, OR, XOR, the operand, or for ACAS the low operand when the old value equals the
upper one. ALD and a failing ACAS write nothing. A .sc atomic does so where no .sc atomic of an earlier cycle of the wheel waits
in another task's port; behind one it waits in its own. No other byte and nothing else of the module differs. -/
def Obligations.AtomicsReadAndWriteInOneStep : Prop :=
  ∀ (s : State) (o : OpAt), s.Canonical → PortFree s → Unwatched s → s.acts o.lc Pred.always = true → atomicCause o s = none →
    let c := s.myCore
    let a := hLocal (hGet s.issue.hs o.h)
    (∀ k, lockOf c a = some k → (s.lockBit k).openTo s.me = true) →
    let n := 2 ^ o.size
    let x := s.rd o.s 64 % 2 ^ (8 * n)
    let xe := s.rd o.s 64 / 2 ^ 32 % 2 ^ (8 * n)
    let old := s.readLocal c a n
    let signed (v : Nat) : Int := if 2 ^ (8 * n) ≤ 2 * v then (v : Int) - 2 ^ (8 * n) else (v : Int)
    let gives (i : Instr) (new : Nat) : Prop := ∃ u t, exec i s = .next t ∧ Returns s u o.s 16 old ∧ Stores u t c a n new
    let kind (op : Nat) : AccKind := .atomic op o.size x xe o.ord o.ford (if o.ord = 4 then s.pkg.scLast.getD 0 else 0)
    let earlier : Prop := o.ord = 4 ∧ ∃ j, j ≠ s.me ∧ ∃ b ∈ (s.task j).port, ∃ op size v e ford m,
      b.kind = .atomic op size v e 4 ford m ∧ m < s.pkg.scLast.getD 0
    (earlier →
      (∀ p ∈ [(0, Instr.aadd o), (1, .amin o), (2, .amax o), (3, .aminu o), (4, .amaxu o), (5, .aand o), (6, .aor o), (7, .axor o), (8, .aswp o),
          (9, .acas o), (10, .ald o)], ∃ t, exec p.2 s = .next t ∧ OnlyTask s t s.me ∧ t.task s.me =
        { (s.task s.me).addRet (some (o.s, 16)) none none with port := [⟨kind p.1, a, some (s.task s.me).nextRet, []⟩] }) ∧
      ∃ t, exec (.ast o) s = .next t ∧ OnlyTask s t s.me ∧ t.task s.me = { s.task s.me with port := [⟨kind 11, a, none, []⟩] }) ∧
    (¬ earlier →
    gives (.aadd o) ((old + x) % 2 ^ (8 * n)) ∧
    gives (.amin o) (if signed x ≤ signed old then x else old) ∧
    gives (.amax o) (if signed old ≤ signed x then x else old) ∧
    gives (.aminu o) (min old x) ∧
    gives (.amaxu o) (max old x) ∧
    gives (.aand o) (old &&& x) ∧
    gives (.aor o) (old ||| x) ∧
    gives (.axor o) (old ^^^ x) ∧
    gives (.aswp o) x ∧
    (old = xe → gives (.acas o) x) ∧
    (old ≠ xe → ∃ t, exec (.acas o) s = .next t ∧ Returns s t o.s 16 old) ∧
    (∃ t, exec (.ald o) s = .next t ∧ Returns s t o.s 16 old) ∧
    ∃ t, exec (.ast o) s = .next t ∧ Stores s t c a n x)

/-- MPOST, MPROBE, MCANCEL and MTEST, when they act and pass their checks, answer the same state with one operation more on its
way to the matching unit, after the accesses that the port still holds: the descriptor's address with a snapshot of the handle,
the address, the receive ID, or the receive ID with the return that MTEST's two words land in. Nothing else differs. -/
def Obligations.MatchOperationsAreSent : Prop :=
  ∀ s : State, s.Canonical →
    let n := (s.task s.me).port.length
    let sends (t : State) (op : RxOp) : State := { t with rx := { t.rx with ops := t.rx.ops ++ [⟨s.me, n, op⟩] } }
    (∀ o : OpHS, s.acts o.lc Pred.always = true → mpostCause o s = none →
      exec (.mpost o) s = .next (sends s (.post (s.rd o.s 32) (hGet s.issue.hs o.h)))) ∧
    ∀ o : OpS, s.acts o.lc Pred.always = true →
      (descrCause (s.rd o.s 32) s = none → exec (.mprobe o) s = .next (sends s (.probe (s.rd o.s 32)))) ∧
      exec (.mcancel o) s = .next (sends s (.cancel (s.rd o.s 32))) ∧
      ∃ u, exec (.mtest o) s = .next (sends u (.test (s.rd o.s 32) (s.task s.me).nextRet)) ∧ OnlyTask s u s.me ∧
        u.task s.me = (s.task s.me).addRet (some (o.s, 8)) none none

/-- RSYN, when it acts, opens a return of 8 slices and a count that covers the requests of earlier bundles since the last RSYN;
where no earlier RSYN waits and every counted request has ended, the return is known at once: their number in [15:0] and the
number that ended not DONE in [31:16]. TINV in a supervisor task returns 1 and drops nothing for size code 3 or a nonzero [63:50];
else every tile cache, stream and the host aperture's cache drops every translation of the named page, and with TINV.all every
translation and the walkers' entries, but that a stream with lines of a peer's memory asked under one is marked, and uses it for
the beat begun; it returns 0, at once unless packets sent under a named translation have no response or such a beat is under way,
for which it waits. -/
def Obligations.RsynCountsAndTinvDrops : Prop :=
  ∀ s : State, s.Canonical →
    let k := s.task s.me
    (∀ o : OpS, s.acts o.lc Pred.always = true →
      ∃ t, exec (.rsyn o) s = .next t ∧ OnlyTask s t s.me ∧ (t.task s.me).rsynFrom = s.issue.reqNo ∧ (t.task s.me).rsynBad = 0 ∧
        (t.task s.me).pend = k.pend ||| pendMask o.s 8 ∧
        (k.rsyns = [] → k.owes s.issue.reqNo = true → (∀ r ∈ k.rets, r.id ≠ k.nextRet) →
          (t.task s.me).rets = k.rets ++ [⟨k.nextRet, some (o.s, 8), none, none, none, false, false⟩] ∧
          (t.task s.me).rsyns = [⟨s.issue.reqNo, s.issue.reqNo - k.rsynFrom, k.rsynBad, k.nextRet⟩]) ∧
        (k.rsyns = [] → k.owes s.issue.reqNo = false → (∀ r ∈ k.rets, r.id ≠ k.nextRet) → (t.task s.me).rets = k.rets ++
          [⟨k.nextRet, some (o.s, 8), none, none,
            some (BitVec.ofNat 256 ((s.issue.reqNo - k.rsynFrom) % 65536 + k.rsynBad % 65536 * 65536)), false, false⟩])) ∧
    ∀ (lc : LoopCond) (sl : Nat) (all : Bool), s.supervisor = true → s.acts lc Pred.always = true →
      let v := s.rd sl 64
      let code := v / 2 ^ 48 % 4
      let lg := if code = 0 then 16 else if code = 1 then 21 else 30
      let named (l : Leaf) : Prop := all = true ∨ l.lg = lg ∧ l.base = v % 2 ^ 48 / 2 ^ lg * 2 ^ lg
      (all = false → (code = 3 ∨ v / 2 ^ 50 ≠ 0) → ∃ t, exec (.tinv lc sl all) s = .next t ∧ Returns s t sl 16 1) ∧
      (all = true ∨ code ≠ 3 ∧ v / 2 ^ 50 = 0 → ∃ u t, exec (.tinv lc sl all) s = .next t ∧
        let sent (x : Nat × Peer) (p : Packet) : Prop := x ∈ s.fab.peers ∧ p ∈ x.2.out ∧ ∃ l, p.leaf = some l ∧ named l
        let begun (j : Nat) : Prop := ∃ l ∈ (s.cmd j).under, named l
        ((∀ x p, ¬ sent x p) → (∀ j, ¬ begun j) → Returns u t sl 16 0) ∧
        ((∃ x p, sent x p) ∨ (∃ j, begun j) → OnlyTask u t s.me ∧ ∃ w : List (Nat × Nat) × List Nat,
          t.task s.me = { k.addRet (some (sl, 16)) none none with tinvs := k.tinvs ++ [(k.nextRet, w)] } ∧
          (∀ m psn, (m, psn) ∈ w.1 ↔ ∃ x p, sent x p ∧ x.1 = m ∧ p.psn = psn) ∧ ∀ j, j ∈ w.2 ↔ begun j) ∧
        u = { s with tiles := u.tiles, cmds := u.cmds, dies := u.dies, pkg := { s.pkg with aptlb := u.pkg.aptlb } } ∧
        (∀ c, u.tile c = { s.tile c with tlb := (u.tile c).tlb } ∧ ∀ l, l ∈ (u.tile c).tlb ↔ l ∈ (s.tile c).tlb ∧ ¬ named l) ∧
        (∀ j, u.cmd j = { s.cmd j with xl := (u.cmd j).xl, stale := (u.cmd j).stale } ∧
          (∀ l, (u.cmd j).xl = some l ↔ (s.cmd j).xl = some l ∧ ¬ named l) ∧ ((u.cmd j).stale = true ↔ (s.cmd j).stale = true ∨ begun j)) ∧
        (∀ l, l ∈ u.pkg.aptlb ↔ l ∈ s.pkg.aptlb ∧ ¬ named l) ∧
        ∀ d, u.die d = if all = true then { s.die d with walker := [] } else s.die d)

/-- NOP changes nothing. BR and BRL, when they act, set the next address to the bundle's address plus 4 times the offset, modulo
2^16, JMP to its operand with bits [1:0] read as 0; BRL also lands the address of the bundle after it with latency 1. The levels
stay when every active level's body holds the target; otherwise the first whose body does not, and every level inside it, is
cleared. Nothing else differs. -/
def Obligations.BranchesSetTheNextAddress : Prop :=
  ∀ (s : State) (x : Ctl), s.Canonical → s.acts x.lc x.p = true →
    let k := s.task s.me
    let n := activeCount k.levels
    let inBody (i g : Nat) : Prop := (g + 65536 - (levelOf k.levels i).bs) % 65536 ≤ ((levelOf k.levels i).be + 65536 - (levelOf k.levels i).bs) % 65536
    let goes (i : Instr) (g : Nat) (f : List Flight) : Prop :=
      ∃ t, exec i s = .next t ∧ t = { s with tasks := t.tasks, issue := { s.issue with taken := some g } } ∧
        (∀ j, j ≠ s.me → t.task j = s.task j) ∧
        t.task s.me = { k with flight := k.flight ++ f, levels := (t.task s.me).levels } ∧
        ((∀ i, i < n → inBody i g) → (t.task s.me).levels = k.levels) ∧
        ∀ m, m < n → (∀ i, i < m → inBody i g) → ¬ inBody m g →
          (t.task s.me).levels = (List.range (n - m)).foldl (fun l i => Sparse.set {} l (m + i) {}) k.levels
    exec (.nop x) s = .next s ∧
    (∀ off : Int, let g := (((s.issue.addr : Int) + 4 * off) % 2 ^ 16).toNat / 4 * 4
      goes (.br x off) g [] ∧
      ∀ link, goes (.brl x link off) g [⟨0, .range link 4, BitVec.ofNat 512 s.issue.next⟩]) ∧
    ∀ sl, goes (.jmp x sl) (s.rd sl 16 / 4 * 4) []

/-- LOOP and LOOPI, when they act with fewer than six levels active in a bundle that ends no active level, activate the next level
with the bundle after as its start, the end they name, the count and iteration 0; a count of 0 activates none and makes the end
bundle issue next with no slot acting. LIND binds an induction range to a level. LBRK leaves one pass to an active level, and has
no effect on an inactive one. Nothing else differs. -/
def Obligations.LoopsEnterAndBind : Prop :=
  ∀ (s : State) (x : Ctl), s.Canonical → s.acts x.lc x.p = true →
    let k := s.task s.me
    let n := activeCount k.levels
    let free := activeCount s.issue.levels ≠ 6 ∧ ∀ i, i < activeCount s.issue.levels → (levelOf s.issue.levels i).be ≠ s.issue.addr
    let enters (i : Instr) (count fin : Nat) : Prop :=
      let v : Level := { levelOf k.levels n with bs := s.issue.next, be := (s.issue.addr + 4 * fin) % 65536, remaining := count, iter := 0 }
      (count ≠ 0 → ∃ t, exec i s = .next t ∧ OnlyTask s t s.me ∧ t.task s.me = { k with levels := Sparse.set {} k.levels n v }) ∧
      (count = 0 → ∃ u t, exec i s = .next t ∧ OnlyTask s u s.me ∧ u.task s.me = { k with levels := Sparse.set {} k.levels n {} } ∧
        t = { u with issue := { s.issue with zeroLoop := some ((s.issue.addr + 4 * fin) % 65536) } })
    (∀ sl fin, free → enters (.loop x sl fin) (s.rd sl 24) fin) ∧
    (∀ count fin, free → enters (.loopi x count fin) count fin) ∧
    (∀ (i lvl w : Nat) (stride : Int), ∃ t, exec (.lind x i lvl w stride) s = .next t ∧ OnlyTask s t s.me ∧
      let v : Level := { levelOf k.levels lvl with ind := some ⟨i, w, BitVec.ofInt 16 stride⟩ }
      t.task s.me = { k with levels := Sparse.set {} k.levels lvl v }) ∧
    ∀ lvl, ((levelOf k.levels lvl).remaining = 0 → exec (.lbrk x lvl) s = .next s) ∧
      ((levelOf k.levels lvl).remaining ≠ 0 → ∃ t, exec (.lbrk x lvl) s = .next t ∧ OnlyTask s t s.me ∧
        t.task s.me = { k with levels := Sparse.set {} k.levels lvl { levelOf k.levels lvl with remaining := 1 } })

/-- When the only active level of a task ends at a bundle that takes no branch, then with more than one pass left the next address
is the level's start, one pass fewer is left and the iteration is one more; with one pass left the level is cleared and the next
address is the bundle after. An induction binding lands its operand plus the stride, modulo its width, as a result of latency 1.
Where several levels end at one bundle, those on their last pass are left from the innermost outward, each with its induction
step, until one with passes left goes back, or one that ends elsewhere, or none, leads to the bundle after. A bundle that ends no
active level goes to the bundle after it and leaves every level as it is. -/
def Obligations.LoopsRunTheirCount : Prop :=
  ∀ (t : Task) (i : Issue), i.ended = false → i.taken = none → i.zeroLoop = none →
    let v := levelOf t.levels 0
    let u := t.afterBundle i
    let step (b : Bind) : Flight := ⟨0, .range b.start (wBits b.wcode / 4),
      BitVec.ofNat 512 (((sfRead i.sf b.start (wBits b.wcode) : Int) + b.stride.toInt) % 2 ^ wBits b.wcode).toNat⟩
    (activeCount t.levels = 1 → v.be = i.addr → Sparse.wf {} t.levels = true → v.remaining ≠ 0 →
      u.flight = t.flight ++ (match v.ind with | some b => [step b] | none => []) ∧
      (1 < v.remaining → u.pc = v.bs ∧ u.levels = Sparse.set {} t.levels 0 { v with remaining := v.remaining - 1, iter := v.iter + 1 }) ∧
      (v.remaining = 1 → u.pc = i.next ∧ u.levels = Sparse.set {} t.levels 0 {})) ∧
    ((activeCount t.levels = 0 ∨ (levelOf t.levels (activeCount t.levels - 1)).be ≠ i.addr) →
      u.pc = i.next ∧ u.levels = t.levels ∧ u.flight = t.flight) ∧
    ∀ j : Nat, let n := activeCount t.levels
      j ≤ n → Sparse.wf {} t.levels = true → (∀ k, k < n → (levelOf t.levels k).remaining ≠ 0) →
      (∀ k, j ≤ k → k < n → (levelOf t.levels k).be = i.addr ∧ (levelOf t.levels k).remaining = 1) →
      let steps (k : Nat) : List Flight := match (levelOf t.levels k).ind with | some b => [step b] | none => []
      let left := (List.range (n - j)).foldl (fun l k => Sparse.set {} l (n - 1 - k) {}) t.levels
      let made := (List.range (n - j)).flatMap fun k => steps (n - 1 - k)
      ((j = 0 ∨ (levelOf t.levels (j - 1)).be ≠ i.addr) → u.pc = i.next ∧ u.levels = left ∧ u.flight = t.flight ++ made) ∧
      (1 ≤ j → (levelOf t.levels (j - 1)).be = i.addr → 1 < (levelOf t.levels (j - 1)).remaining →
        let o := levelOf t.levels (j - 1)
        u.pc = o.bs ∧ u.levels = Sparse.set {} left (j - 1) { o with remaining := o.remaining - 1, iter := o.iter + 1 } ∧
          u.flight = t.flight ++ made ++ steps (j - 1))

/-- END, when it acts, clears every loop level; with a word waiting on the task's channel or its latch set the task stays RUNNABLE
and the latch clears, else it parks with the END kind. WAITC of a counter at zero changes nothing, and of another parks the task
on it. (That END tests the FIFO and latch, and WAITC the counter, as the bundle's earlier slots have left them is the model's
choice: log entries 47 and 49.) When the bundle finishes, END has set the program counter to the entry address, and the results in
flight of a task that is parked then, by END, WAITC or WAITF, are captured in its replay buffer. YIELD makes the context the one
last issued at its priority. PRIO sets the priority. FENCE with an empty port changes nothing when no request is owed, and else
holds the port until the requests so far are answered. -/
def Obligations.TasksParkAndYield : Prop :=
  ∀ (s : State) (x : Ctl), s.Canonical → s.acts x.lc x.p = true →
    let k := s.task s.me
    let waits : Prop := ∃ n, k.vc = some n ∧ (s.tile s.myCore).vc n ≠ []
    (∃ u, exec (.endTask x) s = .next { u with issue := { s.issue with ended := true } } ∧ OnlyTask s u s.me ∧
      (waits ∨ k.latch = true → u.task s.me = { k with levels := [], latch := false }) ∧
      (¬ waits → k.latch = false → u.task s.me = { k with levels := [], st := .parked, kind := .endK }) ∧
      (k.asyncs = [] →
        let f := State.finish { u with issue := { s.issue with ended := true } }
        let next (j : Task) : Task := { j with levels := [], pc := k.entry, noAct := false, skip := false, tcycle := k.tcycle + 1 }
        (waits ∨ k.latch = true → k.st = .runnable → f.task s.me = next { k with latch := false }) ∧
        (¬ waits → k.latch = false → f.task s.me = (next { k with st := .parked, kind := .endK }).capture ∧ (f.task s.me).flight = []))) ∧
    (∃ t, exec (.yield x) s = .next t ∧ OnlyTile s t s.myCore ∧
      t.tile s.myCore = { s.tile s.myCore with last := Sparse.set 7 (s.tile s.myCore).last k.prio (s.me % 8) }) ∧
    (∀ dc, (((s.tile s.myCore).counter dc).val = 0 → exec (.waitc x dc) s = .next s) ∧
      (((s.tile s.myCore).counter dc).val ≠ 0 → ∃ t, exec (.waitc x dc) s = .next t ∧ OnlyTask s t s.me ∧
        t.task s.me = { k with st := .parked, kind := .waitc, waitDc := dc } ∧
        (k.asyncs = [] → t.finish.task s.me =
          (Task.afterBundle { k with st := .parked, kind := .waitc, waitDc := dc } s.issue).capture ∧ (t.finish.task s.me).flight = []))) ∧
    (∀ v : State, v.Canonical → (v.task v.me).asyncs = [] →
      let w := (v.task v.me).afterBundle v.issue
      OnlyTask { v with issue := { v.issue with active := false } } v.finish v.me ∧
      v.finish.task v.me = if w.st = .runnable then w else w.capture) ∧
    (∀ p, ∃ t, exec (.prio x p) s = .next t ∧ OnlyTask s t s.me ∧ t.task s.me = { k with prio := p }) ∧
    ∀ kind scope, PortFree s → Unwatched s →
      (k.owes k.reqNo = false → exec (.fence x kind scope) s = .next s) ∧
      (k.owes k.reqNo = true → ∃ t, exec (.fence x kind scope) s = .next t ∧ OnlyTask s t s.me ∧
        t.task s.me = { k with port := [⟨.hold k.reqNo kind scope, 0, none, []⟩] })

/-- When the oldest access of the task's port waits for a lock bit or for responses, LD, ST and FENCE, when they act and pass
their checks, add their access at the end of the port, LD with its return outstanding, and change nothing else: no byte of memory,
no earlier access and no other task. The instance of a scope around a task port: at task scope itself and its queue commands'
ports; at tile scope the ports homed in its tile; at field scope the tasks and the configuration reader of its field; at die scope
its die's tasks, not the host; at module scope the host too, no remote peer; at group scope the peers of the group. A port of
requests to the module itself is homed at their source task. Whether a release and an acquire meet does not depend on which of the
two is named first. -/
def Obligations.AccessesKeepTheirOrder : Prop :=
  (∀ (s : State) (b : Access) (l : List Access), s.Canonical →
    let k := s.task s.me
    k.port = b :: l → (k.waitLock.isSome = true ∨ k.held b = true) →
    (∀ o : OpI, s.acts o.lc o.p = true →
      let a := (((s.rd o.a 32 : Int) + o.imm) % 2 ^ 32).toNat
      let n := wBits o.w / 8
      s.chk s.myCore a n = none →
      (∃ t, exec (.ld o) s = .next t ∧ OnlyTask s t s.me ∧ t.task s.me =
        { k.addRet (some (o.d, wBits o.w / 4)) none none with port := b :: l ++ [⟨.ld n, a, some k.nextRet, []⟩] }) ∧
      ∃ t, exec (.st o) s = .next t ∧ OnlyTask s t s.me ∧
        t.task s.me = { k with port := b :: l ++ [⟨.st n (s.rd o.d (wBits o.w)), a, none, []⟩] }) ∧
    ∀ (x : Ctl) (kind scope : Nat), s.acts x.lc x.p = true →
      ∃ t, exec (.fence x kind scope) s = .next t ∧ OnlyTask s t s.me ∧
        t.task s.me = { k with port := b :: l ++ [⟨.hold k.reqNo kind scope, 0, none, []⟩] }) ∧
  ∀ (s : State) (t u cm k : Nat),
    let me : PortId := .task t
    s.inst me 0 (.task u) = decide (t = u) ∧ s.inst me 0 (.stream cm) = decide (taskOfCmd cm = t) ∧ s.inst me 0 (.bin k) = false ∧
    s.inst me 1 (.task u) = decide (coreOf t = coreOf u) ∧ s.inst me 1 (.stream cm) = decide (coreOf t = coreOf (taskOfCmd cm)) ∧
    s.inst me 1 (.bin k) = decide (coreOf t = coreOfCell k) ∧
    (∀ f, s.fieldOf (coreOf t) = some f → s.inst me 2 (.task u) = decide (s.fieldOf (coreOf u) = some f) ∧
      ∀ g, s.inst me 2 (.config g) = decide (f = g)) ∧
    s.inst me 3 (.task u) = decide (dieOf (coreOf t) = dieOf (coreOf u)) ∧ s.inst me 3 .host = false ∧
    s.inst me 4 (.task u) = true ∧ s.inst me 4 .host = true ∧
    (∀ m w a, m ≠ s.fab.modid → s.inst me 4 (.remote m w a) = false ∧
      s.inst me 5 (.remote m w a) = (s.fab.applied && s.fab.ports.contains m)) ∧
    (∀ w a, s.inst me 1 (.remote s.fab.modid w a) = decide (coreOf t = coreOf w) ∧
      s.inst me 3 (.remote s.fab.modid w a) = decide (dieOf (coreOf t) = dieOf (coreOf w)) ∧ s.inst me 4 (.remote s.fab.modid w a) = true ∧
      ∀ f, s.fieldOf (coreOf t) = some f → s.inst me 2 (.remote s.fab.modid w a) = decide (s.fieldOf (coreOf w) = some f)) ∧
    ∀ a x b y, s.synchronises a x b y = s.synchronises b y a x

/-- TRAP, when it acts, and BKPT, when it acts and no ERET has skipped it, put the task HELD remembering RUNNABLE, its results in
flight captured in the replay buffer, to resume after its bundle (TRAP) or at it (BKPT); a record with the cause, the bundle's
address and off[15:0] joins those toward the die's ring, or for a management task its core and FWSTATE halt. No byte of memory,
tile, command, lock bit or field changes. A skipped BKPT has no effect. -/
def Obligations.TrapsHoldTheTask : Prop :=
  ∀ (s : State) (x : Ctl) (code : Nat), s.Canonical → s.acts x.lc x.p = true →
    let c := s.myCore
    let k := s.task s.me
    let d := s.die (c / 256)
    let rec_ (cause : Cause) : FRec := ⟨1, cause, c / 256, s.fieldNum c, s.verOf c, c % 256, s.me % 8, s.issue.addr, 255, 255, code, 0, 0, s.cycle⟩
    let held (t : State) (cause : Cause) (pc : Nat) : Prop :=
      (∀ j, j ≠ s.me → t.task j = s.task j) ∧ (∀ j, j ≠ c / 256 → t.die j = s.die j) ∧
      t.task s.me = { k.capture with st := .held, rem := .runnable, kind := .none, pc := pc, atBkpt := decide (cause = .bkpt) } ∧
      (isMgmt c = false → t = { s with tasks := t.tasks, dies := t.dies, fresh := t.fresh } ∧
        t.die (c / 256) = { d with recs := d.recs ++ [rec_ cause] }) ∧
      (isMgmt c = true → t = { s with tasks := t.tasks, dies := t.dies, pkg := { s.pkg with fwstate := 2 } } ∧
        t.die (c / 256) = { d with halted := true })
    (∃ t, exec (.trap x code) s = .next t ∧ held t .trap s.issue.next) ∧
    (s.issue.skip = false → ∃ t, exec (.bkpt x code) s = .next t ∧ held t .bkpt s.issue.addr) ∧
    (s.issue.skip = true → exec (.bkpt x code) s = .next s)

/-- For a task with an empty replay buffer and one result in flight, to a range of at most 16 slices or to a gate, of remaining
count at most 7: capturing it and letting k further bundles issue, then landing what is due, leaves the slice file that landing it
without the capture leaves. -/
def Obligations.CapturedResultsLandAfterResuming : Prop :=
  ∀ (t : Task) (rc k : Nat) (d : Dst) (v : BitVec 512), t.replay = [] → t.flight = [⟨rc, d, v⟩] → rc ≤ 7 → k ≤ rc →
    ((∃ a n, d = .range a n ∧ 1 ≤ n ∧ n ≤ 16 ∧ a + n ≤ 128) ∨ ∃ g, d = .gate g ∧ g < 16) →
    1 ≤ rc →
    (Nat.repeat Task.countDown k t.capture).landDue.sf = (Nat.repeat Task.countDown k t).landDue.sf ∧
    t.capture.flight = [] ∧ (k = rc → (Nat.repeat Task.countDown k t.capture).landDue.replay = [])

/-- For every slot operation: when it raises a precise cause, executing it answers the state in which that fault has been taken;
when it raises none and its predicate or loop condition does not hold, it changes nothing (SEL has no predicate: its gate
selects). A supervisor-only form in an unprivileged task raises PRIV whatever its predicate. -/
def Obligations.CausesAndIdleSlots : Prop :=
  ∀ (i : Instr) (s : State), i.isSlot = true →
    (∀ c, slotCause i s = some c → exec i s = .next (s.precise c.1 c.2)) ∧
    (slotCause i s = none → s.acts (slotLoop i) (slotPred i) = false → (∀ o, i ≠ .sel o) → exec i s = .next s) ∧
    (∀ o, i = .sel o → s.acts o.lc Pred.always = false → exec i s = .next s) ∧
    (isSupervisor i = true → s.supervisor = false → ∃ info, exec i s = .next (s.precise .priv info))

/-- When a core's turn takes a context whose next bundle is legal and raises a precise cause, the step is the state in which what
was due has landed and that one fault has been taken, whatever the bundle's slots are, and the core's cycle counted: no slot of
the bundle changes memory, a FIFO, a gate or any other state. The cause is one of the slots': PRIV, which decoding finds, where a
slot raises it; else of several causes the chosen one ranks first in the order of R52, the earliest slot among equals. -/
def Obligations.FaultingBundlesHaveNoEffect : Prop :=
  (∀ (s : State) (c x : Nat) (l : List Turn) (b : List Instr) (cause : Cause × Nat),
    s.agenda = .core c :: l → coreExists c = true →
    let a : State := { s with agenda := l }
    let e := a.boundaries c
    a.coreRuns c = true → e.pick c (e.standing c .yes) = some x →
    let f := (e.marks c (e.standing c .queue)).taking c x
    ((f.modTask (taskAt c x) Task.landDue).bundleAt (taskAt c x)).1 = .good b →
    let g := f.issueState (taskAt c x)
    g.bundleCause b = some cause → step s = .next ((g.precise cause.1 cause.2).countCycle c)) ∧
  (∀ (s : State) (b : List Instr) (c : Cause × Nat), s.bundleCause b = some c →
    some c ∈ slotCauses s 0 0 b ∧ ((∃ n, some (Cause.priv, n) ∈ slotCauses s 0 0 b) → c.1 = .priv) ∧
    ((∀ n, some (Cause.priv, n) ∉ slotCauses s 0 0 b) → firstCause (slotCauses s 0 0 b) = some c)) ∧
  ∀ (l : List (Option (Cause × Nat))) (c : Cause × Nat), firstCause l = some c →
    some c ∈ l ∧ (∀ d : Cause × Nat, some d ∈ l → causeRank c.1 ≤ causeRank d.1) ∧
    ∃ n, l[n]? = some (some c) ∧ ∀ (m : Nat) (d : Cause × Nat), m < n → l[m]? = some (some d) → causeRank c.1 < causeRank d.1

/-- MFS of a task register or a health counter returns its value in 32 bits and changes nothing else, but that a read of CYCLE
latches the core's high cycle half into CYCLEH, as CYCLE_READ alone does. In a supervisor task MFS returns PICKFLOOR and the plain
management registers of the task's die. MTS writes VOUTDST of the task (a destination tile of at most 143) and, in a supervisor
task, PICKFLOOR and the plain management registers, keeping each register's writable bits, and changes nothing else; a write of a
management register waits while an earlier access or request of the task has not performed. -/
def Obligations.SystemRegistersReadAndWrite : Prop :=
  ∀ (s : State) (x : Ctl), s.Canonical → s.acts x.lc x.p = true →
    let k := s.task s.me
    let c := s.myCore
    let tile := s.tile c
    let cyc := tile.corecycle
    let plain := [0x108, 0x109, 0x10B, 0x112, 0x113, 0x114, 0x120, 0x150, 0x151, 0x152, 0x154, 0x160]
    let kept (r v : Nat) : Nat :=
      if r = 0x109 then v / 2 ^ 31 % 2 * 2 ^ 31 + v / 2 ^ 12 % 16 * 2 ^ 12 + v % 32
      else if r = 0x113 ∨ r = 0x151 then v % 2 ^ 16
      else if r = 0x152 then v / 2 ^ 31 % 2 * 2 ^ 31 + v / 2 ^ 16 % 32 * 2 ^ 16 + v % 256
      else if r = 0x160 then v % 256 else v
    (∀ d, let gives (r v : Nat) : Prop := ∃ t, exec (.mfs x d r) s = .next t ∧ Returns s t d 8 v
      gives 0 ((match s.issue.vc with | some v => 2 ^ 26 + v * 8 | none => 0) + c / 256 * 2 ^ 24 + s.fieldNum c * 2 ^ 16 + c % 256 * 2 ^ 8 + s.me % 8) ∧
      gives 1 ((if c % 256 = 255 then 0 else tile.ver) % 2 ^ 16) ∧ gives 2 (k.tcycle % 2 ^ 32) ∧
      (∃ u t, exec (.mfs x d 3) s = .next t ∧ OnlyTask s u s.me ∧ u.task s.me = { k with cycleh := BitVec.ofNat 32 (cyc / 2 ^ 32) } ∧
        Returns u t d 8 (cyc % 2 ^ 32)) ∧
      gives 4 k.cycleh.toNat ∧ gives 5 k.voutdst.toNat ∧
      gives 0x40 k.qstall.toNat ∧ gives 0x41 k.qdone.toNat ∧
      gives 0x48 tile.tbeats.toNat ∧ gives 0x49 tile.txmiss.toNat ∧ gives 0x4A tile.tgapn.toNat ∧ gives 0x4B tile.tgapx.toNat ∧
      gives 0x4C (tile.tlockw / 12 % 2 ^ 32) ∧
      (∀ f, s.fieldOf c = some f → gives 0x50 (s.field f).disc.toNat ∧ gives 0x51 (s.field f).step) ∧
      gives 0x58 s.pkg.mrefuse.toNat ∧ gives 0x59 s.pkg.mmatch.toNat ∧ gives 0x5A s.rx.cistern.length ∧ gives 0x5B s.rx.hold.length ∧
      gives 0x5C (s.fab.peers.map fun p => p.2.relay.length).sum ∧ gives 0x5F s.fab.txLive ∧
      gives 0x5D s.pkg.mresend.toNat ∧ gives 0x5E s.pkg.mfref.toNat ∧
      (s.supervisor = true → gives 0x10 tile.pickfloor.toNat ∧
        ∀ r ∈ plain, gives r (Sparse.get 0 (s.die (c / 256)).regs r).toNat)) ∧
    (∃ t, exec (.cycleRead s.me) s = .next t ∧ OnlyTask s t s.me ∧ t.task s.me = { k with cycleh := BitVec.ofNat 32 (cyc / 2 ^ 32) }) ∧
    ∀ sl, let v := s.rd sl 32
      let dst : Word32 := BitVec.ofNat 32 (v / 2 ^ 29 % 8 * 2 ^ 29 + v / 2 ^ 16 % 4 * 2 ^ 16 + v / 2 ^ 8 % 256 * 2 ^ 8 + v % 32)
      let floor : Word32 := BitVec.ofNat 32 (v / 2 ^ 16 % 64 * 2 ^ 16 + v / 2 ^ 8 % 64 * 2 ^ 8 + v % 64)
      (v / 2 ^ 8 % 256 ≤ 143 → ∃ t, exec (.mts x 5 sl) s = .next t ∧ OnlyTask s t s.me ∧ t.task s.me = { k with voutdst := dst }) ∧
      (s.supervisor = true →
        (∃ t, exec (.mts x 0x10 sl) s = .next t ∧ OnlyTile s t c ∧ t.tile c = { tile with pickfloor := floor }) ∧
        (∀ r ∈ plain, k.accessOwed = true ∨ k.mts ≠ [] → ∃ t, exec (.mts x r sl) s = .next t ∧ OnlyTask s t s.me ∧
          t.task s.me = { k with mts := k.mts ++ [(r, v)] }) ∧
        ∀ r ∈ plain, k.accessOwed = false → k.mts = [] → ∃ t, exec (.mts x r sl) s = .next t ∧ t = { s with dies := t.dies } ∧
          (∀ j, j ≠ c / 256 → t.die j = s.die j) ∧ t.die (c / 256) = { s.die (c / 256) with regs := Sparse.set 0 (s.die (c / 256)).regs r (BitVec.ofNat 32 (kept r v)) })

/-- In a supervisor task, with a selector that passes its check: ERET of a HELD task with no record waiting and no bad replay
entry gives it its remembered state, at its resume address with its replay buffer, and skips a BKPT once if asked; ERET of a task
that is not HELD changes nothing. HOLD of a RUNNABLE or PARKED task, with no WAITF of its bundle unresolved, makes it HELD
remembering that state with its results captured, and sends a record with cause 0; of another it changes nothing. IPAGE clears the
page's loaded bit, drops its lines from the core's fetch buffers and begins its copy; when the copy ends, 4 KiB of the granary, as
they then stand (the model's choice, log entry 68), stand in the page and its loaded bit is set, and no other byte or tile
changes. While a copy of the same task at that core has not ended, each of the three waits behind it. -/
def Obligations.SupervisorResumesHoldsAndLoads : Prop :=
  (∀ (s : State) (x : Ctl) (sl : Nat), s.Canonical → s.supervisor = true → s.acts x.lc x.p = true →
    let die := s.myCore / 256
    let v := s.rd sl 32
    let core := die * 256 + v % 256
    let k := core * 8 + v / 2 ^ 8 % 8
    let u := s.task k
    (v / 2 ^ 11 = 0 → v % 256 ≤ 143 → (∀ b ∈ (s.tile core).sup, b.1 ≠ s.me) →
      (∀ skip, (u.st ≠ .held → exec (.eret x sl skip) s = .next s) ∧
        (u.st = .held → s.recWaits k = false → (∀ e ∈ u.entries, e.2.bad = false) →
          ∃ t, exec (.eret x sl skip) s = .next t ∧ OnlyTask s t k ∧
            t.task k = { u with st := u.rem, rem := .free, skip := skip && u.atBkpt, atBkpt := false })) ∧
      (u.st ≠ .runnable → u.st ≠ .parked → exec (.hold x sl) s = .next s) ∧
      (u.st = .runnable ∧ u.waitfInPort = false ∨ u.st = .parked → ∃ t, exec (.hold x sl) s = .next t ∧
        t = { s with tasks := t.tasks, dies := t.dies, fresh := t.fresh } ∧ (∀ j, j ≠ k → t.task j = s.task j) ∧
        t.task k = { u.capture with st := .held, rem := u.st, atBkpt := false } ∧
        (∀ j, j ≠ die → t.die j = s.die j) ∧
        let r : FRec := ⟨1, .none, die, s.fieldNum core, s.verOf core, v % 256, v / 2 ^ 8 % 8, u.pc, 255, 255, 0, 0, 0, s.cycle⟩
        t.die die = { s.die die with recs := (s.die die).recs ++ [r] })) ∧
    (ipageCause sl s = none →
      let w := s.rd sl 64
      let a := w % 2 ^ 32
      let tc := die * 256 + w / 2 ^ 32 % 256
      let page := w / 2 ^ 40 % 16
      ((∃ b ∈ (s.tile tc).sup, b.1 = s.me) → ∃ t, exec (.ipage x sl) s = .next t ∧ OnlyTile s t tc ∧
        t.tile tc = { s.tile tc with sup := (s.tile tc).sup ++ [(s.me, .copy page a)] }) ∧
      ((∀ b ∈ (s.tile tc).sup, b.1 ≠ s.me) → ∃ t, exec (.ipage x sl) s = .next t ∧ t = { s with tasks := t.tasks, tiles := t.tiles } ∧
        (∀ j, j ≠ tc → t.tile j = s.tile j) ∧ t.tile tc = { s.tile tc with
          pages := (s.tile tc).pages &&& ~~~(1#16 <<< page), sup := (s.tile tc).sup ++ [(s.me, .copy page a)] } ∧
        (∀ j, j / 8 ≠ tc → t.task j = s.task j) ∧
        ∀ j, j / 8 = tc → t.task j = { s.task j with lines := (s.task j).lines.filter fun n => decide (n / 4096 % 16 ≠ page) }))) ∧
    ∀ (s : State) (tc tk page a : Nat) (l : List Turn), s.Canonical → s.agenda = .copied tc tk :: l → (s.tile tc).sup = [(tk, .copy page a)] →
      ∃ t, step s = .next t ∧ t = { s with agenda := l, mem := t.mem, tiles := t.tiles } ∧
        (∀ i, i < 4096 → t.mem.byte (place (.istore tc) (page * 4096 + i)) = s.mem.byte (place (.granary (tc / 256)) (a - 0x10000000 + i))) ∧
        SameOutside s t (.istore tc) (page * 4096) 4096 ∧ (∀ j, j ≠ tc → t.tile j = s.tile j) ∧
        t.tile tc = { s.tile tc with pages := (s.tile tc).pages ||| (1#16 <<< page), sup := [] }

/-- FIXED_LATENCY_LANDING writes every due result of a RUNNABLE task in issue order, replay entries first, and also a result that
is not yet due where the task's next bundle waits for a known return that must land on top of it (R72; the early landing is the
model's reading, log entry 36). REPLAY_ENTRY_LANDING writes a due valid entry and frees it. LANDING_BUFFER_WRITE of a return whose
value is known, and beneath which no earlier result is to land, writes its whole value to its slices or handle, clears its pending
bits and ends it. Nothing else of the task or the module changes. -/
def Obligations.LandingsReachTheSliceFile : Prop :=
  ∀ (s : State) (n : Nat), s.Canonical →
    let k := s.task n
    (k.st = .runnable →
      (∃ t, exec (.fixedLatencyLanding n) s = .next t ∧ OnlyTask s t n ∧ (k.replay = [] → (∀ r ∈ k.rets, r.val = none) → t.task n = { k with
        sf := (k.flight.filter fun f => decide (f.rc = 0)).foldl (fun sf f => f.dst.write sf f.val) k.sf
        flight := k.flight.filter fun f => decide (f.rc ≠ 0) })) ∧
      (∀ (f : Flight) (r : Ret) (l : List Instr), k.replay = [] → k.flight = [f] → f.rc ≠ 0 → f.rc < 8 → k.rets = [r] → r.val ≠ none →
        k.retFree r = false → (s.bundleAt n).1 = .good l → l.any { k with pend := r.mask, hpend := r.hmask }.touchesPending = true →
        ∃ t, exec (.fixedLatencyLanding n) s = .next t ∧ OnlyTask s t n ∧ t.task n = { k with sf := f.dst.write k.sf f.val, flight := [] }) ∧
      (∀ e : BitVec 96, ∀ p, k.replay = [(p, e)] → (rEntry e).v = true → (rEntry e).rc = 0 → (rEntry e).seq < 16 →
        ∃ t, exec (.replayEntryLanding n) s = .next t ∧ OnlyTask s t n ∧
          t.task n = { k with sf := (rEntry e).dst.write k.sf ((rEntry e).val k.shadow), replay := [] })) ∧
    ∀ (r : Ret) (v : Handle), k.rsyns = [] → k.tinvs = [] → (∀ f, s.fieldOf (n / 8) = some f → (s.field f).closing = none) → k.rets.find? (fun x => decide (x.id = r.id)) = some r → r.val = some v → k.retFree r = true →
      (∀ a m, r.rng = some (a, m) → r.gate = none → r.hdl = none → r.gateOnly = false →
        ∃ t, exec (.landingBufferWrite n r.id) s = .next t ∧ OnlyTask s t n ∧ t.task n = { k with
          sf := sfWrite k.sf a m v.toNat, pend := k.pend &&& ~~~ pendMask a m, rets := k.rets.filter fun x => decide (x.id ≠ r.id) }) ∧
      ∀ h, r.rng = none → r.gate = none → r.hdl = some h →
        ∃ t, exec (.landingBufferWrite n r.id) s = .next t ∧ OnlyTask s t n ∧ t.task n = { k with
          hs := Sparse.set 0 k.hs h v, hpend := k.hpend &&& ~~~ (1#16 <<< h), rets := k.rets.filter fun x => decide (x.id ≠ r.id) }

/-- For a task of a running core that the core's picker takes now, no asynchronous fault of it being due, ILLEGAL_BUNDLE (with
IFETCH_MISS for a page not loaded) is that cycle of the core: it holds the task at its own bundle with the decode cause, sends
that one record, makes the context the one last issued at its priority (the model's choice, log entry 35), counts the cycle and
the stalls of contexts that wait for a queue entry, and changes no memory and nothing else of another task. ASYNC_TASK_FAULT holds
a RUNNABLE task at its next bundle and writes the record of every fault that is due, in order. TASK_MARKED_DEAD makes a HELD task
FAULTED and changes nothing else. -/
def Obligations.FaultsOfTasksAreTaken : Prop :=
  ∀ (s : State) (n : Nat), s.Canonical →
    let k := s.task n
    let c := n / 8
    let die := c / 256
    isMgmt c = false →
    let record (cause : Cause) (info : Nat) : FRec :=
      ⟨1, cause, die, s.fieldNum c, s.verOf c, c % 256, n % 8, k.pc, 255, 255, info, 0, 0, s.cycle⟩
    (∀ (cause : Cause) (info : Nat), s.mayTake n = true → s.fetchCause n = some (cause, info) →
      let i : Instr := if cause = .ifetchMiss then .ifetchMiss n else .illegalBundle n
      ∃ t, exec i s = .next t ∧ t.mem = s.mem ∧ t.cmds = s.cmds ∧ t.fields = s.fields ∧
        (∀ j, j ≠ c → t.tile j = s.tile j) ∧ t.tile c = { s.tile c with
          last := Sparse.set 7 (s.tile c).last k.prio (n % 8), corecycle := (s.tile c).corecycle + 1 } ∧
        (∀ j, j / 8 ≠ c → t.task j = s.task j) ∧
        (∀ j, j / 8 = c → j ≠ n → t.task j = { s.task j with
          fetch := false, qstall := if s.ready j = .queue then (s.task j).qstall + 1 else (s.task j).qstall }) ∧
        t.task n = { k.landDue.capture with st := .held, rem := .runnable, kind := .none, pc := k.pc, atBkpt := decide (cause = .bkpt) } ∧
        t.die die = { s.die die with recs := (s.die die).recs ++ [record cause info] }) ∧
    (k.st = .runnable → s.coreRuns c = true → k.asyncs ≠ [] → k.waitfInPort = false →
      ∃ t, exec (.asyncTaskFault n) s = .next t ∧ t = { s with tasks := t.tasks, dies := t.dies, fresh := t.fresh } ∧
        (∀ j, j ≠ n → t.task j = s.task j) ∧
        t.task n = { k.capture with st := .held, rem := .runnable, asyncs := [], atBkpt := false } ∧
        (∀ j, j ≠ die → t.die j = s.die j) ∧
        t.die die = { s.die die with recs := (s.die die).recs ++ k.asyncs.map fun x => record x.1 x.2.1 }) ∧
    (k.st = .held → ∃ t, exec (.taskMarkedDead n) s = .next t ∧ OnlyTask s t n ∧ t.task n = { k with st := .faulted })

/-- VC_WORD_ARRIVAL of a word whose released accesses have performed, with no earlier word of its sender to that channel, takes it
out of the mesh and puts it at the end of the channel, if a field or a management core is there and fewer than 8 words wait, and
wakes a bound task parked with END; a tile without a field discards it; a word whose released accesses have not performed stays.
LOCK_BIT_GRANT of a free bit to a task whose LDL waits gives it the bit and performs the load. LOCK_HELD_TIMEOUT frees a bit that
a task has held for 4,096 LIVE cycles of its field's clock (State counts twelfths of them) and makes LOCK_HELD due there;
CELL_LOCK_HELD_TIMEOUT frees a cell's bit and freezes its field, once the returns outstanding in it have been written. -/
def Obligations.WordsArriveAndLockBitsMove : Prop :=
  ∀ s : State, s.Canonical →
    (∀ (i : Nat) (m : MeshWord), s.mesh[i]? = some m → 0 < m.behind → exec (.vcWordArrival i) s = .next s) ∧
    (∀ (i : Nat) (m : MeshWord), s.mesh[i]? = some m → m.behind = 0 →
      (∀ j x, j < i → s.mesh[j]? = some x → ¬ (x.src = m.src ∧ x.core = m.core ∧ x.vc = m.vc)) →
      let out : State := { s with mesh := s.mesh.eraseIdx i }
      (s.takesWords m.core = false → exec (.vcWordArrival i) s = .next out) ∧
      (s.takesWords m.core = true → ((s.tile m.core).vc m.vc).length < 8 →
        ∃ u t, exec (.vcWordArrival i) s = .next t ∧ OnlyTile out u m.core ∧
          u.tile m.core = { s.tile m.core with vcs := Sparse.set [] (s.tile m.core).vcs m.vc ((s.tile m.core).vc m.vc ++ [m.word]) } ∧
          (s.boundTo m.core m.vc = none → t = u) ∧
          ∀ b, s.boundTo m.core m.vc = some b → OnlyTask u t b ∧ t.task b =
            if (s.task b).waits .endK = true then (s.task b).wake (s.task b).entry else s.task b)) ∧
    (∀ (lk k n a r : Nat) (rest : List (Bool × Nat × Nat)),
      (s.lockBit lk).waiters = (false, k, 0) :: rest → (s.lockBit lk).held = false → s.portRuns (k / 8) = true →
      (s.task k).port = [⟨.ldl n, a, some r, []⟩] → lockOf (k / 8) a = some lk → (s.task k).st = .runnable →
      NoneBehind s k →
      (∀ w, w < 8 → bitB ((s.die (dieOf (k / 8))).reg (0x132 + 4 * w)) 0 = false) →
      ∃ t, exec (.lockBitGrant lk) s = .next t ∧ t = { s with tasks := t.tasks, locks := t.locks } ∧
        (∀ j, j ≠ k → t.task j = s.task j) ∧ (∀ j, j ≠ lk → t.lockBit j = s.lockBit j) ∧
        t.task k = { (s.task k).fillRet r (s.readLocal (k / 8) a n) false with port := [], waitLock := none } ∧
        t.lockBit lk = { held := true, holder := k, waiters := rest }) ∧
    (∀ lk, let l := s.lockBit lk
      l.held = true → l.byCell = false → 12 * 4096 ≤ l.cycles → (s.task l.holder).st = .runnable →
      ∃ t, exec (.lockHeldTimeout lk) s = .next t ∧ t = { s with tasks := t.tasks, locks := t.locks } ∧
        (∀ j, j ≠ lk → t.lockBit j = s.lockBit j) ∧ t.lockBit lk = { waiters := l.waiters } ∧ OnlyTask { s with locks := t.locks } t l.holder ∧
        t.task l.holder = { s.task l.holder with asyncs := (s.task l.holder).asyncs ++ [(.lockHeld, lk % 1024 / 64 + lk % 64 * 16, 0)] }) ∧
    ∀ lk f, let l := s.lockBit lk
      l.held = true → l.byCell = true → 12 * 4096 ≤ l.cycles → s.fieldOf (l.holder / 256) = some f →
      (s.field f).st = .live ∨ (s.field f).st = .loading → (s.field f).closing = none →
      (s.returnsOpen f = true → ∃ t, exec (.cellLockHeldTimeout lk) s = .next t ∧ (t.lockBit lk).held = false ∧ t.mem = s.mem ∧
        t.field f = { s.field f with stopping := true, closing := some (.lockHeld, false) }) ∧
      (s.returnsOpen f = false → ∃ t, exec (.cellLockHeldTimeout lk) s = .next t ∧ (∀ j, j ≠ lk → t.lockBit j = s.lockBit j) ∧ t.lockBit lk = { waiters := l.waiters } ∧
        (t.field f).st = .frozen ∧ (t.field f).cause = some 9 ∧ (∀ j, j ≠ f → t.field j = s.field j) ∧ t.cells = s.cells ∧
        ∃ r ∈ (t.die (f / 256)).recs, r.kind = 2 ∧ r.cause = .lockHeld ∧ r.field = f % 256 ∧ r.cell = l.holder % 256)

/-- QUEUE_COMMAND_START of a waiting command that no earlier one of its task waits before, on a tile that runs fewer than 64,
makes it running and changes nothing else; an MSEND that may read its descriptor then is left to the statement on messages.
STREAM_COMPLETE of a running stream whose every unit is delivered and every packet answered, and SBAR_COMPLETE of a running SBAR
with no earlier unended stream of a class in its mask that writes memory, end it DONE with its count, add one to the task's QDONE
and, where it notifies a counter, decrement it, set its underflow bit if it is zero, and where that leaves zero give the bound
task the counter's event, so that it wakes from a WAITC on it or from END, or has its latch set; no memory, slice or other command
changes. -/
def Obligations.QueueCommandsStartAndEnd : Prop :=
  ∀ (s : State) (cm : Nat), s.Canonical →
    let c := s.cmd cm
    let tk := cm / 16
    let core := cm / 128
    let k := (s.tile core).counter c.o.nt
    let k' : Counter := if k.val = 0 then { k with uf := true } else { k with val := k.val - 1 }
    let event (j : Task) : Task := if j.waits .waitc = true ∧ j.waitDc = c.o.nt then j.wake j.pc else if j.waits .endK = true then j.wake j.entry
      else if j.st = .free ∨ j.st = .faulted then j else { j with latch := true }
    let before (j : Nat) : Task := if j = tk then { s.task tk with qdone := (s.task tk).qdone + 1 } else s.task j
    s.pumpRuns core = true →
    let ends (i : Instr) : Prop := ∃ t, exec i s = .next t ∧ t.mem = s.mem ∧ t.cells = s.cells ∧ t.rx = s.rx ∧ t.fields = s.fields ∧
      (∀ j, j ≠ cm → t.cmd j = s.cmd j) ∧
      t.cmd cm = { c with st := .done, count := c.elems c.pos, walk := none, xl := none, lines := [], under := [], stale := false } ∧
      (∀ j, t.task j = if c.o.nk = true ∧ k.val = 1 ∧ ∃ x, k.bound = some x ∧ j = core * 8 + x then event (before j) else before j) ∧
      (∀ j, j ≠ core → t.tile j = s.tile j) ∧ (c.o.nk = false → t.tiles = s.tiles) ∧
      (c.o.nk = true → t.tile core = { s.tile core with counters := Sparse.set {} (s.tile core).counters c.o.nt k' })
    (c.st = .waiting → (c.op = 0x31 → c.behind ≠ 0) → s.runningCount core < 64 →
      (∀ e, e < 16 → (s.cmd (cmdAt tk e)).st ≠ .waiting ∨ c.seq ≤ (s.cmd (cmdAt tk e)).seq) →
      ∃ t, exec (.queueCommandStart cm) s = .next t ∧ t = { s with cmds := t.cmds } ∧ (∀ j, j ≠ cm → t.cmd j = s.cmd j) ∧
        t.cmd cm = { c with st := .running, start := s.cycle }) ∧
    (c.st = .running → c.op ≤ 7 → c.kill = false → c.units ≤ c.pos → c.owed = [] → c.redo = [] → ends (.streamComplete cm)) ∧
    (c.st = .running → c.op = 9 →
      (∀ e, e < 16 → let b := s.cmd (cmdAt tk e)
        b.ended = true ∨ b.writesMem = false ∨ c.seq ≤ b.seq ∨ bitB (sbarMask c.o) b.o.cls = false) → ends (.sbarComplete cm))

/-- With no watchpoint enabled and nothing of its task, field or bank in its way, a stream's beat does one of these, and its
position, count and the tile's beats follow. SFIL, SCP and SGA to memory move one element (that size is the model's choice, log
entry 52). SLD, SGA and SMC put a link word of whole elements with its mark into every target's input, or an element with its mark
into channels. SST and SSC store the elements of an output's word and take it, or take a word that is not valid. SREC puts D zero
words of mark 0, then the output's words. With a translation in hand SFIL writes HBM and SCP reads it; without one it waits for a
walk. A local address in no region is kind 2, an index out of range kind 3, a lockstep beat outside its half kind 4: each ends the
field with a record of kind 3 (no launch of the field under way: those complete FAULTED). Lockstep beats that share a bank are a
BANK_CONFLICT (group and cell 255, log entry 53). Elements here are of 8, 16 or 32 bits in row layout. -/
def Obligations.StreamBeatsMoveElements : Prop :=
  ∀ (s : State) (cm : Nat), s.Canonical →
    let c := s.cmd cm
    let core := cm / 128
    let w := c.spec
    let sp := w.unitSpan c.pos
    let n := sp.2 - sp.1
    let run := exec (.streamBeat cm) s
    c.st = .running → c.kill = false → c.walk = none → c.redo = [] → s.pumpRuns core = true → (c.readsLocal = true → s.barred cm = false) →
    s.beatWaits cm = false → c.pos < c.units → (c.op = 0 ∧ c.o.ls = true ∨ s.bankHeld cm = false ∧ c.wait < 15) →
    (∀ w, w < 8 → bitB ((s.die (dieOf core)).reg (0x132 + 4 * w)) 0 = false) →
    let elem (w : WalkSpec) (j a : Nat) : Prop := hLayout w.h = 0 ∧ (w.b = 8 ∨ w.b = 16 ∨ w.b = 32) ∧ (w.addr j).1 = (a : Int)
    let inside (w : WalkSpec) (j a : Nat) : Prop := elem w j a ∧ hSpace w.h ≠ 4 ∧ a + w.b / 8 ≤ 2 ^ 32 ∧ ∀ i, i < w.b / 8 →
      (s.region core (a + i)).isSome = true ∧ localPlace core (a + i) = ((localPlace core a).1, (localPlace core a).2 + i)
    let cmdStep (t : State) (xl : Option Leaf) : Prop := (∀ j, j ≠ cm → t.cmd j = s.cmd j) ∧ t.cmd cm = { c with
      pos := c.pos + 1, count := c.elems (c.pos + 1), lines := [], under := [], wait := 0, xl := if c.stale then none else xl, stale := false,
      owed := c.owed.filter fun o => o.line.isNone,
      beatAt := if c.op = 0 ∧ c.o.ls = true then s.coreCycle core + 1 else c.beatAt }
    let tileStep (t : State) (f : Tile → Tile) : Prop := (∀ j, j ≠ core → t.tile j = s.tile j) ∧
      t.tile core = f { s.tile core with tbeats := (s.tile core).tbeats + 1 }
    let copied (u t : State) (xl : Option Leaf) : Prop := run = .next t ∧ t = { u with cmds := t.cmds, tiles := t.tiles, health := t.health } ∧
      cmdStep t xl ∧ tileStep t id
    let out := c.outSpec
    let copies : Prop := (c.op = 2 ∨ c.op = 3 ∧ c.o.port = 0x7F ∧ w.badIndex c.pos (c.pos + 1) = none) ∧ w.b = out.b
    let leaves := s.leaves core c
    let hbm (wr : Bool) (a x k : Nat) : Prop := ∀ i, i < k → s.spot core leaves 4 ((a + i : Nat) : Int) wr = .ok (.here .hbm (x + i))
    (c.op = 7 → (∀ a, inside out c.pos a → ∃ u t, Stores s u core a (out.b / 8) c.sop.toNat ∧ copied u t c.xl ∧ t.health = s.health) ∧
      (∀ a x, elem out c.pos a → hSpace out.h = 4 → hbm true a x (out.b / 8) → ∃ u t, OnlyMem s u ∧
        u.readLE .hbm x (out.b / 8) = c.sop.toNat % 2 ^ out.b ∧ SameOutside s u .hbm x (out.b / 8) ∧
        copied u t (leaves.find? (·.covers a)) ∧ ((∀ l, leaves.find? (·.covers a) = some l → (l.target a).1 = 0) → t.health = s.health)) ∧
      (∀ a, elem out c.pos a → hSpace out.h = 4 → a < 2 ^ 48 → inRegs a = false → leaves.find? (·.covers a) = none → ∃ t, run = .next t ∧
        t = { s with cmds := t.cmds, tiles := t.tiles, dies := t.dies } ∧ (∀ j, j ≠ cm → t.cmd j = s.cmd j) ∧
        t.cmd cm = { c with walk := some ⟨a, true, c.pos, a⟩ } ∧ (∀ j, j ≠ core → t.tile j = s.tile j) ∧
        t.tile core = { s.tile core with txmiss := (s.tile core).txmiss + 1 } ∧ (∀ d, d ≠ dieOf core → t.die d = s.die d) ∧
        t.die (dieOf core) = { s.die (dieOf core) with misses := ((s.die (dieOf core)).misses.filter fun k => decide (k ≠ cm)) ++ [cm] })) ∧
    (copies → (∀ a b, inside out c.pos a → inside w c.pos b → ∃ u t, Stores s u core a (out.b / 8) (s.readLocal core b (out.b / 8)) ∧
        copied u t c.xl ∧ t.health = s.health) ∧
      ∀ a b x, inside out c.pos a → elem w c.pos b → hSpace w.h = 4 → hbm false b x (w.b / 8) → ∃ u t,
        Stores s u core a (out.b / 8) (s.readLE .hbm x (w.b / 8)) ∧ copied u t (leaves.find? (·.covers b))) ∧
    (let lock : Prop := s.lockstepSet cm = [cm] ∧ s.wrongGroup cm = false ∧ (s.beatBanks cm).any (s.banksOwed core).contains = false ∧
      sharedBank [s.banksNow core (s.tile core).lockAt, s.beatBanks cm] = none ∧ c.beatAt ≠ s.coreCycle core + 1
     let outward : Prop := (c.op = 0 ∧ (c.o.ls = true → lock) ∨ c.op = 3 ∧ c.o.port ≠ 0x7F ∨ c.op = 6) ∧ (s.targets cm).Nodup ∧
      (∀ p ∈ s.targets cm, s.portReady p c.o.port c.ver = some true)
     (outward → c.o.port < 0x40 → w.badIndex sp.1 sp.2 = none → sp.1 < sp.2 → (∀ p ∈ s.targets cm, let k := (portCell p c.o.port).1
        s.mirrored none k = false ∧ ((s.cell k).loaded = true → (s.cell k).ver = c.ver)) →
      ∀ at_ : Nat → Nat, (∀ i, i < n → inside w (sp.1 + i) (at_ i)) → ∃ t v, run = .next t ∧
        (∀ i, i < n → v / 2 ^ (i * w.b) % 2 ^ w.b = s.readLocal core (at_ i) (w.b / 8)) ∧ v < 2 ^ (n * w.b) ∧
        t = { s with cmds := t.cmds, tiles := t.tiles, cells := t.cells } ∧ cmdStep t c.xl ∧
        tileStep t (fun x => { x with lockAt := (t.tile core).lockAt }) ∧
        (∀ k, (∀ p ∈ s.targets cm, k ≠ (portCell p c.o.port).1) → t.cell k = s.cell k) ∧ ∀ p ∈ s.targets cm, let q := portCell p c.o.port
          t.cell q.1 = { s.cell q.1 with inp := Sparse.set [] (s.cell q.1).inp q.2 ((s.cell q.1).fifo q.2 ++
            [{ data := BitVec.ofNat 128 v, mark := w.mark (sp.2 - 1), err := false, valid := true, ver := c.ver, time := s.cycle }]) }) ∧
     (outward → 0x40 ≤ c.o.port → c.o.port < 0x60 → w.badIndex c.pos (c.pos + 1) = none → c.o.ls = false →
      (∀ p ∈ s.targets cm, s.boundTo p (c.o.port - 0x40) = none) → ∀ a, inside w c.pos a → ∃ t, run = .next t ∧
        t = { s with cmds := t.cmds, tiles := t.tiles } ∧ cmdStep t c.xl ∧ ∀ p, t.tile p = { s.tile p with
          tbeats := if p = core then (s.tile p).tbeats + 1 else (s.tile p).tbeats
          vcs := if p ∈ s.targets cm then Sparse.set [] (s.tile p).vcs (c.o.port - 0x40) ((s.tile p).vc (c.o.port - 0x40) ++
            [BitVec.ofNat 64 (s.readLocal core a (w.b / 8) + w.mark c.pos * 2 ^ 61)]) else (s.tile p).vcs })) ∧
    (c.op = 1 ∨ c.op = 4 → c.o.port < 0x40 → ∀ x, s.outHead core (c.o.port % 32) c.ver = some (some x) →
      let taken (t : State) : Prop := (∀ k, k ≠ (outCell core (c.o.port % 32)).1 → t.cell k = s.cell k) ∧
        t.cell (outCell core (c.o.port % 32)).1 = { s.cell (outCell core (c.o.port % 32)).1 with
          roomAt := (t.cell (outCell core (c.o.port % 32)).1).roomAt }
      let less (x : Tile) : Tile := { x with outq := Sparse.set [] x.outq (c.o.port % 32) (x.outFifo (c.o.port % 32)).tail }
      (x.valid = false → ∃ t, run = .next t ∧ t = { s with tiles := t.tiles, cells := t.cells } ∧ taken t ∧
        (∀ j, j ≠ core → t.tile j = s.tile j) ∧ t.tile core = less (s.tile core)) ∧
      (x.valid = true → x.err = false → w.badIndex sp.1 sp.2 = none → sp.1 < sp.2 → ∀ at_ : Nat → Nat, (∀ i, i < n → inside w (sp.1 + i) (at_ i)) →
        let pl (i : Nat) : Nat := place (localPlace core (at_ i)).1 (localPlace core (at_ i)).2
        (∀ i j, i < j → j < n → pl i + w.b / 8 ≤ pl j ∨ pl j + w.b / 8 ≤ pl i) → ∃ u t, OnlyMem s u ∧
        (∀ i, i < n → u.readLocal core (at_ i) (w.b / 8) = x.data.toNat / 2 ^ (i * w.b) % 2 ^ w.b) ∧
        (∀ q, (∀ i, i < n → q < pl i ∨ pl i + w.b / 8 ≤ q) → u.mem.byte q = s.mem.byte q) ∧ run = .next t ∧
        t = { u with cmds := t.cmds, tiles := t.tiles, cells := t.cells } ∧ cmdStep t c.xl ∧ tileStep t less ∧ taken t)) ∧
    (c.op = 5 → c.o.port < 0x40 → s.portReady core c.o.port c.ver = some true →
      let k := (portCell core c.o.port).1
      let i := (portCell core c.o.port).2
      s.mirrored none k = false → ((s.cell k).loaded = true → (s.cell k).ver = c.ver) →
      let puts (t : State) (x : LinkWord) : Prop := t = { s with cmds := t.cmds, tiles := t.tiles, cells := t.cells } ∧ cmdStep t c.xl ∧
        t.cell k = { s.cell k with roomAt := (t.cell k).roomAt, inp := Sparse.set [] (s.cell k).inp i ((s.cell k).fifo i ++ [x]) } ∧
        ∀ j, j ≠ k → t.cell j = { s.cell j with roomAt := (t.cell j).roomAt }
      (c.pos < bits c.sop.toNat 5 11 → ∃ t, run = .next t ∧ puts t { valid := true, ver := c.ver, time := s.cycle } ∧ tileStep t id) ∧
      ∀ x, bits c.sop.toNat 5 11 ≤ c.pos → s.outHead core (c.sop.toNat % 32) c.ver = some (some x) → x.valid = true → ∃ t, run = .next t ∧
        puts t { x with mark := w.unitMark c.pos, ver := c.ver, time := s.cycle } ∧
        tileStep t fun y => { y with outq := Sparse.set [] y.outq (c.sop.toNat % 32) (y.outFifo (c.sop.toNat % 32)).tail }) ∧
    ∀ f, isMgmt core = false → s.fieldOf core = some f → (s.field f).closing = none → s.returnsOpen f = false → (s.die (f / 256)).traceOn = false →
      (∀ x ∈ s.intake.launches, x.fld ≠ some f) →
      let stopped (j : Nat) (x : Cmd) : Cmd := if s.fieldOf (j / 128) = some f then x.beatOver else x
      let record (t : State) (r : FRec) : Prop := (t.die r.die).recs = (s.die r.die).recs ++ [r]
      let stops (kind va j : Nat) (wr : Bool) : Prop := ∃ t, run = .next t ∧ t.mem = s.mem ∧ (t.field f).st = .frozen ∧ (t.field f).ended = true ∧
        (t.cmd cm).st = .faulted ∧ (t.cmd cm).fault = kind ∧ (t.cmd cm).count = j ∧ (∀ j, j ≠ cm → t.cmd j = stopped j (s.cmd j)) ∧
        record t ⟨3, .streamFault, dieOf core, s.fieldNum core, c.ver, core % 256, cm / 16 % 8, cm % 16, 255, 255, kind + 256 * b2n wr, va, j, s.cycle⟩
      (∀ a, c.op = 7 → elem out c.pos a → hSpace out.h ≠ 4 → a < 2 ^ 32 → s.region core a = none → stops 2 a c.pos true) ∧
      (c.op = 3 → c.o.port < 0x40 → s.portReady core c.o.port c.ver = some true → w.badIndex sp.1 sp.2 = some sp.1 →
        stops 3 (vaOf (w.addr sp.1).1) sp.1 false) ∧
      (c.op = 0 → c.o.ls = true → s.lockstepSet cm = [cm] → s.portReady core c.o.port c.ver ≠ some false → s.barred cm = false → c.beatAt ≠ s.coreCycle core + 1 → s.wrongGroup cm = true →
        stops 4 (vaOf (w.addr sp.1).1) sp.1 false) ∧
      ∀ b, c.op = 0 → c.o.ls = true →
        let good := (s.lockstepSet cm).filter fun k => !s.wrongGroup k
        (∀ k ∈ s.lockstepSet cm, s.portReady core (s.cmd k).o.port (s.cmd k).ver ≠ some false ∧ s.barred k = false ∧ s.beatWaits k = false ∧
          (s.cmd k).beatAt ≠ s.coreCycle core + 1) →
        (good.flatMap s.beatBanks).any (s.banksOwed core).contains = false →
        sharedBank (s.banksNow core (s.tile core).lockAt :: good.map s.beatBanks) = some b → ∃ t, run = .next t ∧ t.mem = s.mem ∧
          (∀ j, t.cmd j = stopped j (s.cmd j)) ∧
          (t.field f).st = .frozen ∧ (t.field f).ended = (s.field f).ended ∧
          record t ⟨2, .bankConflict, f / 256, f % 256, (s.field f).ver, core % 256, 255, 0, 255, 255, b, 0, 0, s.cycle⟩

/-- TRANSLATION_WALK of a running stream that waits for a walk: while 16 older walks of its die are under way, nothing happens.
Once its walk is under way and the page table gives a leaf that permits the access and does not migrate, or migrates and the
access is a read, and the tile's cache has room, the leaf enters the tile's cache and the stream's own entry and the stream no
longer waits; where no page is present, or a page to be written migrates, the stream is PAUSED with fault kind 1 at the faulting
element, with a record of kind 3 that names it; where the walk meets a protection condition, a page to be written that is not
writable included, the command ends FAULTED with kind 2, with such a record, and its field, no launch of it being under way,
freezes and ends. No memory byte of the walk and no slice changes, and no other command, but that those of a field that freezes
give up lines that they wait for. -/
def Obligations.WalksTranslateOrPause : Prop :=
  ∀ (s : State) (cm : Nat) (r : WalkReq), s.Canonical →
    let c := s.cmd cm
    let core := cm / 128
    let w := (s.walk (s.die (dieOf core)).walker r.dva).1
    c.st = .running → s.pumpRuns core = true → c.walk = some r →
    (s.walkBegun core cm = false → exec (.translationWalk cm) s = .next s) ∧
    (s.walkBegun core cm = true → ∀ l, w = .ok l ∨ w = .mig l → (r.wr = true → bitB l.entry 2 = true) → bitB l.entry 5 = false ∨ r.wr = false → (s.tile core).tlb.length < 512 →
      ∃ t, exec (.translationWalk cm) s = .next t ∧ t.mem = s.mem ∧ t.tasks = s.tasks ∧ t.fields = s.fields ∧
        (∀ j, j ≠ cm → t.cmd j = s.cmd j) ∧ t.cmd cm = { c with walk := none, xl := some l } ∧ (∀ j, j ≠ core → t.tile j = s.tile j) ∧
        l ∈ (t.tile core).tlb ∧ (∀ x ∈ (s.tile core).tlb, x ∈ (t.tile core).tlb) ∧
        (t.die (dieOf core)).misses = (s.die (dieOf core)).misses.filter fun k => decide (k ≠ cm)) ∧
    (s.walkBegun core cm = true → (w = .notPresent ∨ ∃ l, (w = .ok l ∨ w = .mig l) ∧ r.wr = true ∧ bitB l.entry 2 = true ∧ bitB l.entry 5 = true) →
      (s.die (dieOf core)).traceOn = false →
      ∃ t, exec (.translationWalk cm) s = .next t ∧ t = { s with cmds := t.cmds, dies := t.dies, health := t.health } ∧ (∀ j, j ≠ cm → t.cmd j = s.cmd j) ∧
        t.cmd cm = { c.beatOver with walk := none, st := .paused, fault := 1, count := r.elem } ∧
        (t.die (dieOf core)).recs = (s.die (dieOf core)).recs ++ [⟨3, .streamFault, dieOf core, s.fieldNum core, c.ver, core % 256, cm / 16 % 8,
          cm % 16, 255, 255, 1 + 256 * b2n r.wr, r.va, r.elem, s.cycle⟩]) ∧
    ∀ f, isMgmt core = false → s.fieldOf core = some f → (s.field f).closing = none → s.returnsOpen f = false →
      (s.die (dieOf core)).traceOn = false → (s.die (f / 256)).traceOn = false → (∀ x ∈ s.intake.launches, x.fld ≠ some f) →
      s.walkBegun core cm = true → (w = .prot ∨ ∃ l, (w = .ok l ∨ w = .mig l) ∧ r.wr = true ∧ bitB l.entry 2 = false) →
      ∃ t, exec (.translationWalk cm) s = .next t ∧ t.mem = s.mem ∧ (t.field f).st = .frozen ∧ (t.field f).ended = true ∧
        (t.cmd cm).st = .faulted ∧ (t.cmd cm).fault = 2 ∧ (t.cmd cm).count = r.elem ∧
        (∀ j, j ≠ cm → t.cmd j = if s.fieldOf (j / 128) = some f then (s.cmd j).beatOver else s.cmd j) ∧
        (t.die (dieOf core)).recs = (s.die (dieOf core)).recs ++ [⟨3, .streamFault, dieOf core, s.fieldNum core, c.ver, core % 256, cm / 16 % 8,
          cm % 16, 255, 255, 2 + 256 * b2n r.wr, r.va, r.elem, s.cycle⟩]

/-- FQ_REQUEST_SEND of a complete request that may leave, to this module and with no request held: one that breaks a rule ends
MALFORMED; a load, store or add at an address whose page is present in HBM, permits the access and does not migrate performs there
at once, the load and the add answering the old value. The words leave fq and the request waits for its response. FQ_RESPONSE of
the oldest answered request puts its tag, its status and, when DONE, its value into fr and ends it, one that is not DONE counting
in the task's RSYN count. -/
def Obligations.RequestsLeaveAndAreAnswered : Prop :=
  ∀ (s : State) (n : Nat), s.Canonical →
    let k := s.task n
    (∀ (w : Word64) (l : List Word64), k.fq = w :: l →
      let ctl := w.toNat
      let len := reqLen w
      let words := k.fq.take len
      let aw := (words.getD 1 0).toNat
      let size := 2 ^ (ctl / 2 ^ 6 % 4)
      let num := k.fqNums.headD k.reqNo
      let left (res : Nat × Option Nat) : Task := { k with fq := k.fq.drop len, reqs := k.reqs ++
        [⟨num, ctl / 2 ^ 16 % 2 ^ 16, ctl % 16, ctl / 2 ^ 8 % 8, aw / 2 ^ 48, words, none, false, some res⟩], gone := k.gone.filter fun x => decide (num < x) }
      len ≤ k.fq.length → k.st ≠ .free → s.fqRuns n = true → k.mayLeave ctl num = true →
      (malformed ctl aw = true → ∃ t, exec (.fqRequestSend n) s = .next t ∧ OnlyTask s t n ∧ t.task n = left (1, none)) ∧
      ∀ lf a, (∀ w, w < 8 → bitB ((s.die (dieOf (coreOf n))).reg (0x132 + 4 * w)) 0 = false) → malformed ctl aw = false → aw / 2 ^ 48 = s.fab.modid → s.fab.heldq = [] → inRegs (aw % 2 ^ 48) = false →
        (s.walk [] (aw % 2 ^ 48)).1 = .ok lf → (ctl % 16 ≠ 0 → bitB lf.entry 2 = true) → bitB lf.entry 5 = false →
        lf.target (aw % 2 ^ 48) = (0, a) →
        let old := s.mem.le a size
        let x := (words.getD 2 0).toNat % 2 ^ (8 * size)
        (ctl % 16 = 0 → ∃ t, exec (.fqRequestSend n) s = .next t ∧ t = { s with tasks := t.tasks, health := t.health } ∧
          (∀ j, j ≠ n → t.task j = s.task j) ∧ t.task n = left (0, some old)) ∧
        (ctl % 16 = 1 → ∃ t, exec (.fqRequestSend n) s = .next t ∧ t = { s with tasks := t.tasks, mem := t.mem, health := t.health } ∧
          (∀ j, j ≠ n → t.task j = s.task j) ∧ t.task n = left (0, none) ∧ t.mem.le a size = x ∧ SameOutside s t .hbm a size) ∧
        (ctl % 16 = 2 → ∃ t, exec (.fqRequestSend n) s = .next t ∧ t = { s with tasks := t.tasks, mem := t.mem, health := t.health } ∧
          (∀ j, j ≠ n → t.task j = s.task j) ∧ t.task n = left (0, some old) ∧ t.mem.le a size = (old + x) % 2 ^ (8 * size) ∧
          SameOutside s t .hbm a size)) ∧
    ∀ (r : Req) (st : Nat) (v : Option Nat), k.reqs.find? (fun r => r.resp.isSome) = some r → r.resp = some (st, v) → k.rsyns = [] → k.port = [] →
      k.st = .runnable → ∃ t, exec (.fqResponse n) s = .next t ∧ OnlyTask s t n ∧ t.task n = { k with
        fr := k.fr ++ BitVec.ofNat 64 (r.tag * 2 ^ 16 + st) :: (match v with | some x => if st = 0 then [BitVec.ofNat 64 x] else [] | none => [])
        reqs := k.reqs.filter fun x => decide (x.num ≠ r.num), rsynBad := if st = 0 then k.rsynBad else k.rsynBad + 1 }

/-- QUEUE_COMMAND_START of an MSEND that may read its descriptor, of this module's own, reads it and takes the next sequence
number of its destination. MESSAGE_ARRIVAL of a message with the expected sequence number and a place makes it eligible, and the
number expected of its source is one more; one with another number takes its place in the cistern and is held while the hold
buffer has room; with the engine off it is refused, counted, and still to come. MATCH_ELIGIBLE_MESSAGE of the message next in the
match order counts a match operation and puts one that fits no post at the end of the cistern; an empty message that fits is
delivered to the oldest post it fits and its landing is over. RECEIVE_COMPLETE writes the status record of an ended landing, the
accesses that its request-to-send releases having performed, and frees its entry. MSEND_COMPLETE ends DONE a send that has left,
and one by request-to-send when its payload is read and those accesses have performed. -/
def Obligations.MessagesArriveAndMatch : Prop :=
  ∀ s : State, s.Canonical →
    let off (core : Nat) : Prop := ∀ w, w < 8 → bitB ((s.die (dieOf core)).reg (0x132 + 4 * w)) 0 = false
    (∀ cm, let c := s.cmd cm
      let core := cm / 128
      let d := s.read (localPlace core c.sop.toNat).1 (localPlace core c.sop.toNat).2 16
      let key := sdMod d * 1024 + moduleTile core
      let q := Sparse.get 0 s.rx.sendSeq key
      c.op = 0x31 → c.st = .waiting → s.pumpRuns core = true → s.runningCount core < 64 → s.startsNext cm = true → off core →
      (s.modCmd cm fun c => { c with st := .running, start := s.cycle }).maySend cm = true → sdOk d = true → sdMod d = s.fab.modid →
      ∃ t, exec (.queueCommandStart cm) s = .next t ∧
        t = { s with cmds := t.cmds, rx := { s.rx with sendSeq := Sparse.set 0 s.rx.sendSeq key ((q + 1) % 2 ^ 32) } } ∧
        (∀ j, j ≠ cm → t.cmd j = s.cmd j) ∧
        t.cmd cm = { c with st := .running, start := s.cycle, mdesc := d, mseq := q, mkind := if 16384 < c.units then 1 else 0 }) ∧
    (∀ (i : Nat) (m : Msg), s.rx.arrivals[i]? = some m →
      let gone := s.rx.arrivals.eraseIdx i
      (s.rxOn = false → ∃ t, exec (.messageArrival i) s = .next t ∧ t = { s with pkg := { s.pkg with mrefuse := s.pkg.mrefuse + 1 }, rx := t.rx } ∧
        t.rx.arrivals = s.rx.arrivals ∧ t.rx.eligible = s.rx.eligible ∧ t.rx.hold = s.rx.hold ∧ t.rx.cistern = s.rx.cistern) ∧
      ∀ pa m', s.rxOn = true → s.rx.refusing = [] → s.rxPlace (s.seqAddr m.src) false = some pa → (s.rxPlace (s.seqAddr m.src) true).isSome = true →
        s.reserve m = some m' →
        (m.seq ≠ s.mem.le pa 4 → s.rx.hold.length < 2048 → ∀ u x, s.store m' = .ok (u, x) → ∃ t, exec (.messageArrival i) s = .next t ∧
          t = { u with health := t.health, rx := { s.rx with arrivals := gone, hold := s.rx.hold ++ [x] } } ∧
          x = { m' with kept := true, stored := m'.stored + m'.payload.length, payload := [] }) ∧
        (m.seq = s.mem.le pa 4 → s.rx.hold = [] → ∃ t, exec (.messageArrival i) s = .next t ∧ t = { s with
            mem := t.mem, health := t.health
            rx := { s.rx with arrivals := gone, eligible := s.rx.eligible ++ [{ m' with cycle := s.eligibleCycle }] } } ∧
          t.mem.le pa 4 = (m.seq + 1) % 2 ^ 32 ∧ SameOutside s t .hbm pa 4)) ∧
    (∀ (i : Nat) (m : Msg), s.rx.eligible[i]? = some m → (∀ j x, j < i → s.rx.eligible[j]? = some x → x.src ≠ m.src) → m.cycle ≤ s.cycle →
      (∀ x ∈ s.rx.eligible, x.before m = false) →
      let rest := s.rx.eligible.eraseIdx i
      (∀ u x, s.rx.oldestFit m = none → (if m.kept = true then .ok (s, m) else s.store m) = .ok (u, x) → ∃ t, exec (.matchEligibleMessage i) s = .next t ∧
        t = { u with
          pkg := { s.pkg with mmatch := s.pkg.mmatch + 1 }, health := t.health
          rx := { s.rx with eligible := rest, lastMatch := some (s.cycle, 0), cistern := s.rx.cistern ++ [x] } }) ∧
      ∀ e, s.rx.oldestFit m = some e → m.len = 0 →
        let en : Entry := { s.entry e with delivering := true, msg := some m, got := 0, paused := false, fin := some 0 }
        ∃ t, exec (.matchEligibleMessage i) s = .next t ∧ t.mem = s.mem ∧
          t.rx = { s.rx with eligible := rest, lastMatch := some (s.cycle, 0), entries := Sparse.set {} s.rx.entries e en }) ∧
    (∀ (e st : Nat) (m : Msg), let en := s.entry e
      en.fin = some st → en.msg = some m → (s.cmd (landKey e)).owed = [] → (s.cmd (landKey e)).redo = [] → s.entryRuns en = true → s.awaitsSender en = false → en.pat.tkind = 0 → off (coreOf en.task) →
      ∃ u t, exec (.receiveComplete e) s = .next t ∧
        Stores s u (coreOf en.task) en.pat.stat 32 (statusRecord (s.rid e) st m.ctx m.rts m.src m.tag m.len en.gotBytes) ∧
        t = { u with rx := { s.rx with entries := Sparse.set {} s.rx.entries e { gen := en.gen } }, cmds := t.cmds } ∧
        ∀ j, j ≠ landKey e → t.cmd j = s.cmd j) ∧
    ∀ cm, let c := s.cmd cm
      c.op = 0x31 → c.st = .running → c.sent = true → (c.mkind = 0 ∨ c.mdone = true ∧ c.rel = 0) → c.o.nk = false → sdKind c.mdesc = 0 →
      ∃ t, exec (.msendComplete cm) s = .next t ∧ t = { s with cmds := t.cmds, tasks := t.tasks, health := t.health } ∧
        (∀ j, j ≠ cm → t.cmd j = s.cmd j) ∧ t.cmd cm = { c with st := .done, count := c.elems c.pos, walk := none, xl := none, lines := [], under := [], stale := false } ∧
        (∀ j, j ≠ cm / 16 → t.task j = s.task j) ∧ t.task (cm / 16) = { s.task (cm / 16) with qdone := (s.task (cm / 16)).qdone + 1 }

/-- Each acts on an operation that no earlier one of its task waits before, with no eligible message before it and no operation of
its cycle that should have come after it, takes it away and counts a match operation. MATCH_POST with a valid descriptor and the
engine on gives the lowest free entry (the model's choice, log entry 24) the pattern, the handle and the next generation and
writes a PENDING status record (with the pattern's ctx, the model's choice, log entry 98) when no message in the cistern fits.
MATCH_PROBE writes FOUND with the oldest message that fits, or NONE. MATCH_CANCEL of a posted entry writes CANCELLED and frees it.
MATCH_TEST returns 0, 1 or 2 for an entry that is gone, posted or delivering. -/
def Obligations.MatchOperationsPerform : Prop :=
  ∀ (s : State) (i tk : Nat) (op : RxOp), s.Canonical → s.rx.ops[i]? = some ⟨tk, 0, op⟩ → (∀ j x, j < i → s.rx.ops[j]? = some x → x.task ≠ tk) →
    (∀ m ∈ s.rx.eligible, s.cycle < m.cycle) → (∀ r, s.rx.lastMatch = some (s.cycle, r) → r ≤ RxReq.rank ⟨tk, 0, op⟩) →
    let core := tk / 8
    let off (core : Nat) : Prop := ∀ w, w < 8 → bitB ((s.die (dieOf core)).reg (0x132 + 4 * w)) 0 = false
    let found (p : Pattern) : Prop := ∀ x ∈ s.rx.searched p (moduleTile core), (s.rxPlace (s.headAddr x) false).isSome = true
    let rest := s.rx.ops.eraseIdx i
    let counted (t u : State) : Prop := t = { u with pkg := { s.pkg with mmatch := s.pkg.mmatch + 1 }, health := t.health, rx := t.rx } ∧
      t.rx.ops = rest ∧ t.rx.eligible = s.rx.eligible ∧ t.rx.cistern = s.rx.cistern ∧ t.rx.lastMatch = some (s.cycle, RxReq.rank ⟨tk, 0, op⟩)
    (∀ a h e, op = .post a h → (s.descr core a).statOk = true → (s.descr core a).srcOk = true → (s.descr core a).targetOk = true →
      off core → found (s.descr core a).pat → s.rxOn = true → e < 8192 → (s.entry e).busy = false → (∀ j, j < e → (s.entry j).busy = true) →
      (∀ m ∈ s.rx.cistern, fits m (s.descr core a).pat (moduleTile core) = false) →
      let p := (s.descr core a).pat
      let g := ((s.entry e).gen + 1) % 2 ^ 19
      let en : Entry := { busy := true, gen := g, task := tk, fld := s.fieldOf core, order := s.rx.nextOrder, pat := p, h := h }
      ∃ u t, exec (.matchPost i) s = .next t ∧ Stores s u core p.stat 32 (statusRecord (e + g * 2 ^ 13) 0xFF p.ctx false p.src p.tag 0 0) ∧
        counted t u ∧ t.rx.entries = Sparse.set {} s.rx.entries e en ∧ t.rx.nextOrder = s.rx.nextOrder + 1) ∧
    (∀ a, op = .probe a → (s.descr core a).statOk = true → (s.descr core a).srcOk = true → (s.descr core a).targetOk = true →
      (s.descr core a).pat.tkind = 0 → s.rxOn = true → off core → found (s.descr core a).pat →
      let p := (s.descr core a).pat
      let v := match s.rx.cistern.find? (fun m => fits m p (moduleTile core)) with
        | some m => statusRecord 0xFFFFFFFF 0x10 m.ctx m.rts m.src m.tag m.len 0
        | none => statusRecord 0xFFFFFFFF 0x11 p.ctx false p.src p.tag 0 0
      ∃ u t, exec (.matchProbe i) s = .next t ∧ Stores s u core p.stat 32 v ∧ counted t u ∧ t.rx.entries = s.rx.entries) ∧
    (∀ r, op = .cancel r → (s.ridEntry r = none → ∃ t, exec (.matchCancel i) s = .next t ∧ counted t s ∧ t.rx.entries = s.rx.entries) ∧
      ∀ e, s.ridEntry r = some e → (s.entry e).delivering = false → (s.entry e).pat.tkind = 0 → off (coreOf (s.entry e).task) →
        let en := s.entry e
        ∃ u t, exec (.matchCancel i) s = .next t ∧
          Stores s u (coreOf en.task) en.pat.stat 32 (statusRecord r 2 en.pat.ctx false en.pat.src en.pat.tag 0 0) ∧
          counted { t with cmds := s.cmds } u ∧ t.rx.entries = Sparse.set {} s.rx.entries e { gen := en.gen }) ∧
    ∀ r ret, op = .test r ret → ∃ t, exec (.matchTest i) s = .next t ∧ counted { t with tasks := s.tasks } s ∧ t.rx.entries = s.rx.entries ∧
      (∀ j, j ≠ tk → t.task j = s.task j) ∧ t.task tk = (s.task tk).fillRet ret
        (match s.ridEntry r with | some e => if (s.entry e).delivering = true then 2 else 1 | none => 0) false

/-- CELL_LOAD of an unloaded, quiescent cell that the wave has reached, on a tile it has declared, gives it the words of its
section and the new version with every other part at its reset value, but for words on the way from it and its inputs, which hold
the initial tokens of each loaded producer; it holds no lock bit, and other cells change only in their inputs and in when they saw
room; with the field's last cell loaded, the accesses of the new version that wait in its tasks' ports may perform, and where none
waits a parked task's results are captured and nothing else happens. IMAGE_READ_COMPLETE extends the die's measurement, once, by
the image's bytes in the order of reading (whose beginning is deduced, log entry 58). CONFIG_COMPLETE_WAVE of a measured wave
whose last cell has loaded makes the field LIVE, with the image's window and strictness; its launch and those that wait for the
field go on to their seeds, or its SCFG ends DONE. -/
def Obligations.CellsLoadAndWavesEnd : Prop :=
  ∀ (s : State) (f : Nat) (w : Wave) (im : Image), s.Canonical →
    let fl := s.field f
    fl.wave = some w → parseImage w.bytes fl.w fl.h = some im →
    (∀ (k : Nat) (x : Sect), fl.st = .loading → s.fieldOf (coreOfCell k) = some f → (s.cell k).loaded = false → s.waveAt k = true →
      s.sectOf f (coreOfCell k) im = some x → (s.tile (coreOfCell k)).declared = true → s.quiescent k = true →
      (s.cell k).gap = none ∨ (s.die (dieOf (coreOfCell k))).traceOn = false →
      let last : Prop := (s.fieldCores f).getLast?.map (fun c => 256 * c + 255) = some k ∨ s.allLoaded f = true
      (last → ∀ c ∈ s.fieldCores f, ∀ i < 8, (s.task (c * 8 + i)).port = [] ∧ (s.task (c * 8 + i)).asyncs = []) →
      ∃ t, exec (.cellLoad k) s = .next t ∧ t = { s with tasks := t.tasks, cells := t.cells, tiles := t.tiles, locks := t.locks } ∧
        (¬ last → t.tasks = s.tasks) ∧ (∀ j, t.task j = s.task j ∨ (s.task j).st = .parked ∧ t.task j = (s.task j).capture) ∧
        t.cell k = { prog := x.cells.getD (k % 256) [], ver := fl.ver, loaded := true, wires := (s.cell k).wires, inp := (t.cell k).inp
                     was := bits (s.cell k).sw0 40 2, roomAt := (t.cell k).roomAt } ∧
        (∀ j, j ≠ k → t.cell j = { s.cell j with inp := (t.cell j).inp, roomAt := (t.cell j).roomAt }) ∧
        (∀ i, i < 8 → (t.cell k).fifo i = match t.producerOf k i with
          | some m => if (t.cell m).loaded then t.tokens m (facing i) else []
          | none => []) ∧ (∀ n, (t.lockBit n).heldByCell k = false) ∧
        ∀ c, t.tile c = { s.tile c with outq := (t.tile c).outq } ∧ (c ≠ coreOfCell k → t.tile c = s.tile c)) ∧
    (w.measured = false → ∃ t, exec (.imageReadComplete f) s = .next t ∧ t = { s with fields := t.fields, dies := t.dies } ∧
      (∀ j, j ≠ f → t.field j = s.field j) ∧ t.field f = { fl with wave := some { w with measured := true } } ∧
      (∀ d, d ≠ f / 256 → t.die d = s.die d) ∧ t.die (f / 256) = { s.die (f / 256) with
        meas := sha512 ((s.die (f / 256)).meas ++ sha512 (readOrder w.bytes) ++ [BitVec.ofNat 8 (f / 256), BitVec.ofNat 8 (f % 256)] ++ bytesOfNat 2 fl.ver)
        measN := (s.die (f / 256)).measN + 1 }) ∧
    (w.measured = true → fl.st = .loading → s.allLoaded f = true → (s.die (f / 256)).traceOn = false →
      let now (t : State) : Prop := (∀ j, j ≠ f → t.field j = s.field j) ∧
        t.field f = { fl with st := .live, wave := none, gwbase := im.gwbase, gwsize := im.gwsize, strict := !im.lenient }
      (∀ id, w.by_ = .launch id → ∃ t, exec (.configCompleteWave f) s = .next t ∧ now t ∧
        t = { s with
          fields := t.fields
          intake := { s.intake with launches := s.intake.launches.map fun l => if l.id = id ∨ l.fld = some f ∧ l.st = .waiting then { l with st := .seeding } else l } }) ∧
      ∀ cm, w.by_ = .scfg cm → (s.cmd cm).live = true → ∃ t, exec (.configCompleteWave f) s = .next t ∧ now t ∧ t.mem = s.mem ∧
        t.cells = s.cells ∧ t.dies = s.dies ∧ t.intake = { s.intake with
          launches := s.intake.launches.map fun l => if l.fld = some f ∧ l.st = .waiting then { l with st := .seeding } else l } ∧ (∀ j, j ≠ cm → t.cmd j = s.cmd j) ∧
        t.cmd cm = { s.cmd cm with st := .done, count := (s.cmd cm).elems (s.cmd cm).pos, walk := none, xl := none, lines := [], under := [], stale := false })

/-- CELL_FIRE of a cell that may fire, whose accesses follow its rota and whose error tokens reach no DROP, replaces it by the
cell after the firing, its outputs on their way or waiting as twin sinks, a firing later than II, by the field's LIVE cycles,
adding its excess to the tile's gap counters. A step of one unguarded move from a link input moves its word: to a link output it
leaves with the cell's version and the cycle as its time, the input losing it; to the ALU's trigger the result flies with the
operation's latency; to a DOT accumulator of a cell without planes the multiply-accumulate flies for 4 firings. Memory, other
cells' words and other tiles stay. -/
def Obligations.CellsFire : Prop :=
  ∀ (s : State) (k : Nat), s.Canonical →
    let c := s.cell k
    let core := coreOfCell k
    let l := c.moves c.step
    let r := c.fire s.cycle (s.ownCycles k) (s.liveCycles k)
    let excess := match c.lastFire with
      | some _ => if c.ii = 0 then 0 else s.liveCycles k - c.lastLive - c.ii
      | none => 0
    s.canFire k = true → c.rotaCheck c.rota (accesses l) = none → r.2.2 = false →
    (excess = 0 ∨ c.gap = none ∨ (s.die (dieOf core)).traceOn = false) →
    (∃ t, exec (.cellFire k) s = .next t ∧ t = { s with cells := t.cells, tiles := t.tiles, health := t.health } ∧
      (∀ j, j ≠ k → t.cell j = { s.cell j with roomAt := (t.cell j).roomAt }) ∧
      t.cell k = r.2.1.foldl (fun x o =>
        if s.twinSink k o.1 then { x with sinks := x.sinks ++ [.link o.1 o.2] } else { x with wires := Sparse.set [] x.wires o.1 (x.wire o.1 ++ [o.2]) })
        { r.1 with roomAt := (t.cell k).roomAt, gap := (t.cell k).gap } ∧
      (∀ j, j ≠ core → t.tile j = s.tile j) ∧ t.tile core = { s.tile core with
        tgapn := if excess = 0 then (s.tile core).tgapn else (s.tile core).tgapn + 1
        tgapx := (s.tile core).tgapx + BitVec.ofNat 32 excess } ∧ (excess = 0 → (t.cell k).gap = c.gap ∧ t.health = s.health)) ∧
    ∀ (m : Move) (w : LinkWord) (ws : List LinkWord), l = [m] → m.gk = 0 → isLink m.src = true → c.fifo (m.src - 1) = w :: ws → w.valid = true →
      let flown := c.landDue.flight.map fun x => { x with rem := x.rem - 1 }
      let base (t : State) : Prop := (t.cell k).inp = Sparse.set [] c.inp (m.src - 1) ws ∧ (t.cell k).count = c.count + 1 ∧
        (t.cell k).lastFire = some s.cycle ∧ (t.cell k).lastOwn = s.ownCycles k ∧ (t.cell k).lastLive = s.liveCycles k ∧ (t.cell k).prog = c.prog ∧ (t.cell k).troughs = c.troughs ∧ (t.cell k).latches = c.latches ∧
        (t.cell k).bin = c.bin ∧ (t.cell k).ports = c.landDue.ports ∧ (t.cell k).accs = c.landDue.accs
      (isLink m.dst = true → s.twinSink k (m.dst - 1) = false → ∃ t, exec (.cellFire k) s = .next t ∧ base t ∧
        (t.cell k).wires = Sparse.set [] c.wires (m.dst - 1) (c.wire (m.dst - 1) ++ [{ w with ver := c.ver, time := s.cycle }])) ∧
      (m.dst = 0x22 → c.stop = false → ∃ t, exec (.cellFire k) s = .next t ∧ base t ∧ (t.cell k).wires = c.wires ∧ (t.cell k).flight =
        flown ++ [⟨aluLat m.op - 1, .port 0x20 (aluResult c.afmt m.op m.m (c.latch 0x20) w (c.latch 0x21))⟩]) ∧
      ∀ n, n < 16 → m.dst = 0x30 + n → m.op = 0 → c.dpl = false → c.stop = false →
        let a : Acc := Sparse.get {} c.landDue.accs n
        let d := c.dot a.val.toNat (c.latch 0x23) w
        ∃ t, exec (.cellFire k) s = .next t ∧ base t ∧ (t.cell k).wires = c.wires ∧ (t.cell k).flight =
          flown ++ [⟨3, .acc n ⟨BitVec.ofNat 32 d.1, (c.latch 0x23).err || w.err || (c.dsc && c.scaleErr)⟩ d.2 false false⟩]

/-- CELL_RESULT_LANDING writes a due result, when the cell can fire, to its port or accumulator, poison joining the accumulator's,
and does nothing when it cannot. LINK_WORD_ARRIVAL moves the oldest word on a link, as the select bits route it that its cell had
when it wrote the word, into the input it reaches, and into the shadow's when it comes from outside the group, or into the pump's
FIFO; at a loaded cell of another version it is discarded and counted. TWIN_COMPARE of two equal oldest sinks lets the primary's
word go, or its bin operation perform; sinks that differ are a TWIN_MISMATCH field fault. Memory stays. -/
def Obligations.CellWordsArriveAndLand : Prop :=
  ∀ (s : State) (k : Nat), s.Canonical →
    let c := s.cell k
    let onlyCell (t : State) (y : Cell) : Prop := t = { s with cells := t.cells } ∧ (∀ j, j ≠ k → t.cell j = s.cell j) ∧ t.cell k = y
    (s.canFire k = false → exec (.cellResultLanding k) s = .next s) ∧
    (∀ (x : Landing) (rest : List CellFlight), c.flight = ⟨0, x⟩ :: rest → (∀ y ∈ rest, y.rem ≠ 0) → s.canFire k = true →
      (∀ code w, x = .port code w → ∃ t, exec (.cellResultLanding k) s = .next t ∧
        onlyCell t { c with flight := rest, ports := Sparse.set {} c.ports code w }) ∧
      ∀ n a sat clr zero, x = .acc n a sat clr zero →
        let old : Acc := Sparse.get {} c.accs n
        ∃ t, exec (.cellResultLanding k) s = .next t ∧ onlyCell t { c with
          flight := rest, accs := Sparse.set {} c.accs n ⟨a.val, !zero && (a.poison || old.poison)⟩, sat := (c.sat || sat) && !clr }) ∧
    (∀ (j : Nat) (w : LinkWord) (rest : List LinkWord), j < 8 → c.wire j = w :: rest →
      let gone (t : State) : Cell := { c with wires := Sparse.set [] c.wires j rest, roomAt := (t.cell k).roomAt }
      let sel := if c.loaded = true ∧ w.ver ≠ c.ver then c.was else bits c.sw0 40 2
      let at_ : LinkWord := { w with time := s.cycle }
      (∀ m i, s.sinkBy sel k j = .cell m i → m ≠ k → m + 128 ≠ k → ((s.cell m).loaded = true → w.ver = (s.cell m).ver) →
        (s.mirrored (some k) m = true → (s.cell (m + 128)).loaded = true → w.ver = (s.cell (m + 128)).ver) →
        let take (x : Cell) : Cell := { x with inp := Sparse.set [] x.inp i (x.fifo i ++ [at_]) }
        ∃ t, exec (.linkWordArrival (8 * k + j)) s = .next t ∧ t = { s with cells := t.cells } ∧ t.cell k = gone t ∧ t.cell m = take (s.cell m) ∧
          t.cell (m + 128) = (if s.mirrored (some k) m then take (s.cell (m + 128)) else s.cell (m + 128)) ∧
          ∀ n, n ≠ k → n ≠ m → n ≠ m + 128 → t.cell n = s.cell n) ∧
      (∀ m i f, s.sinkBy sel k j = .cell m i → m ≠ k → (s.cell m).loaded = true → w.ver ≠ (s.cell m).ver → s.mirrored (some k) m = false →
        s.fieldOf (coreOfCell m) = some f → (s.die (f / 256)).traceOn = false →
        ∃ t, exec (.linkWordArrival (8 * k + j)) s = .next t ∧ t = { s with cells := t.cells, fields := t.fields } ∧ t.cell k = gone t ∧
          (∀ n, n ≠ k → t.cell n = s.cell n) ∧ (∀ g, g ≠ f → t.field g = s.field g) ∧ t.field f = { s.field f with disc := (s.field f).disc + 1 }) ∧
      ∀ code, s.sinkBy sel k j = .pump code → (c.loaded = true → w.ver = c.ver) →
        ∃ t, exec (.linkWordArrival (8 * k + j)) s = .next t ∧ t = { s with cells := t.cells, tiles := t.tiles } ∧ t.cell k = gone t ∧
          (∀ n, n ≠ k → t.cell n = s.cell n) ∧ (∀ n, n ≠ coreOfCell k → t.tile n = s.tile n) ∧ t.tile (coreOfCell k) = { s.tile (coreOfCell k) with
            outq := Sparse.set [] (s.tile (coreOfCell k)).outq code ((s.tile (coreOfCell k)).outFifo code ++ [w]) }) ∧
    ∀ (x y : TwinSink) (xs ys : List TwinSink), c.twin = true → c.shadow = false → s.cellRuns k = true → c.sinks = x :: xs →
      (s.cell (k + 128)).sinks = y :: ys →
      let room (z : List TwinSink) (c : Cell) : Sparse Nat := if z.isEmpty then Sparse.set 0 c.roomAt 9 s.cycle else c.roomAt
      let both (t : State) : Prop := t = { s with cells := t.cells } ∧ ∀ j, j ≠ k → j ≠ k + 128 → t.cell j = s.cell j
      (∀ o w, x = .link o w → x.same y = true → ∃ t, exec (.twinCompare k) s = .next t ∧ both t ∧
        t.cell k = { c with sinks := xs, roomAt := room xs c, wires := Sparse.set [] c.wires o (c.wire o ++ [w]) } ∧
        t.cell (k + 128) = { s.cell (k + 128) with sinks := ys, roomAt := room ys (s.cell (k + 128)) }) ∧
      (∀ o a d n, x = .bin o a d n → x.same y = true →
        let clear (b : List BinOp) : List BinOp := b.map fun b => if b.num = n then { b with twin := false } else b
        ∃ t, exec (.twinCompare k) s = .next t ∧ both t ∧ t.cell k = { c with sinks := xs, roomAt := room xs c, bin := clear c.bin } ∧
        t.cell (k + 128) = { s.cell (k + 128) with sinks := ys, roomAt := room ys (s.cell (k + 128)), bin := clear (s.cell (k + 128)).bin }) ∧
      ∀ f, x.same y = false → s.fieldOf (coreOfCell k) = some f → (s.field f).st = .live → (s.field f).closing = none →
        s.returnsOpen f = false → (s.die (f / 256)).traceOn = false →
        ∃ t, exec (.twinCompare k) s = .next t ∧ (t.field f).st = .frozen ∧ t.mem = s.mem ∧
          (t.die (f / 256)).recs = (s.die (f / 256)).recs ++ [⟨2, .twinMismatch, f / 256, f % 256, (s.field f).ver, tileOf (coreOfCell k), 255, 0, c.group,
            k % 256, 0, 0, 0, s.cycle⟩]

/-- BIN_PORT_PERFORM of an operation that its order lets perform, at an aligned bin address and with no error token: a load
answers 16 bytes; a store writes 16 bytes; an add writes and answers the old 4 bytes, the sum being of 32 bits; an acquiring load
of a free bit, or of one the cell holds, also takes it, and a releasing store frees it if the cell holds it. An acquiring
operation whose bit another holds waits in its line and nothing else changes. An operation whose bank a lockstep beat of the tile
has read in this cycle of the field waits, and one that has waited 15 cycles on end performs and takes its bank from such beats. A
load or add with a bad address or error token answers an error token; a store with one answers nothing and is an ERR_TOKEN field
fault. No other byte of memory or tile changes. -/
def Obligations.BinPortsPerform : Prop :=
  ∀ (s : State) (k n : Nat) (b : BinOp), s.Canonical →
    let c := s.cell k
    let core := coreOfCell k
    c.bin.find? (fun x => decide (x.num = n)) = some b → b.done = false → b.twin = false → b.waiting = false → c.shadow = false →
    s.cellRuns k = true → (c.loaded = true → s.verHold core = false) → binOrder (c.bin.filter fun a => decide (a.num < n)) b = true →
    (∀ w, w < 8 → bitB ((s.die (dieOf core)).reg (0x132 + 4 * w)) 0 = false) →
    let now := s.coreCycle core
    let due := b.bad = false ∧ 15 ≤ b.wait ∧ b.waitAt + 1 = now
    let read := b.bad = false ∧ b.addr / 0xC000 ∈ s.banksNow core (s.tile core).lockAt
    let ends (s' t : State) (w : LinkWord) : Prop := t = { s' with cells := t.cells } ∧
      t.cell k = { c.binDone n { w with time := s.cycle } with roomAt := (t.cell k).roomAt } ∧
      (c.twin = true → t.cell (k + 128) = (s.cell (k + 128)).binDone n { w with time := s.cycle }) ∧
      (c.twin = false → t.cell (k + 128) = s.cell (k + 128)) ∧ ∀ j, j ≠ k → j ≠ k + 128 → t.cell j = s.cell j
    let q := lockOf core b.addr
    let onlyLock (u v : State) (f : Lock → Lock) : Prop := v = { u with locks := v.locks } ∧
      ∀ j, v.lockBit j = if q = some j then f (u.lockBit j) else u.lockBit j
    let open_ : Prop := ∀ m, q = some m → (s.lockBit m).heldByCell k = true ∨ ((s.lockBit m).held = false ∧ (s.lockBit m).waiters = [])
    (read → ¬ due → ∃ t, exec (.binPortPerform k n) s = .next t ∧ t = { s with cells := t.cells } ∧ (∀ j, j ≠ k → t.cell j = s.cell j) ∧
      t.cell k = { c with
        bin := c.bin.map fun x => if x.num ≠ n then x else
          { x with waitAt := now, wait := if x.waitAt = now ∧ x.wait ≠ 0 then x.wait else if x.waitAt + 1 = now then x.wait + 1 else 1 } }) ∧
    (due → b.op = 0 → ∃ u t, exec (.binPortPerform k n) s = .next t ∧ OnlyTile s u core ∧ u.tile core = { s.tile core with
      takenAt := (now + 1, s.banksNow core (s.tile core).takenAt ++ [b.addr / 0xC000]) } ∧
      ends u t (okWord (s.readLocal core b.addr 16) b.trig.mark)) ∧
    (b.bad = true → b.gives = false → ∀ f, s.fieldOf core = some f → (s.field f).st = .live ∨ (s.field f).st = .loading → (s.field f).closing = none →
      s.returnsOpen f = false → (s.die (f / 256)).traceOn = false → ∃ t, exec (.binPortPerform k n) s = .next t ∧ t.mem = s.mem ∧ t.tiles = s.tiles ∧
        t.locks = s.locks ∧ (t.cell k).bin = c.bin.filter (fun x => decide (x.num ≠ n) || x.gives) ∧ (t.field f).st = .frozen ∧ (t.field f).ended = (s.field f).ended ∧
        (t.die (f / 256)).recs = (s.die (f / 256)).recs ++ [⟨2, .errToken, f / 256, f % 256, (s.field f).ver, tileOf core, 255, 0, c.group, k % 256,
          if b.trig.err = true then 0x2F else 0x2E, 0, 0, s.cycle⟩]) ∧
    (b.bad = true → b.gives = true → ∃ t, exec (.binPortPerform k n) s = .next t ∧ ends s t (errTok b.trig.mark)) ∧
    (b.bad = false → ¬ read → ¬ due →
      (b.op = 0 → ∃ t, exec (.binPortPerform k n) s = .next t ∧ ends s t (okWord (s.readLocal core b.addr 16) b.trig.mark)) ∧
      (b.op = 1 → ∃ u t, exec (.binPortPerform k n) s = .next t ∧ Stores s u core b.addr 16 b.data.data.toNat ∧ ends u t {}) ∧
      (b.op = 2 → open_ → ∃ u t, exec (.binPortPerform k n) s = .next t ∧
        onlyLock s u (fun l => if l.heldByCell k then l else { l with held := true, byCell := true, holder := k, cycles := 0 }) ∧
        ends u t (okWord (s.readLocal core b.addr 16) b.trig.mark)) ∧
      (b.op = 3 → ∃ u v t, exec (.binPortPerform k n) s = .next t ∧ Stores s u core b.addr 16 b.data.data.toNat ∧
        onlyLock u v (fun l => if l.heldByCell k then { l with held := false, byCell := false, holder := 0, cycles := 0 } else l) ∧ ends v t {}) ∧
      (b.op = 4 → open_ → ∃ u t, exec (.binPortPerform k n) s = .next t ∧
        Stores s u core b.addr 4 (s.readLocal core b.addr 4 + b.data.data.toNat % 2 ^ 32) ∧
        ends u t (okWord (s.readLocal core b.addr 4) b.trig.mark)) ∧
      ∀ m, (b.op = 2 ∨ b.op = 4) → q = some m → (s.lockBit m).held = true → (s.lockBit m).heldByCell k = false →
        ∃ t, exec (.binPortPerform k n) s = .next t ∧ t = { s with cells := t.cells, locks := t.locks } ∧
          (∀ j, j ≠ m → t.lockBit j = s.lockBit j) ∧ t.lockBit m = { s.lockBit m with waiters := (s.lockBit m).waiters ++ [(true, k, n)] } ∧
          (∀ j, j ≠ k → t.cell j = s.cell j) ∧
          t.cell k = { c with bin := c.bin.map fun x => if x.num = n then { x with waiting := true } else x })

/-- NOTIFY of a good tail moves a mapped queue's slot tail, or an unmapped queue's descriptor tail; a bad one, or one to a queue
that is not enabled, is counted. QUEUE_MAP maps a good unmapped queue to a free slot with the descriptor's tail; QUEUE_UNMAP
stores the tail back. Where the descriptor takes no store, the notify is counted and the queue stays mapped (the model's choice,
log entry 65). HOST_APERTURE_ACCESS to bytes that translate to HBM writes them, or answers them; where a translation fails a write
is dropped, a read answers ones, and APERR counts. Where a descriptor lies in a peer's memory, its lines are asked for first and
nothing else happens (the model's choice, log entry 94). REGISTER_WRITE sets APBASE, clears APERR and BADNOTIFY bits written as
one, and sets an MSI-X word. QDTBASE by firmware's offset is the model's own choice (log entry 40). Nothing else changes. -/
def Obligations.HostReachesTheModule : Prop :=
  ∀ (s : State) (q slot v : Nat) (d : QDesc), s.Canonical → s.hostReach = true → slot < 64 →
    let k := s.intake
    let onlyIntake (t : State) (i : Intake) : Prop := t = { s with intake := i }
    let setSlot (i : Nat) (x : Slot) : Intake := { k with slots := Sparse.set {} k.slots i x }
    let tail := v % 2 ^ 32
    let c := match s.slotOf q with
      | some i => (s.slot i).tail
      | none => d.tail
    let fits : Prop := (tail + 2 ^ 32 - d.head) % 2 ^ 32 ≤ 2 ^ d.lg ∧ (tail + 2 ^ 32 - c) % 2 ^ 32 < 2 ^ 31
    let desc (q o x : Nat) : Option State := s.writeDva .stream (k.qdtbase + 64 * q + o) (bytesOfNat 4 x)
    let need := s.linesNeeded [(k.qdtbase + 64 * q, 64)]
    let leaves (u t : State) : Prop := t = { u with cmds := t.cmds, health := t.health } ∧
      ∀ j, t.cmd j = if j = dvaKey then { u.cmd j with lines := [] } else u.cmd j
    let asks (t : State) : Prop := t = { s with cmds := t.cmds, fab := t.fab } ∧ t.cmd dvaKey = { s.cmd dvaKey with
      owed := (t.cmd dvaKey).owed, under := (t.cmd dvaKey).under } ∧ ∀ j, j ≠ dvaKey → t.cmd j = s.cmd j
    let counted : State := { s with intake := { k with badnotify := k.badnotify + 1 } }
    (v < 2 ^ 44 → v / 2 ^ 32 = q → need ≠ [] → ∃ t, exec (.notify slot v) s = .next t ∧ asks t) ∧
    (v < 2 ^ 44 → v / 2 ^ 32 = q → need = [] → s.qenabled q = none → ∃ t, exec (.notify slot v) s = .next t ∧ leaves counted t) ∧
    (v < 2 ^ 44 → v / 2 ^ 32 = q → need = [] → s.qenabled q = some d →
      (fits → ∀ i, s.slotOf q = some i → ∃ t, exec (.notify slot v) s = .next t ∧ leaves { s with intake := setSlot i { s.slot i with tail := tail } } t) ∧
      (fits → s.slotOf q = none → (∀ u, desc q 16 tail = some u → ∃ t, exec (.notify slot v) s = .next t ∧ leaves u t) ∧
        (desc q 16 tail = none → ∃ t, exec (.notify slot v) s = .next t ∧ leaves counted t)) ∧
      (¬ fits → ∃ t, exec (.notify slot v) s = .next t ∧ leaves counted t)) ∧
    (v < 2 ^ 64 → 2 ^ 44 ≤ v → ∃ t, exec (.notify slot v) s = .next t ∧ onlyIntake t { k with badnotify := k.badnotify + 1 }) ∧
    (q < 4096 → (s.slot slot).mapped = false → s.slotOf q = none →
      (need ≠ [] → ∃ t, exec (.queueMap q slot) s = .next t ∧ asks t) ∧
      (need = [] → s.qdesc q = some d → ∃ t, exec (.queueMap q slot) s = .next t ∧
        leaves { s with intake := setSlot slot ⟨true, q, d.tail, 0, s.cycle⟩ } t) ∧
      (need = [] → s.qdesc q = none → ∃ t, exec (.queueMap q slot) s = .next t ∧ leaves s t)) ∧
    ((s.slot slot).mapped = true → let o := desc (s.slot slot).queue 16 (s.slot slot).tail
      (o = none → exec (.queueUnmap slot) s = .next s) ∧ ∀ u, o = some u → ∃ t, exec (.queueUnmap slot) s = .next t ∧
        t = { u with intake := setSlot slot { s.slot slot with mapped := false, raised := 0 } }) ∧
    (∀ off p (l : List Byte), off < 2 ^ 34 →
      let a := k.apbase.toNat + off
      let w := State.apSpots true l.length a s
      let r := State.apSpots false l.length a s
      let spots := (List.range l.length).map fun i => Spot.here .hbm (p + i)
      (w.1 = some spots → ∃ t, exec (.hostApertureAccess off l.length (some l)) s = .next t ∧ t = { w.2 with mem := t.mem, health := t.health } ∧
        t.read .hbm p l.length = l ∧ SameOutside s t .hbm p l.length) ∧
      (w.1 = none → ∃ t, exec (.hostApertureAccess off l.length (some l)) s = .next t ∧
        t = { w.2 with health := t.health, intake := { w.2.intake with aperr := w.2.intake.aperr + 1 } }) ∧
      (r.1 = some spots → ∃ t, exec (.hostApertureAccess off l.length none) s = .next t ∧
        t = { r.2 with cmds := t.cmds, health := t.health, out := s.out ++ [.hostRead off (s.read .hbm p l.length)] } ∧
        (∀ j, j ≠ hostKey → t.cmd j = s.cmd j) ∧ t.cmd hostKey = { s.cmd hostKey with lines := [] }) ∧
      (r.1 = none → ∃ t, exec (.hostApertureAccess off l.length none) s = .next t ∧ t = { r.2 with
        health := t.health, intake := { r.2.intake with aperr := r.2.intake.aperr + 1 }, out := s.out ++ [.hostRead off (List.replicate l.length 255)] })) ∧
    (∃ t, exec (.registerWrite 0x100010 v) s = .next t ∧ onlyIntake t { k with apbase := BitVec.ofNat 64 (v / 2 ^ 34 % 2 ^ 14 * 2 ^ 34) }) ∧
    (∃ t, exec (.registerWrite 0x100018 v) s = .next t ∧ onlyIntake t { k with aperr := k.aperr &&& ~~~(BitVec.ofNat 64 v) }) ∧
    (∃ t, exec (.registerWrite 0x100020 v) s = .next t ∧ onlyIntake t { k with badnotify := k.badnotify &&& ~~~(BitVec.ofNat 64 v) }) ∧
    (∀ i, i < 128 → ∃ t, exec (.registerWrite (0x40000 + 8 * i) v) s = .next t ∧
      onlyIntake t { k with msix := Sparse.set 0 k.msix (0x8000 + i) (BitVec.ofNat 64 v) }) ∧
    ∃ t, exec (.registerWrite fwQdtbase v) s = .next t ∧ onlyIntake t { k with qdtbase := v % 2 ^ 48 }

/-- INTAKE_DECISION takes the record of an offering slot of the highest effective priority and advances its head. INTAKE_AGING
raises a slot that has offered for 64 us. LAUNCH_NOP completes OK, or MALFORMED; LAUNCH of a bad record completes MALFORMED, of an
image resident in the exact rectangle goes to its seeds, of the image of a LOADING field waits for it, of an accepted image with
no field in its rectangle makes the lowest free field LOADING; with 144 fields on the die it completes BUSY (the model's choice,
log entry 56), as it does for a FROZEN field, and for a LOADING field of another image. With another image, or RELOAD, it
reconfigures a LIVE field: the field's launches at work complete, and the accepted image's wave enters with the next version, its
cells and tiles awaiting it, or is held by the stop flag; behind a held wave the launch waits. UNLOAD of a frozen field completes
OK and unloads it. SEED_INJECT puts the next seed into its channel or cell input. LAUNCH_COMPLETE at rest completes the running
launch. Completing writes the 16-byte word, its elapsed time rounded down (the model's reading, log entry 28), and raises the
interrupt the record asks for. What the module reads from peers is asked for first (the model's choice, log entry 94). -/
def Obligations.LaunchesAreTakenAndComplete : Prop :=
  ∀ (s : State) (l : Launch), s.Canonical →
    let k := s.intake
    let drops (t : State) (i : Nat) : List Launch := t.intake.launches.filter fun x => decide (x.id ≠ i)
    let done (u t : State) (l : Launch) (status : Nat) : Prop :=
      let num := match l.fld with
        | some f => f % 256
        | none => 255
      let ver := match l.fld with
        | some f => (u.field f).ver
        | none => 0
      let w := status + num * 2 ^ 16 + l.die * 2 ^ 24 + ver * 2 ^ 32 + l.le 20 4 * 2 ^ 64 + min 0xFFFFFFFF ((u.cycle - l.taken) * 10 / 6144) * 2 ^ 96
      let a := l.cbase + l.le 16 4
      t = { u with
        mem := t.mem, fab := t.fab, cmds := t.cmds, intake := { u.intake with launches := drops u l.id }
        out := if l.irq && decide (l.vec ≠ 255) then u.out ++ [.msix l.vec] else u.out } ∧
      (l.loc = true → t.fab = u.fab ∧ t.cmds = u.cmds ∧ t.read .host a 16 = bytesOfNat 16 w ∧ SameOutside u t .host a 16) ∧
      (l.loc = false → let v := (u.writeDva .stream a (bytesOfNat 16 w)).getD u
        t.mem = v.mem ∧ t.fab = v.fab ∧ t.cmds = v.cmds)
    let leaves (u t : State) : Prop := t = { u with cmds := t.cmds, health := t.health } ∧
      ∀ j, t.cmd j = if j = dvaKey then { u.cmd j with lines := [] } else u.cmd j
    let asks (t : State) : Prop := t = { s with cmds := t.cmds, fab := t.fab } ∧ t.cmd dvaKey = { s.cmd dvaKey with
      owed := (t.cmd dvaKey).owed, under := (t.cmd dvaKey).under } ∧ ∀ j, j ≠ dvaKey → t.cmd j = s.cmd j
    let named (f : Nat) (st : LState) : List Launch := k.launches.map fun x => if x.id = l.id then { x with fld := some f, st := st } else x
    (s.linesNeeded s.intakeRanges ≠ [] → ∃ t, exec .intakeDecision s = .next t ∧ asks t) ∧
    (∀ i d r u, s.linesNeeded s.intakeRanges = [] → s.pkg.started = true → s.choose = some i → s.offer i = some (d, r) → s.putDesc (s.slot i).queue 20 4 (d.head + 1) = some u →
      (∀ j e r', j < 64 → s.offer j = some (e, r') → s.slotPrio j e ≤ s.slotPrio i d) ∧
      ∃ t, exec .intakeDecision s = .next t ∧ leaves { u with
        intake := { k with
          slots := Sparse.set {} k.slots i { s.slot i with raised := 0, since := s.cycle }
          lastSlot := Sparse.set 63 k.lastSlot (s.slotPrio i d) i, lastTaken := Sparse.set 0 k.lastTaken (s.slot i).queue (k.nextId + 1)
          nextId := k.nextId + 1, launches := k.launches ++ [⟨k.nextId, (s.slot i).queue, r, .started, none, 0, s.cycle, d.cbase, d.loc, d.vec⟩] } } t) ∧
    (∀ i d r, s.offer i = some (d, r) → s.slotPrio i d < 3 → (s.slot i).since + 64 * 2400 ≤ s.cycle →
      ∃ t, exec (.intakeAging i) s = .next t ∧ t = { s with intake := { k with
        slots := Sparse.set {} k.slots i { s.slot i with raised := (s.slot i).raised + 1, since := s.cycle } } }) ∧
    (s.launch? l.id = some l →
      (l.kind = 0 → ∃ t, exec (.launchNop l.id) s = .next t ∧ done s t l (if l.legal then 0 else 3)) ∧
      (l.st = .started → l.kind ≠ 0 → l.kind ≠ 2 →
        (l.legal = false → ∃ t, exec (.launch l.id) s = .next t ∧ done s t l 3) ∧
        (l.legal = true → ∀ f, s.overlaps l = [f] →
          (l.exact (s.field f) = false → ∃ t, exec (.launch l.id) s = .next t ∧ done s t l 2) ∧
          (l.exact (s.field f) = true → (s.field f).st = .frozen ∨ (s.field f).st = .loading ∧ ((s.field f).image ≠ l.le 8 8 ∨ (s.field f).imageG ≠ l.imgg) →
            ∃ t, exec (.launch l.id) s = .next t ∧ done (s.nameField l.id f .started) t { l with fld := some f } 6) ∧
          (l.exact (s.field f) = true → (s.field f).st = .loading → (s.field f).image = l.le 8 8 → (s.field f).imageG = l.imgg →
            ∃ t, exec (.launch l.id) s = .next t ∧ t = { s with intake := { k with launches := named f .waiting } }) ∧
          (l.exact (s.field f) = true → (s.field f).st = .live → (s.field f).image = l.le 8 8 → (s.field f).imageG = l.imgg → l.reload = false →
            ∃ t, exec (.launch l.id) s = .next t ∧ t = { s with intake := { k with launches := named f .seeding } })) ∧
        (l.legal = true → s.overlaps l = [] → s.linesNeeded (s.imageRanges l.die l.imgg (l.le 8 8)) = [] → s.freeField l.die = none →
          ∃ u t, exec (.launch l.id) s = .next t ∧ done s u l 6 ∧ leaves u t) ∧
        (l.legal = true → s.overlaps l = [] → s.linesNeeded (s.imageRanges l.die l.imgg (l.le 8 8)) ≠ [] →
          ∃ t, exec (.launch l.id) s = .next t ∧ asks t) ∧
        (l.legal = true → s.overlaps l = [] → s.linesNeeded (s.imageRanges l.die l.imgg (l.le 8 8)) = [] → ∀ im b n, s.freeField l.die = some n →
          let f := l.die * 256 + n
          let o := s.field f
          s.readImage l.die l.imgg (l.le 8 8) = some b → s.judgeImage l.die f (l.le 6 1) (l.le 7 1) (some b) = .ok im →
          ∃ t, exec (.launch l.id) s = .next t ∧ t.intake = { k with launches := named f .loading } ∧ (∀ g, g ≠ f → t.field g = s.field g) ∧
            t.field f = {
              st := .loading, x0 := l.le 4 1, y0 := l.le 5 1, w := im.w, h := im.h, ver := im.ver, image := l.le 8 8, imageG := l.imgg
              coldImage := l.le 8 8, coldG := l.imgg, gwbase := im.gwbase, gwsize := im.gwsize, strict := !im.lenient, step := o.ceil
              ceil := o.ceil, wave := some ⟨b.take (leAt b 40 8), .launch l.id, true, false⟩ } ∧
            ∀ c ∈ t.fieldCores f, (t.tile c).fld = some (f % 256) ∧ (t.tile c).ver = im.ver)) ∧
      (∀ f, let x := s.field f
        let need := s.linesNeeded (s.imageRanges l.die l.imgg (l.le 8 8))
        l.st = .reconfig ∧ l.fld = some f ∨ l.st = .started ∧ l.kind ≠ 0 ∧ l.kind ≠ 2 ∧ l.legal = true ∧ s.overlaps l = [f] ∧ l.exact x = true ∧
          x.st = .live ∧ (x.image ≠ l.le 8 8 ∨ x.imageG ≠ l.imgg ∨ l.reload = true) →
        (x.st ≠ .live ∨ (s.heldWave f).isSome = true → ∃ t, exec (.launch l.id) s = .next t ∧
          t = { s with intake := { k with launches := named f .reconfig } }) ∧
        (x.st = .live → s.heldWave f = none → need ≠ [] → ∃ t, exec (.launch l.id) s = .next t ∧
          t = { s with cmds := t.cmds, fab := t.fab, intake := { k with launches := named f .reconfig } }) ∧
        (x.st = .live → s.heldWave f = none → need = [] → ∀ im b, s.readImage l.die l.imgg (l.le 8 8) = some b →
          s.judgeImage l.die f x.w x.h (some b) = .ok im → (∀ w, w < 8 → bitB ((s.die (f / 256)).reg (0x132 + 4 * w)) 0 = false) →
          let wave : Wave := ⟨b.take (leAt b 40 8), .launch l.id, false, false⟩
          let m := s.nameField l.id f .loading
          (x.armed = true → ∃ t, exec (.launch l.id) s = .next t ∧ leaves { m with fields := t.fields } t ∧ (∀ g, g ≠ f → t.field g = s.field g) ∧
            t.field f = { x with held := some wave, heldImage := (l.le 8 8, l.imgg) }) ∧
          (x.armed = false → ∃ t, exec (.launch l.id) s = .next t ∧ (∀ g, g ≠ f → t.field g = s.field g) ∧
            t.field f = { x with st := .loading, ver := (x.ver + 1) % 65536, image := l.le 8 8, imageG := l.imgg, wave := some wave, held := none } ∧
            (∀ c, t.cell c = if s.cellIn f c = true then { s.cell c with loaded := false } else s.cell c) ∧
            (∀ c, t.tile c = if c ∈ s.fieldCores f then { s.tile c with declared := false } else s.tile c) ∧
            t.intake = { k with launches := m.intake.launches.filter fun y => decide (y.id ∉ m.launchesOf f Launch.atWork) } ∧
            t.tasks = s.tasks ∧ t.locks = s.locks ∧ t.dies = s.dies ∧
            (m.launchesOf f Launch.atWork = [] → leaves { m with fields := t.fields, cells := t.cells, tiles := t.tiles } t)))) ∧
      (l.st = .waiting → l.kind ≠ 0 → exec (.launch l.id) s = .next s) ∧
      (∀ f, l.kind = 2 → (s.die (f / 256)).traceOn = false → l.legal = true → s.overlaps l = [f] → l.exact (s.field f) = true → (s.field f).st = .frozen →
        s.launchesOf f (fun x => decide (x.id ≠ l.id)) = [] → ∃ u t, exec (.unload l.id) s = .next t ∧ done s u { l with fld := some f } 0 ∧
          t.mem = u.mem ∧ t.intake = u.intake ∧ t.out = u.out ∧ (∀ g, g ≠ f → t.field g = s.field g) ∧
          t.field f = { step := (s.field f).step, ceil := (s.field f).ceil, wwlim := (s.field f).wwlim }) ∧
      (∀ f, l.fld = some f → l.st = .seeding → (s.field f).st = .live →
        let e := l.seed l.nextSeed
        let core := f / 256 * 256 + ((s.field f).y0 + leAt e 1 1) * 12 + (s.field f).x0 + leAt e 0 1
        let n := leAt e 2 1 - 0x40
        (l.nseed ≤ l.nextSeed → ∃ t, exec (.seedInject l.id) s = .next t ∧ t = { s with
          intake := { k with launches := k.launches.map fun x => if x.id = l.id then { x with st := .running } else x } }) ∧
        (l.nextSeed < l.nseed → 0x40 ≤ leAt e 2 1 → ((s.tile core).vc n).length < 8 → s.boundTo core n = none →
          ∃ t, exec (.seedInject l.id) s = .next t ∧ (∀ c, c ≠ core → t.tile c = s.tile c) ∧
            t.tile core = { s.tile core with vcs := Sparse.set [] (s.tile core).vcs n ((s.tile core).vc n ++ [BitVec.ofNat 64 (leAt e 8 8)]) } ∧
            t = { s with tiles := t.tiles, intake := { k with launches := k.launches.map fun x => if x.id = l.id then
              { x with nextSeed := x.nextSeed + 1, st := if l.nseed ≤ x.nextSeed + 1 then .running else .seeding } else x } }) ∧
        (l.nextSeed < l.nseed → leAt e 2 1 < 0x40 → s.portTakes core (leAt e 2 1) (s.field f).ver = some true →
          let c := (portCell core (leAt e 2 1)).1
          let i := (portCell core (leAt e 2 1)).2
          let w : LinkWord := { data := BitVec.ofNat 128 (leAt e 8 8), valid := true, ver := (s.field f).ver, time := s.cycle }
          ((s.cell c).loaded = true → (s.cell c).ver = (s.field f).ver) → s.mirrored none c = false →
          ∃ t, exec (.seedInject l.id) s = .next t ∧ t = { s with cells := t.cells, intake := t.intake } ∧ (∀ j, j ≠ c → t.cell j = s.cell j) ∧
            t.cell c = { s.cell c with inp := Sparse.set [] (s.cell c).inp i ((s.cell c).fifo i ++ [w]) } ∧
            t.intake = { k with launches := k.launches.map fun x => if x.id = l.id then
              { x with nextSeed := x.nextSeed + 1, st := if l.nseed ≤ x.nextSeed + 1 then .running else .seeding } else x })) ∧
      ∀ f, l.fld = some f → l.st = .running → (s.field f).ended = false → s.atRest f = true →
        s.launchesOf f (fun x => decide (x.st = .running)) = [l.id] → ∃ t, exec (.launchComplete l.id) s = .next t ∧ done s t l 0)

/-- POWER_ON boots slot A's image, else slot B's, starting task 0 of each management core on it, or leaves FWSTATE 2; flash and
host memory, the bytes from 2^56 up, keep their contents and all else is as at reset (the model's choice, log entry 78). READY of
the last die makes FWSTATE 1; HALT makes it 2. ATTREQ takes a good buffer unless one is busy, and ATTESTATION_COMPLETE writes 768
bytes there. STEPSEL sets a field's ceiling, and its step is at once no faster; JUNCTION_100C slows a die's fields one step,
POWER_CAP_EXCEEDED the fields at the fastest step of one die (which die is the model's choice, log entry 41), STEP_RECOVERY
quickens those below their ceiling. JUNCTION_110C and PCIE_LINK_DOWN freeze every LIVE field with cause 0, at once where none of
its returns is outstanding and no fault is freezing it; the junction temperature is at least what the event says.
PCIE_LINK_RETRAIN restores the link. SNAP copies the monitors, CLR clears them, and this cycle's samples are in neither. -/
def Obligations.PackageBootsReportsAndLimits : Prop :=
  ∀ (s : State) (die v : Nat), s.Canonical → die < 4 →
    let d := s.die die
    let fwst (t : State) (n : Nat) : Prop := t = { s with pkg := { s.pkg with fwstate := n } }
    let onlyDie (t : State) (x : Die) : Prop := t = { s with dies := t.dies } ∧ (∀ j, j ≠ die → t.die j = s.die j) ∧ t.die die = x
    let frozen (t : State) : Prop := ∀ f, (s.field f).ver = (t.field f).ver ∧ ((s.field f).st ≠ .live → (t.field f).st = (s.field f).st) ∧
      ((s.field f).st = .live → (s.field f).closing = none → s.returnsOpen f = false → (t.field f).st = .frozen ∧ (t.field f).cause = some 0)
    let steps (t : State) (g : Nat → Field → Nat) : Prop := t = { s with fields := t.fields, pkg := t.pkg } ∧
      ∀ f, t.field f = if (s.field f).st = .unloaded then s.field f else { s.field f with step := g f (s.field f) }
    let booted (slot : Nat) (l : List Byte) : Prop := ∃ t, exec .powerOn s = .next t ∧ t.pkg.started = true ∧ t.pkg.fwstate = 0 ∧
      t.pkg.slot = slot ∧ t.pkg.svn = leAt l 8 4 ∧ t.pkg.fwHash = sha512 l ∧ t.fields = [] ∧ t.fab = {} ∧
      (∀ p, 2 ^ 56 ≤ p → t.mem.byte p = s.mem.byte p) ∧
      ∀ i, i < 4 → t.read (.istore (mgmtCore i)) 0 (l.length - 512) = l.drop 512 ∧
        (t.tile (mgmtCore i)).pages = BitVec.ofNat 16 (2 ^ ((l.length - 512) / 4096) - 1) ∧ ∀ c, c < 8 → t.task (taskAt (mgmtCore i) c) =
          { st := if c = 0 then .runnable else .parked, kind := if c = 0 then .none else .endK, vc := some c }
    (∀ l, s.powerCycle.bootImage 0 = some l → booted 0 l) ∧
    (∀ l, s.powerCycle.bootImage 0 = none → s.powerCycle.bootImage 1 = some l → booted 1 l) ∧
    (s.powerCycle.bootImage 0 = none → s.powerCycle.bootImage 1 = none →
      ∃ t, exec .powerOn s = .next t ∧ t.pkg.started = false ∧ t.pkg.fwstate = 2 ∧ t.tasks = [] ∧ ∀ p, 2 ^ 56 ≤ p → t.mem.byte p = s.mem.byte p) ∧
    (∃ t, exec (.ready die) s = .next t ∧ t = { s with dies := t.dies, pkg := t.pkg } ∧ t.die die = { d with ready := true } ∧
      (∀ j, j ≠ die → t.die j = s.die j) ∧ t.pkg = { s.pkg with fwstate :=
        if s.pkg.fwstate = 0 ∧ ((List.range 4).all fun j => decide (j = die) || (s.die j).ready) then 1 else s.pkg.fwstate }) ∧
    (∃ t, exec (.halt die) s = .next t ∧ fwst t 2) ∧
    (∃ t, exec (.attreq die v) s = .next t ∧ onlyDie t (if d.attBusy then { d with attResult := 2 }
      else if s.attOk die (v % 2 ^ 32) then { d with attBusy := true, attResult := 0, attAddr := v % 2 ^ 32 } else { d with attResult := 1 })) ∧
    (d.attBusy = true → s.attOk die d.attAddr = true →
      let o := d.attAddr - 0x10000000
      ∃ t, exec (.attestationComplete die) s = .next t ∧ t = { s with
          mem := t.mem, fields := t.fields, dies := t.dies, pkg := { s.pkg with reports := s.pkg.reports + 1 } } ∧
        t.die die = { d with attBusy := false } ∧ (∀ j, j ≠ die → t.die j = s.die j) ∧
        t.read (.granary die) o 768 = s.report768 (s.read (.granary die) (o + 16) 64) ∧ SameOutside s t (.granary die) o 768) ∧
    (∃ t, exec (.stepselCeiling die v) s = .next t ∧ t = { s with fields := t.fields, dies := t.dies } ∧
      t.die die = { d with stepField := v % 256 } ∧ (∀ j, j ≠ die → t.die j = s.die j) ∧
      let f := die * 256 + v % 256
      let x := s.field f
      let c := v / 2 ^ 8 % 4
      t.field f = { x with ceil := c, step := max x.step c } ∧ ∀ j, j ≠ f → t.field j = s.field j) ∧
    (∃ t, exec (.junction100C die) s = .next t ∧ t.pkg = { s.pkg with tj := max s.pkg.tj 100 } ∧ steps t fun f x => if f / 256 = die then min 3 (x.step + 1) else x.step) ∧
    (s.dieAt s.fastest die = true → (∀ i, i < (die + 4 - s.pkg.dropDie % 4) % 4 → s.dieAt s.fastest ((s.pkg.dropDie + i) % 4) = false) →
      ∃ t, exec .powerCapExceeded s = .next t ∧ t.pkg = { s.pkg with dropDie := (die + 1) % 4 } ∧
        steps t fun f x => if f / 256 = die ∧ x.step = s.fastest then min 3 (x.step + 1) else x.step) ∧
    (∃ t, exec .stepRecovery s = .next t ∧ t.pkg = s.pkg ∧ steps t fun _ x => if x.ceil < x.step then x.step - 1 else x.step) ∧
    (∃ t, exec .junction110C s = .next t ∧ frozen t ∧ t.pkg = { s.pkg with fwstate := 2, tj := max s.pkg.tj 110 } ∧ t.intake = s.intake) ∧
    (∃ t, exec .pcieLinkDown s = .next t ∧ frozen t ∧ t.pkg = s.pkg ∧ t.intake = { s.intake with linkUp := false }) ∧
    exec .pcieLinkRetrain s = .next { s with intake := { s.intake with linkUp := true } } ∧
    exec .hctlSnap s = .next { s with health := { s.health with snap := s.health.live, snapTime := s.cycle } } ∧
    exec .hctlClr s = .next { s with health := { s.health with live := [] } }

/-- With FSTAT not BUSY: each operation on an UNLOADED field ends with result 1, and one that needs a frozen field, on a LIVE one,
with 2 (for ATTACH and DETACH the model's reading, log entry 44). PREEMPT of a settled LIVE field freezes it, captures the results
in flight of its RUNNABLE tasks, lets its streams give up the beats that wait for a peer's lines, and ends 0, or is BUSY until the
field settles. EVICT does the same, writes the save image at the save area, and gives up the field's tiles, at once, or stays BUSY
while peers owe answers; with no room to write, it ends 3. RESUME makes a frozen field LIVE, or LOADING while a wave is in it (the
model's choice, log entry 60). RESTORE of a good save image leaves the field in place and FROZEN; lines of peers are asked for
first (the model's choice, log entry 94). TEARDOWN unloads it. ATTACH and DETACH stop and restart its dump timer, ARM and DISARM
set and clear its stop flag. Nothing else of other fields changes. -/
def Obligations.FieldCommandsAct : Prop :=
  ∀ (s : State) (die num : Nat), s.Canonical → die < 4 → num < 256 → bitB (s.die die).fstat.toNat 31 = false → (s.die die).traceOn = false →
    let d := s.die die
    let f := die * 256 + num
    let x := s.field f
    let started (op : Nat) : State := s.modDie die fun d => d.setReg 0x110 (op * 256 + num)
    let reports (t : State) (op fstat : Nat) : Prop := (∀ j, j ≠ die → t.die j = s.die j) ∧
      t.die die = { d.setReg 0x110 (op * 256 + num) with fstat := BitVec.ofNat 32 (op * 256 + fstat) }
    let ends (t : State) (op r : Nat) (y : Field) : Prop := reports t op r ∧ (∀ g, g ≠ f → t.field g = s.field g) ∧ t.field f = y
    let only (t : State) (op r : Nat) (y : Field) : Prop := t = { s with dies := t.dies, fields := t.fields } ∧ ends t op r y
    let run (op : Nat) : Instr := match op with
      | 1 => .preempt die num
      | 2 => .evict die num
      | 3 => .resume die num
      | 4 => .restore die num
      | 5 => .teardown die num
      | 6 => .attach die num
      | 7 => .detach die num
      | 8 => .arm die num
      | _ => .disarm die num
    let frozen : Field := { x with st := .frozen, stopping := false, cause := none, dump := none, frozenAt := s.cycle }
    (x.st = .unloaded → ∀ op, 1 ≤ op → op ≤ 9 → ∃ t, exec (run op) s = .next t ∧ only t op 1 x) ∧
    (x.st = .live → ∀ op, 3 ≤ op → op ≤ 7 → ∃ t, exec (run op) s = .next t ∧ only t op 2 x) ∧
    (x.st = .live → s.settled f = false → ∀ op, op = 1 ∨ op = 2 → ∃ t, exec (run op) s = .next t ∧ only t op (2 ^ 31) { x with stopping := true }) ∧
    (x.st = .live → s.settled f = true → x.closing = none → (∀ tk ∈ s.fieldTasks f, (s.task tk).asyncs = []) →
      ∃ t, exec (.preempt die num) s = .next t ∧ ends t 1 0 frozen ∧
        t = { s with dies := t.dies, fields := t.fields, tasks := t.tasks, cmds := t.cmds } ∧ (∀ tk, tk ∉ s.fieldTasks f → t.task tk = s.task tk) ∧
        (∀ tk ∈ s.fieldTasks f, t.task tk =
          if (s.task tk).forceRets.st = .runnable then (s.task tk).forceRets.capture else (s.task tk).forceRets) ∧
        (∀ c, t.cmd c = if s.holds f (coreOf (c / 16)) then
            { s.cmd c with
              walk := none, lines := [], owed := (s.cmd c).owed.filter (·.line.isNone), under := []
              xl := if (s.cmd c).stale then none else (s.cmd c).xl, stale := false }
          else s.cmd c) ∧
        let saved := t.writeDva .stream (t.saveArea die) (t.saveImage f) (evictKey die)
        (saved = none → ∃ u, exec (.evict die num) s = .next u ∧ ends u 2 3 frozen) ∧
        ∀ v, saved = some v →
          ((v.cmd (evictKey die)).owed = [] → ∃ u, exec (.evict die num) s = .next u ∧ reports u 2 0 ∧ u.mem = v.mem ∧
            (∀ g, g ≠ f → u.field g = s.field g) ∧ (u.field f).st = .frozen ∧ (u.field f).evicted = true ∧
            ∀ c ∈ s.fieldCores f, (u.tile c).fld = none) ∧
          ((v.cmd (evictKey die)).owed ≠ [] → ∃ u, exec (.evict die num) s = .next u ∧ u.mem = v.mem ∧ u.fab = v.fab ∧ ends u 2 (2 ^ 31) frozen ∧
            u.cmd (evictKey die) = { v.cmd (evictKey die) with st := .running, buf := t.saveImage f })) ∧
    (x.st = .frozen → x.ended = false → x.evicted = false → x.dstop = false →
      (s.beyond die fun r => (decide (r.kind = 2) || decide (r.kind = 6)) && decide (r.field = num)) = false → ∃ t, exec (.resume die num) s = .next t ∧
        t = { s with dies := t.dies, fields := t.fields, cells := t.cells } ∧
        ends t 3 0 { x with st := if x.wave.isSome then .loading else .live, dump := none, cause := none, stopping := false } ∧
        ∀ k, t.cell k = if s.cellIn f k then { s.cell k with lastFire := (s.cell k).lastFire.map (· + (s.cycle - x.frozenAt)) } else s.cell k) ∧
    (x.st = .frozen → x.evicted = true → s.linesNeeded (s.restoreRanges f) ≠ [] → ∃ t, exec (.restore die num) s = .next t ∧
      t = { s with dies := t.dies, cmds := t.cmds, fab := t.fab } ∧ reports t 4 (2 ^ 31) ∧ ∀ j, j ≠ dvaKey → t.cmd j = s.cmd j) ∧
    (∀ u, x.st = .frozen → x.evicted = true → s.linesNeeded (s.restoreRanges f) = [] → (started 4).restoreField f = .ok u →
      ∃ t, exec (.restore die num) s = .next t ∧ t = { u with dies := t.dies, health := t.health, cmds := t.cmds } ∧
      (∀ j, t.cmd j = if j = dvaKey then { u.cmd j with lines := [] } else u.cmd j) ∧ (t.field f).st = .frozen ∧ (t.field f).evicted = false ∧ (t.die die).fstat = BitVec.ofNat 32 0x400) ∧
    (x.st = .frozen → s.launchesOf f (fun _ => true) = [] → ∃ t, exec (.teardown die num) s = .next t ∧ t.mem = s.mem ∧ t.intake = s.intake ∧
      ends t 5 0 { step := x.step, ceil := x.ceil, wwlim := x.wwlim }) ∧
    (x.st = .frozen → ∃ t, exec (.attach die num) s = .next t ∧ only t 6 0 { x with dump := none }) ∧
    (x.st = .frozen → ∃ t, exec (.detach die num) s = .next t ∧ only t 7 0 { x with dump := if x.cause.isSome then some s.cycle else none }) ∧
    (x.st ≠ .unloaded → ∃ t, exec (.arm die num) s = .next t ∧ only t 8 0 { x with armed := true }) ∧
    (x.st ≠ .unloaded → x.held = none → ∃ t, exec (.disarm die num) s = .next t ∧ only t 9 0 { x with armed := false })

/-- FAULT_RECORD_WRITE of a waiting record, the ring open at a granary address, writes its 64 bytes at the tail, advances the tail
and sends its number to the management core. DUMP_LIMIT_EXPIRY of a due field with no launch records kind 7 and unloads it.
DEBUG_STOP of an armed field that rests with a held wave freezes it with a record of kind 6. STRCTL_RESUME makes a paused stream
run again, STRCTL_KILL kills one with no write outstanding, and marks one with some to be killed. DWDATA steps the selector's
offset; a write to a task or cell item changes its part. MIGRELH translates and serves a request held at the page again, and
changes nothing where none is held. -/
def Obligations.RingStopsStreamsAndWindowAct : Prop :=
  ∀ (s : State) (die f v : Nat), s.Canonical → die < 4 →
    let d := s.die die
    let onlyDie (t : State) (y : Die) : Prop := (∀ j, j ≠ die → t.die j = s.die j) ∧ t.die die = y
    let fieldRecord (k : Nat) : FRec := ⟨k, .none, f / 256, f % 256, (s.field f).ver, 255, 255, 0, 255, 255, 0, 0, 0, s.cycle⟩
    let record (t : State) (k : Nat) : Prop := (t.die (f / 256)).recs = (s.die (f / 256)).recs ++ [fieldRecord k]
    (∀ r rest,
      let n := d.frtail.toNat
      let a := d.reg 0x108 + 64 * (n % 2 ^ (d.reg 0x109 / 2 ^ 12 % 16))
      d.recs = r :: rest → d.ringOpen = true → 0x10000000 ≤ a → a + 64 ≤ 0x16000000 → ∃ t, exec (.faultRecordWrite die) s = .next t ∧
        t = { s with
          mem := t.mem, dies := t.dies
          mesh := s.mesh ++ [⟨none, die * 256 + 255, d.reg 0x109 % 32, BitVec.ofNat 64 n, false, 0, 4⟩] } ∧
        onlyDie t { d with recs := rest, frtail := d.frtail + 1 } ∧ t.read (.granary die) (a - 0x10000000) 64 = r.bytes n ∧
        SameOutside s t (.granary die) (a - 0x10000000) 64) ∧
    ((s.die (f / 256)).traceOn = false → s.dumpDue f = true → s.launchesOf f (fun _ => true) = [] →
      ∃ t, exec (.dumpLimitExpiry f) s = .next t ∧ t.mem = s.mem ∧ record t 7 ∧ (∀ g, g ≠ f → t.field g = s.field g) ∧
        t.field f = { step := (s.field f).step, ceil := (s.field f).ceil, wwlim := (s.field f).wwlim }) ∧
    (∀ w, (s.die (f / 256)).traceOn = false → s.heldWave f = some w → (s.field f).st = .live → (s.field f).armed = true →
      s.returnsOpen f = false → s.restBut f w.scfg = true → s.linksEmpty f = true → (∀ tk ∈ s.fieldTasks f, (s.task tk).asyncs = []) →
      ∃ t, exec (.debugStop f) s = .next t ∧ t.mem = s.mem ∧ t.cells = s.cells ∧ record t 6 ∧ (∀ g, g ≠ f → t.field g = s.field g) ∧
        t.field f = { s.field f with st := .frozen, stopping := false, cause := none, dump := none, frozenAt := s.cycle, dstop := true }) ∧
    (∀ tile ctx entry, tile < 144 → ctx < 8 → entry < 16 → v = tile + ctx * 2 ^ 8 + entry * 2 ^ 12 →
      let cm := ((die * 256 + tile) * 8 + ctx) * 16 + entry
      let c := s.cmd cm
      c.st = .paused → (s.strWaits die tile ctx entry) = false →
      let now (t : State) (y : Cmd) : Prop := t = { s with cmds := t.cmds } ∧ (∀ j, j ≠ cm → t.cmd j = s.cmd j) ∧ t.cmd cm = y
      (∃ t, exec (.strctlResume die v) s = .next t ∧ now t { c with st := .running, fault := 0, xl := none }) ∧
      (c.op ≤ 7 → (∀ o ∈ c.owed, o.line ≠ none) → ∃ t, exec (.strctlKill die v) s = .next t ∧
        now t { c with
          st := .killed, count := c.elems c.pos, walk := none, xl := none, lines := [], under := [], stale := false, owed := [], redo := []
          kill := false }) ∧
      (c.op ≤ 7 → (∃ o ∈ c.owed, o.line = none) → ∃ t, exec (.strctlKill die v) s = .next t ∧ now t { c.beatOver with kill := true, walk := none })) ∧
    (∀ tile e, tile < 144 → s.pausedLandings (die * 256 + tile) = [e] → s.strWaits die tile 8 0 = false →
      ∃ t, exec (.strctlKill die (tile + 2 ^ 11)) s = .next t ∧ (t.entry e).fin = some 4 ∧ (t.entry e).paused = false) ∧
    (let sel := d.reg 0x120
     let tk := (die * 256 + sel % 256) * 8 + sel / 2 ^ 8 % 256
     let k := (die * 256 + sel % 256) * 256 + sel / 2 ^ 8 % 256
     let o := sel / 2 ^ 18
     let y := d.setReg 0x120 (sel % 2 ^ 18 + (o + 1) % 2 ^ 14 * 2 ^ 18)
     (∃ t, exec (.dwdataAccess die none) s = .next t ∧ t = { s with dies := t.dies } ∧ onlyDie t y) ∧
     ∀ l, s.dwItem die sel = some l → 4 * o < l.length →
       let l' := l.take (4 * o) ++ bytesOfNat 4 v ++ l.drop (4 * o + 4)
       (sel / 2 ^ 16 % 4 = 0 → (4 ≤ o ∧ o ≤ 183) ∨ (300 ≤ o ∧ o ≤ 315) → ∃ t, exec (.dwdataAccess die (some v)) s = .next t ∧ onlyDie t y ∧
         t = { s with dies := t.dies, tasks := t.tasks } ∧ (∀ j, j ≠ tk → t.task j = s.task j) ∧ t.task tk = (s.task tk).readParts l') ∧
       (sel / 2 ^ 16 % 4 = 1 → 4 ≤ o → o ≤ 53 → ∃ t, exec (.dwdataAccess die (some v)) s = .next t ∧ onlyDie t y ∧
         t = { s with dies := t.dies, cells := t.cells } ∧ (∀ j, j ≠ k → t.cell j = s.cell j) ∧ t.cell k = (s.cell k).readParts l')) ∧
    let page := v % 65536 * 2 ^ 32 + d.migrell.toNat / 65536 * 65536
    let rest := s.fab.heldq.filter fun h => decide (h.page ≠ page)
    ((∀ h ∈ s.fab.heldq, h.page ≠ page) → exec (.migrelh die v) s = .next s) ∧
    ∀ n tk ctl a data old line u, (∀ w, w < 8 → bitB ((s.die (dieOf (coreOf tk))).reg (0x132 + 4 * w)) 0 = false) → (s.fab.heldq.filter fun h => decide (h.page = page)) = [⟨page, none, .request n tk ctl a data⟩] →
      State.serve { s with fab := { s.fab with heldq := rest } } none tk ctl a data = .done old line u →
      ∃ t, exec (.migrelh die v) s = .next t ∧ t = { u with tasks := t.tasks, health := t.health } ∧ (∀ j, j ≠ tk → t.task j = u.task j) ∧ t.task tk = { u.task tk with
        reqs := (u.task tk).reqs.map fun r => if r.num = n then { r with heldPage := false, resp := some (0, old) } else r }

/-- In DOWN or DARK, APPLY of a table it accepts takes the module's identifier, group, port, epoch and schedule from it, and ends
what was held for members that left; KEY with a newer epoch makes it the key in use, counters from 0; LOCK with a table and a key
enters LOCKING with 8 wavelength groups, none dead, on every fibre. In OPEN, KEY for 64 cycles on keeps the next key. OPEN enters
OPEN from READY or DRAINED, DRAIN enters DRAINING from OPEN, DARK enters DARK from READY or DRAINED. LOCK_COMPLETE with a locked
fibre enters READY, the others dead both ways (what LOCK starts from, and both ways, are the model's reading, log entry 23). A
switch of keys that is due comes before a KEY. Any command in another state, or with a record that is not good, sets ERR and
changes nothing else but the health monitors that count its reads. -/
def Obligations.FabricCommandsChangeState : Prop :=
  ∀ (s : State), s.Canonical →
    let f := s.fab
    let refuses (i : Instr) : Prop := ∃ h, exec i s = .next { s with fab := { f with err := true }, health := h }
    let gives (i : Instr) (g : Fabric) : Prop := exec i s = .next { s with fab := g }
    let reads (i : Instr) (g : Fabric) : Prop := ∃ h, exec i s = .next { s with fab := g, health := h }
    let rest : Prop := f.st = .down ∨ f.st = .dark
    let table := (s.hbmBytes f.gtaddr 4112).bind f.tableOf
    let g := s.keySwitch.fab
    let fresh (k : Key) : Prop := ∀ c, g.cur = some c → c.epoch < k.epoch
    let keyRefused : Prop := ∃ h, exec .key s = .next { s with fab := { g with err := true }, health := h }
    (∀ T, rest → table = some T → ∃ t : State, exec .applyTable s = .next t.loseHeld ∧ t.fab.modid = T.ports.getD T.port 0xFFFF ∧ t.fab.group = T.group ∧
      t.fab.port = T.port ∧ t.fab.epoch = T.epoch ∧ t.fab.ports = T.ports ∧ t.fab.sched = T.sched ∧ t.fab.applied = true ∧ t.fab.err = false ∧
      t.fab.st = f.st ∧ t.fab.cur = f.cur ∧ t.fab.cycle = f.cycle) ∧
    (¬ rest ∨ table = none → refuses .applyTable) ∧
    (∀ l, s.hbmBytes f.keyaddr 80 = some l →
      let k : Key := ⟨leAt l 0 4, (l.drop 16).take 64, leAt l 8 8⟩
      (fresh k → rest → reads .key { g with
        cur := some k, nxt := none, prev := none, keywarn := false, err := false
        fibres := Sparse.mapAll {} (fun _ (x : Fibre) => { x with ctr := 0 }) g.fibres }) ∧
      (fresh k → f.st = .isOpen → f.cycle + 64 ≤ k.act → reads .key { g with nxt := some k, err := false }) ∧
      (fresh k → f.st = .isOpen → k.act < f.cycle + 64 → keyRefused) ∧ (¬ fresh k → keyRefused) ∧
      (¬ rest → f.st ≠ .isOpen → keyRefused)) ∧
    (s.hbmBytes f.keyaddr 80 = none → keyRefused) ∧
    (∀ k, f.nxt = some k → k.act ≤ f.cycle → g = { f with
      cur := some k, nxt := none, prev := f.cur, keywarn := false
      fibres := Sparse.mapAll {} (fun _ (x : Fibre) => { x with ctr := 0 }) f.fibres }) ∧
    ((∀ k, f.nxt = some k → f.cycle < k.act) → g = f) ∧
    (rest → f.applied = true → f.cur.isSome = true → gives .lock { f with
      st := .locking, err := false, lockCycle := none
      fibres := Sparse.mapAll {} (fun _ (x : Fibre) =>
        { x with txl := 8, txdead := false, rxdead := false, told := false, heard := false, shed := 0 }) f.fibres }) ∧
    (¬ rest ∨ f.applied = false ∨ f.cur = none → refuses .lock) ∧
    (f.st = .ready ∨ f.st = .drained → gives .openFabric { f with
      st := .isOpen, err := false
      peers := Sparse.mapAll {} (fun _ (p : Peer) =>
        { p with marked := false, marker := false, silent := 0, out := p.out.map fun k => if k.refused || decide (k.sends = 0) then { k with due := true } else k }) f.peers }) ∧
    (¬ (f.st = .ready ∨ f.st = .drained) → refuses .openFabric ∧ refuses .dark) ∧
    (f.st = .isOpen → gives .drain { f with
      st := .draining, err := false, drainFrom := f.cycle, peers := Sparse.mapAll {} (fun _ (p : Peer) => { p with marked := false }) f.peers }) ∧
    (f.st ≠ .isOpen → refuses .drain) ∧
    (f.st = .ready ∨ f.st = .drained → gives .dark { f with
      st := .dark, err := false, peers := Sparse.mapAll {} (fun _ (p : Peer) => { p with marked := false, marker := false }) f.peers }) ∧
    (f.st = .locking → (f.fibres.any fun x => x.2.locked) = true → gives .lockComplete { f with
      st := .ready, cycle := f.lockCycle.getD f.cycle, lockCycle := none
      fibres := (List.range 64).foldl (fun m i =>
        let x : Fibre := Sparse.get {} m i
        if x.locked then m else Sparse.set {} m i { x with txdead := true, rxdead := true }) f.fibres })

/-- While no key switch or erasure is due, ROTOR_SLOT under a key, on a living fibre, sends as many flits as the fibre's
wavelengths carry, the first a control flit, in a slot that joins it to a member and in one that joins it to none, and its counter
advances by as many. ROTOR_CYCLE_BOUNDARY counts the cycle, sheds wavelengths and ages packets. FLIT_RECEIVE counts a failed tag,
drops a repeated counter, and keeps the counter of a good flit. PACKET_RESEND_TIMEOUT sends a late packet again, and after four
sends ends the peer, as MEMBER_UNREACHABLE does for a silent one. KEY_ACTIVATION and OLD_KEY_ERASE change the keys,
WAVELENGTH_DEGRADE marks a fibre, FIBRE_GOES_DEAD ends its light. -/
def Obligations.RotorSlotsCarryFlits : Prop :=
  ∀ (s : State) (fibre slot m : Nat), s.Canonical → fibre < 64 → slot < 16 →
    let f := s.fab
    let x := f.fibre fibre
    let p := f.peer m
    let gives (i : Instr) (g : Fabric) : Prop := exec i s = .next { s with fab := g }
    let lit : Prop := f.st ≠ .down ∧ f.st ≠ .dark
    let gone (i : Instr) : Prop := ∃ t : State, exec i s = .next t.loseHeld ∧ (t.fab.peer m).unreachable = true ∧ (t.fab.peer m).out = [] ∧
      (t.fab.peer m).ctl = [] ∧ (t.fab.peer m).granted = []
    let still : Prop := (∀ k, f.nxt = some k → f.cycle < k.act) ∧ ∀ k, f.cur = some k → f.prev.isSome = true → f.cycle < k.act + 16
    let told := Sparse.modify {} f.fibres fibre fun y => { y with ctr := y.ctr + x.flits, told := true }
    let first (k : Key) (q : Peer) (gs : List (Nat × Nat)) : Output :=
      .flit fibre slot (flitBytes k x.ctr f.modid fibre 1 f.group (f.control x q gs))
    let timed : Prop := f.st = .isOpen ∨ f.st = .draining
    (∀ k, lit → still → f.cur = some k → f.pairing fibre slot = some m → x.flits ≠ 0 → ∃ t l gs, exec (.rotorSlot fibre slot) s = .next t ∧
      t = { s with fab := t.fab, out := s.out ++ l, health := t.health } ∧ l.length = x.flits ∧ l.head? = some (first k p gs) ∧
      t.fab.fibres = told ∧
      t.fab.keywarn = (f.keywarn || decide (2 ^ 47 ≤ x.ctr + x.flits)) ∧ t.fab.cycle = f.cycle ∧ t.fab.st = f.st) ∧
    (∀ k, lit → still → f.cur = some k → f.pairing fibre slot = none → x.flits ≠ 0 → ∃ l, l.length = x.flits ∧ l.head? = some (first k {} []) ∧
      exec (.rotorSlot fibre slot) s = .next { s with
        out := s.out ++ l, fab := { f with fibres := told, keywarn := f.keywarn || decide (2 ^ 47 ≤ x.ctr + x.flits) } }) ∧
    (still → ¬ lit ∨ f.cur = none ∨ x.flits = 0 → exec (.rotorSlot fibre slot) s = .next s) ∧
    (f.st ≠ .draining → ∃ t, exec .rotorCycleBoundary s = .next t ∧ t = { s with fab := t.fab, health := t.health } ∧ t.fab = { f with
      cycle := f.cycle + 1, fibres := Sparse.mapAll {} (fun _ y => y.drop) f.fibres
      peers := (f.members.filter (· ≠ f.modid)).foldl (fun q i =>
        Sparse.modify {} q i (Peer.tick f.timing (decide (f.st = .isOpen)) (f.cycle + 1))) f.peers }) ∧
    (∀ (k : Key) (ctr kind : Nat) (ct tag : List Byte), lit → still → x.rxdead = false → f.pairing fibre slot = some m → ctr < 2 ^ 64 → m < 2 ^ 16 →
      kind < 4 → f.group < 2 ^ 32 → f.keys.filter (fun y => decide (y.epoch % 2 = k.epoch % 2)) = [k] → ct.length = 224 → tag.length = 16 →
      let head := flitHead ctr m kind (k.epoch % 2) f.group
      let hk := hopKey k m fibre
      let last := x.lastCtr.find? (fun y => decide (y.1 = k.epoch) && decide (y.2.1 = m))
      let kept := Sparse.modify {} f.fibres fibre fun y =>
        { y with lastCtr := (y.lastCtr.filter fun z => !(decide (z.2.1 = m) && decide (z.1 = k.epoch))) ++ [(k.epoch, m, ctr)] }
      (gcmTag (hk.take 32) (nonce hk ctr) head ct ≠ tag → gives (.flitReceive fibre slot (head ++ ct ++ tag)) { f with
        fibres := Sparse.modify {} f.fibres fibre fun y => { y with authfail := min (2 ^ 32 - 1) (y.authfail + 1) } }) ∧
      (gcmTag (hk.take 32) (nonce hk ctr) head ct = tag →
        (∀ e v c, last = some (e, v, c) → ctr ≤ c → exec (.flitReceive fibre slot (head ++ ct ++ tag)) s = .next s) ∧
        ((∀ e v c, last = some (e, v, c) → c < ctr) →
          let text := gcmText (hk.take 32) (nonce hk ctr) ct
          (kind = 0 ∨ kind = 3 → gives (.flitReceive fibre slot (head ++ ct ++ tag)) { f with fibres := kept }) ∧
          (kind = 2 → ¬ (f.st = .isOpen ∨ f.st = .draining ∨ f.st = .drained) →
            gives (.flitReceive fibre slot (head ++ ct ++ tag)) { f with fibres := kept }) ∧
          (kind = 2 → f.st = .isOpen ∨ f.st = .draining ∨ f.st = .drained →
            exec (.flitReceive fibre slot (head ++ ct ++ tag)) s = .next (State.dataIn { s with fab := { f with fibres := kept } } text)) ∧
          (kind = 1 → ∃ t, exec (.flitReceive fibre slot (head ++ ct ++ tag)) s = .next t ∧ t = { s with fab := t.fab, pkg := t.pkg } ∧
            t.fab.fibres = Sparse.modify {} kept fibre (fun y => { y with
              rxl := leAt text 8 4 / 2 ^ 8 % 8 + 1, heard := y.heard || decide (f.st = .locking) }))))) ∧
    (∀ psn k, p.out.find? (fun y => decide (y.psn = psn)) = some k → timed → 8 ≤ k.age → 0 < k.sends → k.due = false → k.refused = false →
      (k.sends < 4 → ∃ t, exec (.packetResendTimeout m psn) s = .next t ∧ t = { s with
        pkg := { s.pkg with mresend := s.pkg.mresend + 1 }
        fab := { f with peers := Sparse.modify {} f.peers m fun q =>
          { q with out := q.out.map fun y => if y.psn = psn then { y with due := true } else y } } }) ∧
      (4 ≤ k.sends → gone (.packetResendTimeout m psn))) ∧
    (timed → f.isPeer m = true → p.unreachable = false → 16 ≤ p.silent → gone (.memberUnreachable m)) ∧
    (∀ k, f.nxt = some k → k.act ≤ f.cycle → gives .keyActivation { f with
      cur := some k, nxt := none, prev := f.cur, keywarn := false
      fibres := Sparse.mapAll {} (fun _ (y : Fibre) => { y with ctr := 0 }) f.fibres }) ∧
    (∀ k o, f.cur = some k → f.prev = some o → k.act + 16 ≤ f.cycle → gives .oldKeyErase { f with prev := none }) ∧
    gives (.wavelengthDegrade fibre) { f with fibres := Sparse.modify {} f.fibres fibre fun y => { y with shed := y.shed + 1 } } ∧
    gives (.fibreGoesDead fibre) { f with fibres := Sparse.modify {} f.fibres fibre fun y => { y with rxdead := true } }
end

