-- ==== Sys2Proof/Laws/Sparse.lean ====
section
/-! SUPPORT. Sparse maps: what a read gives after a write, and that every operation keeps the canonical form. -/

namespace Sys2Proof.Machine

variable {α : Type} [DecidableEq α] {d : α}

omit [DecidableEq α] in
@[simp] theorem Sparse.get_nil (i : Nat) : Sparse.get d [] i = d := rfl

@[simp] theorem Sparse.wf_nil : Sparse.wf d [] = true := rfl

/-- A map that is canonical from a bound is so from every lower one. -/
theorem Sparse.wfFrom_mono {m : Sparse α} {lo lo' : Nat} (h : Sparse.wfFrom d lo m = true) (hl : lo' ≤ lo) :
    Sparse.wfFrom d lo' m = true := by
  cases m with
  | nil => rfl
  | cons x m =>
    obtain ⟨k, v⟩ := x
    simp only [Sparse.wfFrom, Bool.and_eq_true, decide_eq_true_eq, Bool.not_eq_true'] at h ⊢
    exact ⟨⟨by omega, h.1.2⟩, h.2⟩

theorem Sparse.wf_of_wfFrom {m : Sparse α} {lo : Nat} (h : Sparse.wfFrom d lo m = true) : Sparse.wf d m = true :=
  Sparse.wfFrom_mono h (Nat.zero_le _)

/-- Below its bound a canonical map holds the default. -/
theorem Sparse.get_below {m : Sparse α} {lo i : Nat} (h : Sparse.wfFrom d lo m = true) (hi : i < lo) : Sparse.get d m i = d := by
  cases m with
  | nil => rfl
  | cons x m =>
    obtain ⟨k, v⟩ := x
    simp only [Sparse.wfFrom, Bool.and_eq_true, decide_eq_true_eq] at h
    simp only [Sparse.get]
    rw [if_neg (by omega), if_pos (by omega)]

theorem Sparse.wfFrom_set {m : Sparse α} {lo i : Nat} {v : α} (h : Sparse.wfFrom d lo m = true) (hi : lo ≤ i) :
    Sparse.wfFrom d lo (Sparse.set d m i v) = true := by
  induction m generalizing lo with
  | nil =>
    simp only [Sparse.set]
    split <;> simp_all [Sparse.wfFrom]
  | cons x m ih =>
    obtain ⟨k, w⟩ := x
    simp only [Sparse.wfFrom, Bool.and_eq_true, decide_eq_true_eq, Bool.not_eq_true'] at h
    simp only [Sparse.set]
    split
    · split
      · exact Sparse.wfFrom_mono h.2 (by omega)
      · subst_vars; simp_all [Sparse.wfFrom]
    · split
      · split
        · simp_all [Sparse.wfFrom]
        · simp only [Sparse.wfFrom, Bool.and_eq_true, decide_eq_true_eq, Bool.not_eq_true']
          refine ⟨⟨hi, by simpa⟩, ⟨by omega, h.1.2⟩, h.2⟩
      · simp only [Sparse.wfFrom, Bool.and_eq_true, decide_eq_true_eq, Bool.not_eq_true']
        exact ⟨h.1, ih h.2 (by omega)⟩

/-- A write keeps the canonical form. -/
theorem Sparse.wf_set {m : Sparse α} (h : Sparse.wf d m = true) (i : Nat) (v : α) : Sparse.wf d (Sparse.set d m i v) = true :=
  Sparse.wfFrom_set h (Nat.zero_le _)

theorem Sparse.wf_modify {m : Sparse α} (h : Sparse.wf d m = true) (i : Nat) (f : α → α) :
    Sparse.wf d (Sparse.modify d m i f) = true := Sparse.wf_set h _ _

/-- A read after a write. -/
theorem Sparse.get_set {m : Sparse α} {lo : Nat} (h : Sparse.wfFrom d lo m = true) (i j : Nat) (v : α) :
    Sparse.get d (Sparse.set d m i v) j = if i = j then v else Sparse.get d m j := by
  induction m generalizing lo with
  | nil =>
    simp only [Sparse.set]
    by_cases hv : v = d
    · simp [hv]
    · simp only [hv, if_false, Sparse.get]
      split
      · rfl
      · split <;> rfl
  | cons x m ih =>
    obtain ⟨k, w⟩ := x
    simp only [Sparse.wfFrom, Bool.and_eq_true, decide_eq_true_eq, Bool.not_eq_true'] at h
    simp only [Sparse.set]
    split
    · rename_i hk
      subst hk
      by_cases hv : v = d
      · simp only [hv, if_true]
        by_cases hj : k = j
        · subst hj; rw [if_pos rfl]; exact Sparse.get_below h.2 (by omega)
        · rw [if_neg hj]
          simp only [Sparse.get, if_neg hj]
          split
          · exact Sparse.get_below h.2 (by omega)
          · rfl
      · simp only [hv, if_false, Sparse.get]
        by_cases hj : k = j <;> simp [hj]
    · rename_i hk
      split
      · rename_i hlt
        by_cases hv : v = d
        · simp only [hv, if_true, Sparse.get]
          by_cases hj : i = j
          · subst hj; rw [if_pos rfl, if_neg hk, if_pos hlt]
          · rw [if_neg hj]
        · simp only [hv, if_false, Sparse.get]
          by_cases hj : i = j
          · simp [hj]
          · simp only [hj, if_false]
            by_cases hji : j < i
            · rw [if_pos hji]
              rw [if_neg (by omega), if_pos (by omega)]
            · rw [if_neg hji]
      · rename_i hge
        simp only [Sparse.get]
        by_cases hj : i = j
        · subst hj
          rw [if_neg hk, if_neg hge, ih h.2, if_pos rfl, if_pos rfl]
        · rw [ih h.2, if_neg hj, if_neg hj]

theorem Sparse.get_set_self {m : Sparse α} (h : Sparse.wf d m = true) (i : Nat) (v : α) :
    Sparse.get d (Sparse.set d m i v) i = v := by rw [Sparse.get_set h, if_pos rfl]

theorem Sparse.get_set_other {m : Sparse α} (h : Sparse.wf d m = true) {i j : Nat} (hij : i ≠ j) (v : α) :
    Sparse.get d (Sparse.set d m i v) j = Sparse.get d m j := by rw [Sparse.get_set h, if_neg hij]

theorem Sparse.get_modify {m : Sparse α} (h : Sparse.wf d m = true) (i j : Nat) (f : α → α) :
    Sparse.get d (Sparse.modify d m i f) j = if i = j then f (Sparse.get d m i) else Sparse.get d m j := Sparse.get_set h _ _ _

/-- A second write to a key replaces a first one that was listed, in any list. -/
theorem Sparse.set_set (m : Sparse α) (i : Nat) {v : α} (w : α) (hv : v ≠ d) :
    Sparse.set d (Sparse.set d m i v) i w = Sparse.set d m i w := by
  induction m with
  | nil => simp [Sparse.set, hv]
  | cons x m ih =>
    obtain ⟨k, u⟩ := x
    by_cases hk : k = i
    · simp [Sparse.set, hk, hv]
    · by_cases hi : i < k
      · simp [Sparse.set, hk, hi, hv]
      · simp [Sparse.set, hk, hi, ih]

/-- A listed write is read back, in any list. -/
theorem Sparse.get_set_listed (m : Sparse α) (i : Nat) {v : α} (hv : v ≠ d) : Sparse.get d (Sparse.set d m i v) i = v := by
  induction m with
  | nil => simp [Sparse.set, Sparse.get, hv]
  | cons x m ih =>
    obtain ⟨k, u⟩ := x
    by_cases hk : k = i
    · simp [Sparse.set, Sparse.get, hk, hv]
    · by_cases hi : i < k
      · simp [Sparse.set, Sparse.get, hk, hi, hv]
      · simp [Sparse.set, Sparse.get, hk, hi, ih]

/-- Changing every value keeps the canonical form. -/
theorem Sparse.wfFrom_mapAll {m : Sparse α} {lo : Nat} (f : Nat → α → α) (h : Sparse.wfFrom d lo m = true) :
    Sparse.wfFrom d lo (Sparse.mapAll d f m) = true := by
  induction m generalizing lo with
  | nil => rfl
  | cons x m ih =>
    obtain ⟨k, w⟩ := x
    simp only [Sparse.wfFrom, Bool.and_eq_true, decide_eq_true_eq, Bool.not_eq_true'] at h
    simp only [Sparse.mapAll]
    split
    · exact Sparse.wfFrom_mono (ih h.2) (by omega)
    · simp only [Sparse.wfFrom, Bool.and_eq_true, decide_eq_true_eq, Bool.not_eq_true']
      exact ⟨⟨h.1.1, by simpa⟩, ih h.2⟩

theorem Sparse.wf_mapAll {m : Sparse α} (h : Sparse.wf d m = true) (f : Nat → α → α) :
    Sparse.wf d (Sparse.mapAll d f m) = true := Sparse.wfFrom_mapAll f h

/-- Leaving entries out keeps the canonical form. -/
theorem Sparse.wfFrom_filter {m : Sparse α} {lo : Nat} (p : Nat × α → Bool) (h : Sparse.wfFrom d lo m = true) :
    Sparse.wfFrom d lo (m.filter p) = true := by
  induction m generalizing lo with
  | nil => rfl
  | cons x m ih =>
    obtain ⟨k, w⟩ := x
    simp only [Sparse.wfFrom, Bool.and_eq_true, decide_eq_true_eq, Bool.not_eq_true'] at h
    simp only [List.filter]
    split
    · simp only [Sparse.wfFrom, Bool.and_eq_true, decide_eq_true_eq, Bool.not_eq_true']
      exact ⟨h.1, ih h.2⟩
    · exact Sparse.wfFrom_mono (ih h.2) (by omega)

theorem Sparse.wf_filter {m : Sparse α} (h : Sparse.wf d m = true) (p : Nat × α → Bool) : Sparse.wf d (m.filter p) = true :=
  Sparse.wfFrom_filter p h

/-! ## A property of every listed value -/

/-- Every listed value has a property. -/
def Sparse.All (P : α → Prop) (m : Sparse α) : Prop := ∀ x ∈ m, P x.2

omit [DecidableEq α] in
theorem Sparse.All.get {P : α → Prop} {m : Sparse α} (h : Sparse.All P m) (hd : P d) (i : Nat) : P (Sparse.get d m i) := by
  induction m with
  | nil => exact hd
  | cons x m ih =>
    obtain ⟨k, w⟩ := x
    have ih := ih fun y hy => h y (List.mem_cons_of_mem _ hy)
    simp only [Sparse.get]
    split
    · exact h (k, w) List.mem_cons_self
    · split
      · exact hd
      · exact ih

theorem Sparse.All.set {P : α → Prop} {m : Sparse α} (h : Sparse.All P m) (i : Nat) {v : α} (hv : P v) :
    Sparse.All P (Sparse.set d m i v) := by
  induction m with
  | nil =>
    intro y hy
    simp only [Sparse.set] at hy
    split at hy
    · cases hy
    · simp only [List.mem_singleton] at hy; subst hy; exact hv
  | cons x m ih =>
    obtain ⟨k, w⟩ := x
    have ih := ih fun y hy => h y (List.mem_cons_of_mem _ hy)
    have hm : ∀ y ∈ m, P y.2 := fun y hy => h y (List.mem_cons_of_mem _ hy)
    have hw : P w := h (k, w) List.mem_cons_self
    intro y hy
    simp only [Sparse.set] at hy
    split at hy
    · split at hy
      · exact hm y hy
      · rcases List.mem_cons.1 hy with rfl | hy
        · exact hv
        · exact hm y hy
    · split at hy
      · split at hy
        · exact h y hy
        · rcases List.mem_cons.1 hy with rfl | hy
          · exact hv
          · exact h y hy
      · rcases List.mem_cons.1 hy with rfl | hy
        · exact hw
        · exact ih y hy

theorem Sparse.All.modify {P : α → Prop} {m : Sparse α} (h : Sparse.All P m) (hd : P d) (i : Nat) {f : α → α} (hf : ∀ v, P v → P (f v)) :
    Sparse.All P (Sparse.modify d m i f) := h.set i (hf _ (h.get hd i))

theorem Sparse.All.mapAll {P : α → Prop} {m : Sparse α} (h : Sparse.All P m) {f : Nat → α → α} (hf : ∀ k v, P v → P (f k v)) :
    Sparse.All P (Sparse.mapAll d f m) := by
  induction m with
  | nil => intro y hy; cases hy
  | cons x m ih =>
    obtain ⟨k, w⟩ := x
    have ih := ih fun y hy => h y (List.mem_cons_of_mem _ hy)
    intro y hy
    simp only [Sparse.mapAll] at hy
    split at hy
    · exact ih y hy
    · rcases List.mem_cons.1 hy with rfl | hy
      · exact hf k w (h (k, w) List.mem_cons_self)
      · exact ih y hy

omit [DecidableEq α] in
theorem Sparse.All.filter {P : α → Prop} {m : Sparse α} (h : Sparse.All P m) (p : Nat × α → Bool) : Sparse.All P (m.filter p) :=
  fun y hy => h y (List.mem_filter.1 hy).1

end Sys2Proof.Machine
end

