-- ==== Sys2Proof/Laws/Ok.lean ====
section
/-! SUPPORT. What every operation keeps: canonical memory and tables, and g0 reading 1 in every task and in the bundle being issued
(spec/02_cw_slice_file.md R60). One lemma per operation of Machine/Ops.lean. -/

namespace Sys2Proof.Machine

/-- g0 reads 1. -/
def SliceFile.Gate (sf : SliceFile) : Prop := gateRead sf 0 = true

/-- g0 of the task reads 1. -/
def Task.Gate (t : Task) : Prop := SliceFile.Gate t.sf

/-- Canonical memory and tables, and g0 reading 1 in every listed task and in the bundle being issued. -/
structure State.Ok (s : State) : Prop where
  mem : s.mem.wf = true
  tasks : Sparse.wf ({} : Task) s.tasks = true
  tiles : Sparse.wf ({} : Tile) s.tiles = true
  cells : Sparse.wf ({} : Cell) s.cells = true
  cmds : Sparse.wf ({} : Cmd) s.cmds = true
  locks : Sparse.wf ({} : Lock) s.locks = true
  fields : Sparse.wf ({} : Field) s.fields = true
  dies : Sparse.wf ({} : Die) s.dies = true
  gates : Sparse.All Task.Gate s.tasks
  gate : SliceFile.Gate s.issue.sf

/-! ## Slice files and tasks -/

theorem SliceFile.gate_or (sf : SliceFile) : SliceFile.Gate (sf ||| 1#512) := by
  simp [SliceFile.Gate, gateRead]

theorem SliceFile.gate_one : SliceFile.Gate 1#512 := by
  simp [SliceFile.Gate, gateRead]

theorem sfWrite_gate (sf : SliceFile) (a n v : Nat) : SliceFile.Gate (sfWrite sf a n v) := SliceFile.gate_or _

theorem gateWrite_gate (sf : SliceFile) (g : Nat) (b : Bool) : SliceFile.Gate (gateWrite sf g b) := SliceFile.gate_or _

theorem Dst.write_gate (d : Dst) (sf : SliceFile) (v : BitVec 512) : SliceFile.Gate (d.write sf v) := by
  cases d <;> exact SliceFile.gate_or _

theorem Task.gate_default : Task.Gate {} := by
  simp [Task.Gate, SliceFile.Gate, gateRead]

theorem SliceFile.gate_foldl {α : Type} (l : List α) (f : SliceFile → α → SliceFile) (hf : ∀ sf x, SliceFile.Gate (f sf x))
    {sf : SliceFile} (h : SliceFile.Gate sf) : SliceFile.Gate (l.foldl f sf) := by
  induction l generalizing sf with
  | nil => exact h
  | cons x l ih => exact ih (hf sf x)

theorem Task.landDue_gate {t : Task} (h : t.Gate) : t.landDue.Gate :=
  SliceFile.gate_foldl _ _ (fun _ _ => Dst.write_gate _ _ _) (SliceFile.gate_foldl _ _ (fun _ _ => Dst.write_gate _ _ _) h)

theorem Task.capture_gate {t : Task} (h : t.Gate) : t.capture.Gate := Task.landDue_gate h

theorem Task.writeRet_gate {t : Task} (h : t.Gate) (r : Ret) : (t.writeRet r).Gate := by
  simp only [Task.Gate, Task.writeRet]
  cases r.gate with
  | some g => exact gateWrite_gate _ _ _
  | none =>
    cases r.rng with
    | none => exact h
    | some p =>
      dsimp only
      split
      · exact h
      · exact sfWrite_gate _ _ _ _

theorem Task.landRet_gate {t : Task} (h : t.Gate) (n : Nat) : (t.landRet n).Gate := by
  unfold Task.landRet
  split
  · split
    · exact Task.writeRet_gate h _
    · exact h
  · exact h

theorem Task.fillRet_gate {t : Task} (h : t.Gate) (n v : Nat) (g : Bool) : (t.fillRet n v g).Gate := h
theorem Task.addRet_gate {t : Task} (h : t.Gate) (r : Option (Nat × Nat)) (g x : Option Nat) : (t.addRet r g x).Gate := h
theorem Task.countDown_gate {t : Task} (h : t.Gate) : t.countDown.Gate := h

theorem Task.gate_foldl {α : Type} (l : List α) (f : Task → α → Task) (hf : ∀ t x, t.Gate → (f t x).Gate) {t : Task} (h : t.Gate) :
    (l.foldl f t).Gate := by
  induction l generalizing t with
  | nil => exact h
  | cons x l ih => exact ih (hf t x h)

theorem Task.forceRet_gate {t : Task} (h : t.Gate) (r : Ret) : (t.forceRet r).Gate := by
  unfold Task.forceRet
  apply Task.writeRet_gate
  apply Task.gate_foldl
  · intro t p ht
    dsimp only
    split
    · exact ht
    · exact ht
  · exact h

theorem Task.gateRet_gate {t : Task} (h : t.Gate) (n : Nat) : (t.gateRet n).Gate := by
  unfold Task.gateRet
  split
  · exact Task.forceRet_gate h _
  · exact h

theorem Task.landBeneath_gate {t : Task} (h : t.Gate) (r : Ret) : (t.landBeneath r).Gate :=
  SliceFile.gate_foldl _ _ (fun _ _ => Dst.write_gate _ _ _) h

theorem Task.forceRets_gate {t : Task} (h : t.Gate) : t.forceRets.Gate := Task.gate_foldl _ _ (fun _ _ ht => Task.forceRet_gate ht _) h

theorem Task.goHeld_gate {t : Task} (h : t.Gate) (r : TState) : (t.goHeld r).Gate := Task.capture_gate h

theorem Task.wake_gate {t : Task} (h : t.Gate) (pc : Nat) : (t.wake pc).Gate := h

theorem Task.wordWake_gate {t : Task} (h : t.Gate) : t.wordWake.Gate := by
  unfold Task.wordWake; split <;> exact h

theorem Task.counterWake_gate {t : Task} (h : t.Gate) (dc : Nat) : (t.counterWake dc).Gate := by
  unfold Task.counterWake
  split
  · exact h
  · split
    · exact h
    · split <;> exact h

/-- A task whose slice file has g0 reading 1. -/
theorem Task.Gate.upd {t : Task} {sf : SliceFile} (e : t.sf = sf) (h : SliceFile.Gate sf) : t.Gate := by unfold Task.Gate; rwa [e]

theorem Task.Gate.toSf {t : Task} (h : t.Gate) : SliceFile.Gate t.sf := h

/-! ## States -/

/-- The fields of a state that `State.Ok` speaks of. -/
def State.watched (s : State) : Memory × Sparse Task × Sparse Tile × Sparse Cell × Sparse Cmd × Sparse Lock × Sparse Field × Sparse Die × Issue :=
  (s.mem, s.tasks, s.tiles, s.cells, s.cmds, s.locks, s.fields, s.dies, s.issue)

/-- What an update of none of them keeps. -/
theorem State.Ok.same {s t : State} (h : s.Ok) (e : t.watched = s.watched) : t.Ok := by
  simp only [State.watched, Prod.mk.injEq] at e
  obtain ⟨hm, ht, hl, hc, hq, hk, hf, hd, hi⟩ := e
  exact ⟨hm ▸ h.mem, ht ▸ h.tasks, hl ▸ h.tiles, hc ▸ h.cells, hq ▸ h.cmds, hk ▸ h.locks, hf ▸ h.fields, hd ▸ h.dies, ht ▸ h.gates, hi ▸ h.gate⟩

/-- A state given field by field. -/
theorem State.Ok.of {mem : Memory} {tasks : Sparse Task} {tiles : Sparse Tile} {cells : Sparse Cell} {cmds : Sparse Cmd}
    {locks : Sparse Lock} {fields : Sparse Field} {dies : Sparse Die} {mesh : List MeshWord} {rx : Rx} {intake : Intake} {fab : Fabric}
    {pkg : Pkg} {health : Health} {cycle : Nat} {agenda : List Turn} {here : Nat} {issue : Issue} {fresh : Nat} {out : List Output}
    (h1 : mem.wf = true) (h2 : Sparse.wf ({} : Task) tasks = true) (h3 : Sparse.wf ({} : Tile) tiles = true)
    (h4 : Sparse.wf ({} : Cell) cells = true) (h5 : Sparse.wf ({} : Cmd) cmds = true) (h6 : Sparse.wf ({} : Lock) locks = true)
    (h7 : Sparse.wf ({} : Field) fields = true) (h8 : Sparse.wf ({} : Die) dies = true) (h9 : Sparse.All Task.Gate tasks)
    (h10 : SliceFile.Gate issue.sf) :
    State.Ok ⟨mem, tasks, tiles, cells, cmds, locks, fields, dies, mesh, rx, intake, fab, pkg, health, cycle, agenda, here, issue, fresh,
      out⟩ := ⟨h1, h2, h3, h4, h5, h6, h7, h8, h9, h10⟩

/-- What an outcome keeps: its next state is as before. -/
def OutOk : Host.Outcome State Fault Refusal → Prop
  | .next s => s.Ok
  | _ => True

theorem snd_ok {b : Bool} {t : State} (h : t.Ok) : ((b, t) : Bool × State).2.Ok := h

theorem next_ok {s : State} (h : s.Ok) : OutOk (.next s) := h

theorem State.Ok.task {s : State} (h : s.Ok) (t : Nat) : (s.task t).Gate := h.gates.get Task.gate_default t

theorem State.modTask_ok {s : State} (h : s.Ok) (t : Nat) {f : Task → Task} (hf : ∀ x, x.Gate → (f x).Gate) : (s.modTask t f).Ok :=
  { h with tasks := Sparse.wf_modify h.tasks _ _, gates := h.gates.modify Task.gate_default _ hf }

theorem State.modTask_ok' {s : State} (h : s.Ok) (t : Nat) {f : Task → Task} (hf : ∀ x, (f x).sf = x.sf) : (s.modTask t f).Ok :=
  s.modTask_ok h t fun x hx => by unfold Task.Gate; rw [hf]; exact hx

theorem State.modTile_ok {s : State} (h : s.Ok) (c : Nat) (f : Tile → Tile) : (s.modTile c f).Ok :=
  { h with tiles := Sparse.wf_modify h.tiles _ _ }
theorem State.modCell_ok {s : State} (h : s.Ok) (c : Nat) (f : Cell → Cell) : (s.modCell c f).Ok :=
  { h with cells := Sparse.wf_modify h.cells _ _ }
theorem State.modCmd_ok {s : State} (h : s.Ok) (c : Nat) (f : Cmd → Cmd) : (s.modCmd c f).Ok :=
  { h with cmds := Sparse.wf_modify h.cmds _ _ }
theorem State.modLock_ok {s : State} (h : s.Ok) (c : Nat) (f : Lock → Lock) : (s.modLock c f).Ok :=
  { h with locks := Sparse.wf_modify h.locks _ _ }
theorem State.modField_ok {s : State} (h : s.Ok) (c : Nat) (f : Field → Field) : (s.modField c f).Ok :=
  { h with fields := Sparse.wf_modify h.fields _ _ }
theorem State.modDie_ok {s : State} (h : s.Ok) (c : Nat) (f : Die → Die) : (s.modDie c f).Ok :=
  { h with dies := Sparse.wf_modify h.dies _ _ }

theorem State.foldl_ok {α : Type} (l : List α) {f : State → α → State} (hf : ∀ s x, s.Ok → (f s x).Ok) {s : State} (h : s.Ok) :
    (l.foldl f s).Ok := by
  induction l generalizing s with
  | nil => exact h
  | cons x l ih => exact ih (hf s x h)

theorem State.ite_ok {s t : State} {c : Prop} [Decidable c] (h1 : s.Ok) (h2 : t.Ok) : (if c then s else t).Ok := by
  split
  · exact h1
  · exact h2

/-! ## Memory -/

theorem Memory.wf_put {m : Memory} (h : m.wf = true) (p : Nat) (b : Byte) : (m.put p b).wf = true := Sparse.wf_set h _ _

theorem Memory.wf_putAll {m : Memory} (h : m.wf = true) (p : Nat) (l : List Byte) : (m.putAll p l).wf = true := by
  induction l generalizing m p with
  | nil => exact h
  | cons b l ih => exact ih (Memory.wf_put h p b) _

theorem State.setMem_ok {s : State} (h : s.Ok) (p : Nat) (l : List Byte) : ({ s with mem := s.mem.putAll p l } : State).Ok :=
  { h with mem := Memory.wf_putAll h.mem _ _ }

theorem State.markDirty_ok {s : State} (h : s.Ok) (sp : Space) (o n : Nat) : (s.markDirty sp o n).Ok := by
  unfold State.markDirty
  split
  · split
    · exact h
    · exact State.modField_ok h _ _
  · exact { h with fields := Sparse.wf_mapAll h.fields _ }
  · exact h

theorem State.write_ok {s : State} (h : s.Ok) (sp : Space) (o : Nat) (l : List Byte) : (s.write sp o l).Ok :=
  State.markDirty_ok (State.setMem_ok h _ _) _ _ _

theorem State.writeLE_ok {s : State} (h : s.Ok) (sp : Space) (o n v : Nat) : (s.writeLE sp o n v).Ok := State.write_ok h _ _ _

theorem State.writeQuiet_ok {s : State} (h : s.Ok) (sp : Space) (o : Nat) (l : List Byte) : (s.writeQuiet sp o l).Ok :=
  State.setMem_ok h _ _

theorem State.writeLocal_ok {s : State} (h : s.Ok) (c a n v : Nat) : (s.writeLocal c a n v).Ok := State.writeLE_ok h _ _ _ _

theorem State.modPeer_ok {s : State} (h : s.Ok) (m : Nat) (g : Peer → Peer) : (s.modPeer m g).Ok := h.same rfl

theorem State.toPeer_ok {s : State} (h : s.Ok) (m typ : Nat) (body : Nat → PacketBody) (lf : Option Leaf) :
    (s.toPeer m typ body lf).Ok := h.same rfl

theorem State.peerByte_ok {s : State} (h : s.Ok) (key m a : Nat) (b : Byte) : (s.peerByte key m a b).Ok := by
  unfold State.peerByte
  dsimp only
  repeat' first
    | exact State.modCmd_ok (State.toPeer_ok h _ _ _ _) _ _
    | exact State.modPeer_ok h _ _
    | split

theorem State.writeDva_ok {via : Via} {l : List Byte} {s t : State} {a key : Nat} (h : s.Ok) (ht : s.writeDva via a l key = some t) :
    t.Ok := by
  induction l generalizing s a with
  | nil => simp only [State.writeDva, Option.some.injEq] at ht; exact ht ▸ h
  | cons b l ih =>
    simp only [State.writeDva] at ht
    split at ht
    · refine ih ?_ ht
      exact ⟨Memory.wf_put h.mem _ _, h.tasks, h.tiles, h.cells, h.cmds, h.locks, h.fields, h.dies, h.gates, h.gate⟩
    · exact ih (State.peerByte_ok h _ _ _ _) ht
    · cases ht

theorem State.writeDva_getD_ok {s : State} (h : s.Ok) (via : Via) (a : Nat) (l : List Byte) (key : Nat) :
    ((s.writeDva via a l key).getD s).Ok := by
  cases ht : s.writeDva via a l key with
  | none => exact h
  | some t => exact State.writeDva_ok h ht

/-! ## Records and traces -/

theorem State.traceWrite_ok {s : State} (h : s.Ok) (d k r : Nat) : (s.traceWrite d k r).Ok := by
  unfold State.traceWrite
  dsimp only
  split
  · exact h
  · split
    · exact State.modDie_ok h _ _
    · split
      · rename_i hw
        exact State.modDie_ok (State.writeDva_ok h hw) _ _
      · exact State.modDie_ok h _ _

theorem State.traceEvent_ok {s : State} (h : s.Ok) (d k i t f v : Nat) : (s.traceEvent d k i t f v).Ok := State.traceWrite_ok h _ _ _

theorem State.pushRec_ok {s : State} (h : s.Ok) (r : FRec) : (s.pushRec r).Ok := State.modDie_ok h _ _

theorem State.taskRec_ok {s : State} (h : s.Ok) (tk : Nat) (c : Cause) (a i : Nat) : (s.taskRec tk c a i).Ok := by
  unfold State.taskRec
  dsimp only
  split
  · apply State.modDie_ok
    exact h.same rfl
  · apply State.pushRec_ok
    exact h.same rfl

/-! ## Exceptions -/

theorem State.precise_ok {s : State} (h : s.Ok) (c : Cause) (i : Nat) : (s.precise c i).Ok := by
  unfold State.precise
  apply State.taskRec_ok
  apply State.modTask_ok h
  intro x hx
  exact Task.goHeld_gate hx .runnable

theorem State.raiseAsync_ok {s : State} (h : s.Ok) (tk : Nat) (c : Cause) (i : Nat) : (s.raiseAsync tk c i).Ok := by
  unfold State.raiseAsync
  split
  · exact h
  · exact State.modTask_ok h _ fun _ hx => hx
  · split
    · exact State.modTask_ok h _ fun _ hx => hx
    · exact State.taskRec_ok (State.modTask_ok h _ fun _ hx => Task.goHeld_gate hx _) _ _ _ _
  · exact State.taskRec_ok h _ _ _ _

theorem State.takeAsyncs_ok {s : State} (h : s.Ok) (tk : Nat) : (s.takeAsyncs tk).Ok := by
  unfold State.takeAsyncs
  dsimp only
  split
  · exact h
  split
  · exact h
  · refine State.foldl_ok _ (fun s x hs => State.taskRec_ok hs _ _ _ _) (State.modTask_ok h _ fun x hx => ?_)
    split
    · exact Task.goHeld_gate hx .runnable
    · exact Task.goHeld_gate hx .parked
    · exact hx

theorem State.holdTask_ok {s : State} (h : s.Ok) (tk : Nat) : (s.holdTask tk).Ok := by
  unfold State.holdTask
  split
  · split
    · exact State.modTask_ok h _ fun _ hx => hx
    · exact State.taskRec_ok (State.modTask_ok h _ fun _ hx => Task.goHeld_gate hx _) _ _ _ _
  · exact State.taskRec_ok (State.modTask_ok h _ fun _ hx => Task.goHeld_gate hx _) _ _ _ _
  · exact h

theorem State.eretTask_ok {s : State} (h : s.Ok) (tk : Nat) (skip : Bool) : (s.eretTask tk skip).Ok := by
  unfold State.eretTask
  dsimp only
  split
  · exact h
  · split
    · exact State.taskRec_ok h _ _ _ _
    · exact State.modTask_ok h _ fun _ hx => hx

/-! ## Counters, channels, watchpoints, field faults -/

theorem State.decCounter_ok {s : State} (h : s.Ok) (core dc : Nat) : (s.decCounter core dc).Ok := by
  unfold State.decCounter
  dsimp only
  split
  · exact State.modTile_ok h _ _
  · split
    · split
      · exact State.modTask_ok (State.modTile_ok h _ _) _ fun _ hx => Task.counterWake_gate hx _
      · exact State.modTile_ok h _ _
    · exact State.modTile_ok h _ _

theorem State.vcPut_ok {s : State} (h : s.Ok) (core n : Nat) (w : Word64) : (s.vcPut core n w).Ok := by
  unfold State.vcPut
  dsimp only
  split
  · exact State.modTask_ok (State.modTile_ok h _ _) _ fun _ hx => Task.wordWake_gate hx
  · exact State.modTile_ok h _ _

theorem State.send_ok {s : State} (h : s.Ok) (src : Option Nat) (core n : Nat) (w : Word64) (v : Bool) (x : Nat) :
    (s.send src core n w v x).Ok :=
  h.same rfl

theorem State.watchBy_ok {s : State} (h : s.Ok) (dn fld ver who ctx : Nat) (tk : Option Nat) (space tile a n : Nat) (rd wr : Bool) :
    (s.watchBy dn fld ver who ctx tk space tile a n rd wr).Ok := by
  unfold State.watchBy
  dsimp only
  split
  · exact h
  · have h2 := State.traceEvent_ok (State.pushRec_ok h ⟨5, .watch, dn, fld, ver, who, ctx, 0, 255, 255, ‹Nat› + 8 * b2n wr, a, 0, s.cycle⟩)
      dn 5 ‹Nat› who fld ver
    split
    · split
      · exact State.raiseAsync_ok h2 _ _ _
      · exact h2
    · exact h2

theorem State.watch_ok {s : State} (h : s.Ok) (core ctx : Nat) (tk : Option Nat) (space tile a n : Nat) (rd wr : Bool) :
    (s.watch core ctx tk space tile a n rd wr).Ok := State.watchBy_ok h _ _ _ _ _ _ _ _ _ _ _ _

theorem State.watchLocal_ok {s : State} (h : s.Ok) (core ctx : Nat) (tk : Option Nat) (a n : Nat) (rd wr : Bool) :
    (s.watchLocal core ctx tk a n rd wr).Ok := by
  unfold State.watchLocal
  split <;> exact State.watch_ok h _ _ _ _ _ _ _ _ _

theorem State.landField_ok {s : State} (h : s.Ok) (k : Nat) : (s.landField k).Ok :=
  State.foldl_ok _ (fun s _ hs => State.foldl_ok _ (fun _ _ hs => State.modTask_ok hs _ fun _ hx => Task.forceRets_gate hx) hs) h

theorem State.faultTasks_ok {s : State} (h : s.Ok) (k : Nat) : (s.faultTasks k).Ok :=
  State.foldl_ok _ (fun s _ hs => State.foldl_ok _ (fun _ _ hs => State.modTask_ok hs _ fun _ hx => by split <;> exact hx) hs) h

theorem State.dropBeats_ok {s : State} (h : s.Ok) (k : Nat) : (s.dropBeats k).Ok :=
  { h with cmds := Sparse.wf_mapAll h.cmds _ }

theorem State.takeBanks_ok {s : State} (h : s.Ok) (core : Nat) (l : List Nat) : (s.takeBanks core l).Ok := State.modTile_ok h _ _

theorem State.freezeNow_ok {s : State} (h : s.Ok) (k : Nat) (c : Cause) (e : Bool) : (s.freezeNow k c e).Ok := by
  have h1 := State.traceEvent_ok (State.modField_ok (State.dropBeats_ok (State.landField_ok h k) k) k fun f =>
    { f with st := .frozen, stopping := false, closing := none, cause := some (causeCode c), dump := some s.cycle, frozenAt := s.cycle })
      (k / 256) 2 (causeCode c) 0 (k % 256) (s.field k).ver
  unfold State.freezeNow
  dsimp only
  split
  · exact State.modField_ok (State.faultTasks_ok h1 k) _ _
  · exact h1

theorem State.freeze_ok {s : State} (h : s.Ok) (k : Nat) (c : Cause) (e : Bool) : (s.freeze k c e).Ok :=
  State.ite_ok (State.modField_ok h _ _) (State.freezeNow_ok h _ _ _)

theorem State.closeField_ok {s : State} (h : s.Ok) (k : Nat) : (s.closeField k).Ok := by
  unfold State.closeField
  split
  · exact State.ite_ok h (State.freezeNow_ok h _ _ _)
  · exact h

theorem State.fieldFault_ok {s : State} (h : s.Ok) (k : Nat) (c : Cause) (t g x i : Nat) : (s.fieldFault k c t g x i).Ok := by
  unfold State.fieldFault
  dsimp only
  split
  · exact State.pushRec_ok (State.freeze_ok h _ _ _) _
  · exact h

end Sys2Proof.Machine
end

