-- ==== Sys2Proof/Laws/OkOperands.lean ====
section
/-! SUPPORT. The operations of Machine/Operands.lean keep what Laws/Ok.lean names. -/

namespace Sys2Proof.Machine

theorem State.land_ok {s : State} (h : s.Ok) (d : Dst) (v lat : Nat) : (s.land d v lat).Ok :=
  State.modTask_ok h _ fun _ hx => hx

theorem State.landInt_ok {s : State} (h : s.Ok) (d w : Nat) (r : Int) (lat : Nat) : (s.landInt d w r lat).Ok := State.land_ok h _ _ _

theorem State.landGate_ok {s : State} (h : s.Ok) (g : Nat) (b : Bool) (lat : Nat) : (s.landGate g b lat).Ok := State.land_ok h _ _ _

theorem slot_ok {s : State} (h : s.Ok) (act : Bool) {f : State → State} (hf : ∀ t, t.Ok → (f t).Ok) : OutOk (slot s act f) := by
  unfold slot OutOk
  dsimp only
  split
  · exact hf s h
  · exact h

theorem slotOr_ok {s : State} (h : s.Ok) (act : Bool) (cause : Option (Cause × Nat)) {f : State → State}
    (hf : ∀ t, t.Ok → (f t).Ok) : OutOk (slotOr s act cause f) := by
  unfold slotOr OutOk
  dsimp only
  split
  · split
    · exact State.precise_ok h _ _
    · exact hf s h
  · exact h

theorem slotPriv_ok {s : State} (h : s.Ok) (act : Bool) (cause : Option (Cause × Nat)) {f : State → State}
    (hf : ∀ t, t.Ok → (f t).Ok) : OutOk (slotPriv s act cause f) := by
  unfold slotPriv
  split
  · exact slotOr_ok h act cause hf
  · exact State.precise_ok h _ _

end Sys2Proof.Machine
end

