-- ==== Sys2Proof/Laws/OkInteger.lean ====
section
/-! SUPPORT. The operations of Machine/Integer.lean keep what Laws/Ok.lean names. -/

namespace Sys2Proof.Machine

theorem aluP_ok {s : State} (h : s.Ok) (o : OpP) (lat : Nat) (f : Int → Int → Int) :
    OutOk (aluP s o lat f) := by
  unfold aluP
  try dsimp only
  repeat' first | (with_reducible first | assumption | apply slot_ok | apply State.landInt_ok) | intro _

theorem aluU_ok {s : State} (h : s.Ok) (o : OpP) (lat : Nat) (f : Nat → Nat → Int) :
    OutOk (aluU s o lat f) := by
  unfold aluU
  try dsimp only
  repeat' first | (with_reducible first | assumption | apply slot_ok | apply State.landInt_ok) | intro _

theorem aluW_ok {s : State} (h : s.Ok) (o : OpW) (lat : Nat) (f : Nat → Nat → Int) :
    OutOk (aluW s o lat f) := by
  unfold aluW
  try dsimp only
  repeat' first | (with_reducible first | assumption | apply slot_ok | apply State.landInt_ok) | intro _

theorem execAdd_ok {s : State} (h : s.Ok) (o : OpP) :
    OutOk (execAdd o s) := by
  unfold execAdd
  try dsimp only
  repeat' with_reducible first | assumption | apply aluP_ok

theorem execSub_ok {s : State} (h : s.Ok) (o : OpP) :
    OutOk (execSub o s) := by
  unfold execSub
  try dsimp only
  repeat' with_reducible first | assumption | apply aluP_ok

theorem execAddi_ok {s : State} (h : s.Ok) (o : OpI) :
    OutOk (execAddi o s) := by
  unfold execAddi
  try dsimp only
  repeat' first | (with_reducible first | assumption | apply slot_ok | apply State.landInt_ok) | intro _

theorem execMul_ok {s : State} (h : s.Ok) (o : OpW) :
    OutOk (execMul o s) := by
  unfold execMul
  try dsimp only
  repeat' first | (with_reducible first | assumption | apply slot_ok | apply State.landInt_ok) | intro _

theorem execMulh_ok {s : State} (h : s.Ok) (o : OpP) :
    OutOk (execMulh o s) := by
  unfold execMulh
  try dsimp only
  repeat' with_reducible first | assumption | apply aluP_ok

theorem execMulhu_ok {s : State} (h : s.Ok) (o : OpP) :
    OutOk (execMulhu o s) := by
  unfold execMulhu
  try dsimp only
  repeat' with_reducible first | assumption | apply aluU_ok

theorem execAdds_ok {s : State} (h : s.Ok) (o : OpP) :
    OutOk (execAdds o s) := by
  unfold execAdds
  try dsimp only
  repeat' with_reducible first | assumption | apply aluP_ok

theorem execSubs_ok {s : State} (h : s.Ok) (o : OpP) :
    OutOk (execSubs o s) := by
  unfold execSubs
  try dsimp only
  repeat' with_reducible first | assumption | apply aluP_ok

theorem execAddsu_ok {s : State} (h : s.Ok) (o : OpP) :
    OutOk (execAddsu o s) := by
  unfold execAddsu
  try dsimp only
  repeat' with_reducible first | assumption | apply aluU_ok

theorem execSubsu_ok {s : State} (h : s.Ok) (o : OpP) :
    OutOk (execSubsu o s) := by
  unfold execSubsu
  try dsimp only
  repeat' with_reducible first | assumption | apply aluU_ok

theorem execNeg_ok {s : State} (h : s.Ok) (o : OpP) :
    OutOk (execNeg o s) := by
  unfold execNeg
  try dsimp only
  repeat' with_reducible first | assumption | apply aluP_ok

theorem execAbs_ok {s : State} (h : s.Ok) (o : OpP) :
    OutOk (execAbs o s) := by
  unfold execAbs
  try dsimp only
  repeat' with_reducible first | assumption | apply aluP_ok

theorem minMax_ok {s : State} (h : s.Ok) (o : OpP) (f : Int → Int → Int) :
    OutOk (minMax s o f) := by
  unfold minMax
  try dsimp only
  repeat' first | (with_reducible first | assumption | apply slot_ok | apply State.landInt_ok) | intro _

theorem execMin_ok {s : State} (h : s.Ok) (o : OpP) :
    OutOk (execMin o s) := by
  unfold execMin
  try dsimp only
  repeat' with_reducible first | assumption | apply minMax_ok

theorem execMax_ok {s : State} (h : s.Ok) (o : OpP) :
    OutOk (execMax o s) := by
  unfold execMax
  try dsimp only
  repeat' with_reducible first | assumption | apply minMax_ok

theorem execAnd_ok {s : State} (h : s.Ok) (o : OpP) :
    OutOk (execAnd o s) := by
  unfold execAnd
  try dsimp only
  repeat' with_reducible first | assumption | apply aluP_ok

theorem execOr_ok {s : State} (h : s.Ok) (o : OpP) :
    OutOk (execOr o s) := by
  unfold execOr
  try dsimp only
  repeat' with_reducible first | assumption | apply aluP_ok

theorem execXor_ok {s : State} (h : s.Ok) (o : OpP) :
    OutOk (execXor o s) := by
  unfold execXor
  try dsimp only
  repeat' with_reducible first | assumption | apply aluP_ok

theorem execAndn_ok {s : State} (h : s.Ok) (o : OpP) :
    OutOk (execAndn o s) := by
  unfold execAndn
  try dsimp only
  repeat' with_reducible first | assumption | apply aluP_ok

theorem execNot_ok {s : State} (h : s.Ok) (o : OpP) :
    OutOk (execNot o s) := by
  unfold execNot
  try dsimp only
  repeat' with_reducible first | assumption | apply aluP_ok

theorem execMov_ok {s : State} (h : s.Ok) (o : OpW) :
    OutOk (execMov o s) := by
  unfold execMov
  try dsimp only
  repeat' first | (with_reducible first | assumption | apply slot_ok | apply State.landInt_ok) | intro _

theorem execExt_ok {s : State} (h : s.Ok) (o : OpW) :
    OutOk (execExt o s) := by
  unfold execExt
  try dsimp only
  repeat' first | (with_reducible first | assumption | apply slot_ok | apply State.landInt_ok) | split | intro _

theorem execMovi_ok {s : State} (h : s.Ok) (o : OpM) :
    OutOk (execMovi o s) := by
  unfold execMovi
  try dsimp only
  repeat' first | (with_reducible first | assumption | apply slot_ok | apply State.landInt_ok) | intro _

theorem execSel_ok {s : State} (h : s.Ok) (o : OpP) :
    OutOk (execSel o s) := by
  unfold execSel
  try dsimp only
  repeat' first | (with_reducible first | assumption | apply slot_ok | apply State.landInt_ok) | split | intro _

theorem execShl_ok {s : State} (h : s.Ok) (o : OpP) :
    OutOk (execShl o s) := by
  unfold execShl
  try dsimp only
  repeat' first | (with_reducible first | assumption | apply slot_ok | apply State.landInt_ok) | intro _

theorem execShr_ok {s : State} (h : s.Ok) (o : OpP) :
    OutOk (execShr o s) := by
  unfold execShr
  try dsimp only
  repeat' first | (with_reducible first | assumption | apply slot_ok | apply State.landInt_ok) | intro _

theorem execRol_ok {s : State} (h : s.Ok) (o : OpP) :
    OutOk (execRol o s) := by
  unfold execRol
  try dsimp only
  repeat' with_reducible first | assumption | apply aluU_ok

theorem execRor_ok {s : State} (h : s.Ok) (o : OpP) :
    OutOk (execRor o s) := by
  unfold execRor
  try dsimp only
  repeat' with_reducible first | assumption | apply aluU_ok

theorem execClz_ok {s : State} (h : s.Ok) (o : OpW) :
    OutOk (execClz o s) := by
  unfold execClz
  try dsimp only
  repeat' with_reducible first | assumption | apply aluW_ok

theorem execCtz_ok {s : State} (h : s.Ok) (o : OpW) :
    OutOk (execCtz o s) := by
  unfold execCtz
  try dsimp only
  repeat' with_reducible first | assumption | apply aluW_ok

theorem execPopc_ok {s : State} (h : s.Ok) (o : OpW) :
    OutOk (execPopc o s) := by
  unfold execPopc
  try dsimp only
  repeat' with_reducible first | assumption | apply aluW_ok

theorem execBrev_ok {s : State} (h : s.Ok) (o : OpP) :
    OutOk (execBrev o s) := by
  unfold execBrev
  try dsimp only
  repeat' with_reducible first | assumption | apply aluU_ok

theorem execBfx_ok {s : State} (h : s.Ok) (o : OpW) :
    OutOk (execBfx o s) := by
  unfold execBfx
  try dsimp only
  repeat' with_reducible first | assumption | apply aluW_ok

theorem execBfi_ok {s : State} (h : s.Ok) (o : OpP) :
    OutOk (execBfi o s) := by
  unfold execBfi
  try dsimp only
  repeat' first | (with_reducible first | assumption | apply slot_ok | apply State.landInt_ok) | intro _

theorem execPack_ok {s : State} (h : s.Ok) (o : OpW) :
    OutOk (execPack o s) := by
  unfold execPack
  try dsimp only
  repeat' with_reducible first | assumption | apply aluW_ok

theorem execCmp_ok {s : State} (h : s.Ok) (o : OpP) :
    OutOk (execCmp o s) := by
  unfold execCmp
  try dsimp only
  repeat' first | (with_reducible first | assumption | apply slot_ok | apply State.landGate_ok) | intro _

theorem execTst_ok {s : State} (h : s.Ok) (o : OpP) :
    OutOk (execTst o s) := by
  unfold execTst
  try dsimp only
  repeat' first | (with_reducible first | assumption | apply slot_ok | apply State.landGate_ok) | intro _

theorem execTopk_ok {s : State} (h : s.Ok) (o : OpK) :
    OutOk (execTopk o s) := by
  unfold execTopk
  try dsimp only
  repeat' first | (with_reducible first | assumption | apply slot_ok | apply State.land_ok) | intro _

theorem execTopkc_ok {s : State} (h : s.Ok) (o : OpK) :
    OutOk (execTopkc o s) := by
  unfold execTopkc
  try dsimp only
  repeat' first | (with_reducible first | assumption | apply slot_ok | apply State.land_ok) | intro _

end Sys2Proof.Machine
end

