-- ==== Sys2Proof/Laws/OkFloat.lean ====
section
/-! SUPPORT. The operations of Machine/Float.lean keep what Laws/Ok.lean names. -/

namespace Sys2Proof.Machine

theorem fpOp_ok {s : State} (h : s.Ok) (o : OpP) (f : State → FVal) :
    OutOk (fpOp s o f) := by
  unfold fpOp
  try dsimp only
  repeat' first | (with_reducible first | assumption | apply slot_ok | apply State.land_ok) | intro _

theorem execFadd_ok {s : State} (h : s.Ok) (o : OpP) :
    OutOk (execFadd o s) := by
  unfold execFadd
  try dsimp only
  repeat' with_reducible first | assumption | apply fpOp_ok

theorem execFsub_ok {s : State} (h : s.Ok) (o : OpP) :
    OutOk (execFsub o s) := by
  unfold execFsub
  try dsimp only
  repeat' with_reducible first | assumption | apply fpOp_ok

theorem execFmul_ok {s : State} (h : s.Ok) (o : OpP) :
    OutOk (execFmul o s) := by
  unfold execFmul
  try dsimp only
  repeat' with_reducible first | assumption | apply fpOp_ok

theorem execFma_ok {s : State} (h : s.Ok) (o : OpP) :
    OutOk (execFma o s) := by
  unfold execFma
  try dsimp only
  repeat' with_reducible first | assumption | apply fpOp_ok

theorem execFmin_ok {s : State} (h : s.Ok) (o : OpP) :
    OutOk (execFmin o s) := by
  unfold execFmin
  try dsimp only
  repeat' with_reducible first | assumption | apply fpOp_ok

theorem execFmax_ok {s : State} (h : s.Ok) (o : OpP) :
    OutOk (execFmax o s) := by
  unfold execFmax
  try dsimp only
  repeat' with_reducible first | assumption | apply fpOp_ok

theorem execFsgn_ok {s : State} (h : s.Ok) (o : OpP) :
    OutOk (execFsgn o s) := by
  unfold execFsgn
  try dsimp only
  repeat' first | (with_reducible first | assumption | apply slot_ok | apply State.land_ok) | split | intro _

theorem execFcmp_ok {s : State} (h : s.Ok) (o : OpP) :
    OutOk (execFcmp o s) := by
  unfold execFcmp
  try dsimp only
  repeat' first | (with_reducible first | assumption | apply slot_ok | apply State.landGate_ok) | intro _

theorem execFrcp_ok {s : State} (h : s.Ok) (o : OpP) :
    OutOk (execFrcp o s) := by
  unfold execFrcp
  try dsimp only
  repeat' with_reducible first | assumption | apply fpOp_ok

theorem execFrsq_ok {s : State} (h : s.Ok) (o : OpP) :
    OutOk (execFrsq o s) := by
  unfold execFrsq
  try dsimp only
  repeat' with_reducible first | assumption | apply fpOp_ok

theorem execFcvt_ok {s : State} (h : s.Ok) (o : OpW) :
    OutOk (execFcvt o s) := by
  unfold execFcvt
  try dsimp only
  repeat' first | (with_reducible first | assumption | apply slot_ok | apply State.land_ok) | intro _

end Sys2Proof.Machine
end

