-- ==== Sys2Proof/Laws/OkPort.lean ====
section
/-! SUPPORT. The operations of Machine/Port.lean keep what Laws/Ok.lean names. -/

namespace Sys2Proof.Machine

theorem State.takeLock_ok {s : State} (h : s.Ok) (k : Nat) (tk : Nat) :
    (State.takeLock s k tk).Ok := by
  unfold State.takeLock
  try dsimp only
  repeat' with_reducible first | assumption | apply State.modLock_ok

theorem State.freeLock_ok {s : State} (h : s.Ok) (k : Nat) (tk : Nat) :
    (State.freeLock s k tk).Ok := by
  unfold State.freeLock
  try dsimp only
  repeat' with_reducible first | assumption | apply State.modLock_ok

theorem State.drawCard_ok {s : State} (h : s.Ok) (core a : Nat) : (s.drawCard core a).2.2.Ok := by
  unfold State.drawCard
  extract_lets n t
  split
  · exact h
  · exact State.writeLocal_ok h _ _ _ _

theorem Task.fillWell_gate {t : Task} (h : t.Gate) (a : Nat) (v : Nat) :
    (Task.fillWell t a v).Gate := by
  unfold Task.fillWell
  try dsimp only
  repeat' first
    | with_reducible first
        | assumption | apply Task.fillRet_gate | apply Task.wake_gate
    | split
    | (with_reducible refine Task.Gate.upd rfl ?_; dsimp only)
    | with_reducible apply Task.Gate.toSf

theorem State.fillFuture_ok {s : State} (h : s.Ok) (core : Nat) (a : Nat) (v : Nat) :
    (State.fillFuture s core a v).Ok := by
  unfold State.fillFuture
  try dsimp only
  repeat' first
    | with_reducible first
        | assumption | apply State.ite_ok | apply State.writeLocal_ok | apply Task.fillWell_gate
    | split
    | with_reducible first
        | apply State.Ok.of | apply Sparse.wf_mapAll | apply Sparse.All.mapAll | apply State.Ok.mem | apply State.Ok.tasks
        | apply State.Ok.tiles | apply State.Ok.cells | apply State.Ok.cmds | apply State.Ok.locks | apply State.Ok.fields
        | apply State.Ok.dies | apply State.Ok.gates | apply State.Ok.gate
    | intro _

theorem State.answer_ok {s : State} (h : s.Ok) (tk : Nat) (ret : Option Nat) (v : Nat) (g : Bool) :
    (State.answer s tk ret v g).Ok := by
  unfold State.answer
  try dsimp only
  repeat' first | (with_reducible first | assumption | apply Task.fillRet_gate | apply State.modTask_ok) | split | intro _

theorem State.doAccess_ok {s : State} (h : s.Ok) (tk : Nat) (a : Access) :
    (State.doAccess s tk a).Ok := by
  unfold State.doAccess
  try dsimp only
  repeat' first
    | with_reducible first
        | assumption | apply State.foldl_ok | apply State.ite_ok | apply Task.gateRet_gate | apply State.modTask_ok
        | apply State.writeLocal_ok | apply State.decCounter_ok | apply State.watchLocal_ok | apply State.drawCard_ok
        | apply State.fillFuture_ok | apply State.answer_ok
    | split
    | (with_reducible refine Task.Gate.upd rfl ?_; dsimp only)
    | with_reducible apply Task.Gate.toSf
    | intro _

theorem State.performWhole_ok {s : State} (h : s.Ok) (tk : Nat) (a : Access) :
    (State.performWhole s tk a).Ok := by
  unfold State.performWhole
  try dsimp only
  repeat' first
    | with_reducible first
        | assumption | apply State.watchLocal_ok | apply State.takeLock_ok | apply State.freeLock_ok
        | apply State.doAccess_ok
    | split

theorem State.piece_ok {s : State} (h : s.Ok) (tk : Nat) (a : Access) (p : Nat × Nat) : (s.piece tk a p).1.Ok := by
  unfold State.piece
  dsimp only
  repeat' first
    | with_reducible first | assumption | apply State.writeLocal_ok | apply State.takeLock_ok
    | split

theorem State.endPieces_ok {s : State} (h : s.Ok) (tk : Nat) (a : Access) :
    (State.endPieces s tk a).Ok := by
  unfold State.endPieces
  try dsimp only
  repeat' first | (with_reducible first | assumption | apply State.watchLocal_ok | apply State.freeLock_ok | apply State.answer_ok) | split

theorem State.perform_ok {s : State} (h : s.Ok) (tk : Nat) (a : Access) : (s.perform tk a).Ok := by
  have hp (l : List (Nat × Nat)) : ∀ x : State × Access, x.1.Ok → (l.foldl (fun x p => State.piece x.1 tk x.2 p) x).1.Ok := by
    induction l with
    | nil => exact fun _ hx => hx
    | cons p l ih => exact fun _ hx => ih _ (State.piece_ok hx _ _ _)
  unfold State.perform
  dsimp only
  split
  · exact State.performWhole_ok h _ _
  · exact State.endPieces_ok (hp _ _ h) _ _

theorem State.dropPort_ok {s : State} (h : s.Ok) (tk : Nat) (i : Nat) :
    (State.dropPort s tk i).Ok := by
  unfold State.dropPort
  try dsimp only
  repeat' first
    | with_reducible first
        | assumption | apply State.foldl_ok | apply State.modTask_ok | apply State.modCmd_ok
    | split
    | with_reducible apply State.Ok.of
    | (with_reducible refine Task.Gate.upd rfl ?_; dsimp only)
    | with_reducible first
        | apply State.Ok.mem | apply State.Ok.tasks | apply State.Ok.tiles | apply State.Ok.cells | apply State.Ok.cmds
        | apply State.Ok.locks | apply State.Ok.fields | apply State.Ok.dies | apply State.Ok.gates | apply State.Ok.gate
        | apply Task.Gate.toSf
    | intro _

theorem State.popPort_ok {s : State} (h : s.Ok) (tk : Nat) :
    (State.popPort s tk).Ok := by
  unfold State.popPort
  try dsimp only
  repeat' with_reducible first | assumption | apply State.dropPort_ok

theorem State.drainPort_ok (n tk : Nat) {s : State} (h : s.Ok) : (State.drainPort n tk s).Ok := by
  induction n generalizing s with
  | zero => exact h
  | succ n ih =>
    unfold State.drainPort
    extract_lets t
    split
    · exact h
    · split
      · exact h
      · split
        · split
          · exact ih (State.popPort_ok (State.perform_ok h _ _) _)
          · apply State.modLock_ok
            exact State.modTask_ok h _ fun _ hx => hx
        · exact ih (State.popPort_ok (State.perform_ok h _ _) _)

theorem State.afterPort_ok {s : State} (h : s.Ok) (tk : Nat) :
    (State.afterPort s tk).Ok := by
  unfold State.afterPort
  try dsimp only
  repeat' with_reducible first | assumption | apply State.ite_ok | apply Task.capture_gate | apply State.modTask_ok | apply State.takeAsyncs_ok

theorem State.drain_ok {s : State} (h : s.Ok) (tk : Nat) :
    (State.drain s tk).Ok := by
  unfold State.drain
  try dsimp only
  repeat' with_reducible first | assumption | apply State.ite_ok | apply State.drainPort_ok | apply State.afterPort_ok

theorem State.access_ok {s : State} (h : s.Ok) (a : Access) :
    (State.access s a).Ok := by
  unfold State.access
  try dsimp only
  repeat' first
    | with_reducible first
        | assumption | apply State.ite_ok | apply State.modTask_ok | apply State.drainPort_ok
    | (with_reducible refine Task.Gate.upd rfl ?_; dsimp only)
    | with_reducible apply Task.Gate.toSf
    | intro _

theorem State.performAt_ok {s : State} (h : s.Ok) (tk : Nat) (i : Nat) :
    (State.performAt s tk i).Ok := by
  unfold State.performAt
  try dsimp only
  repeat' first
    | with_reducible first
        | assumption | apply State.ite_ok | apply State.perform_ok | apply State.dropPort_ok | apply State.afterPort_ok
    | split

theorem State.pieceAt_ok {s : State} (h : s.Ok) (tk i j : Nat) : (s.pieceAt tk i j).Ok := by
  unfold State.pieceAt
  split
  · exact h
  split
  · exact h
  dsimp only
  split
  · exact h
  split
  · exact State.afterPort_ok (State.dropPort_ok (State.endPieces_ok (State.piece_ok h _ _ _) _ _) _ _) _
  · exact State.modTask_ok (State.piece_ok h _ _ _) _ fun _ hx => hx

theorem State.accessRet_ok {s : State} (h : s.Ok) (k : AccKind) (addr : Nat) (d : Nat) (n : Nat) :
    (State.accessRet s k addr d n).Ok := by
  unfold State.accessRet
  try dsimp only
  repeat' first | (with_reducible first | assumption | apply Task.addRet_gate | apply State.modTask_ok | apply State.access_ok) | intro _

theorem State.returnNow_ok {s : State} (h : s.Ok) (d : Nat) (n : Nat) (v : Nat) :
    (State.returnNow s d n v).Ok := by
  unfold State.returnNow
  try dsimp only
  repeat' first | (with_reducible first | assumption | apply Task.fillRet_gate | apply Task.addRet_gate | apply State.modTask_ok) | intro _

end Sys2Proof.Machine
end

