-- ==== Sys2Proof/Laws/OkSliceMem.lean ====
section
/-! SUPPORT. The operations of Machine/SliceMem.lean keep what Laws/Ok.lean names. -/

namespace Sys2Proof.Machine

theorem execLd_ok {s : State} (h : s.Ok) (o : OpI) :
    OutOk (execLd o s) := by
  unfold execLd
  try dsimp only
  repeat' first | (with_reducible first | assumption | apply slotOr_ok | apply State.accessRet_ok) | intro _

theorem execSt_ok {s : State} (h : s.Ok) (o : OpI) :
    OutOk (execSt o s) := by
  unfold execSt
  try dsimp only
  repeat' first | (with_reducible first | assumption | apply slotOr_ok | apply State.access_ok) | intro _

theorem execLdl_ok {s : State} (h : s.Ok) (o : OpI) :
    OutOk (execLdl o s) := by
  unfold execLdl
  try dsimp only
  repeat' first | (with_reducible first | assumption | apply slotOr_ok | apply State.accessRet_ok) | intro _

theorem execStu_ok {s : State} (h : s.Ok) (o : OpI) :
    OutOk (execStu o s) := by
  unfold execStu
  try dsimp only
  repeat' first | (with_reducible first | assumption | apply slotOr_ok | apply State.access_ok) | intro _

theorem execSpill_ok {s : State} (h : s.Ok) (o : OpI) :
    OutOk (execSpill o s) := by
  unfold execSpill
  try dsimp only
  repeat' first | (with_reducible first | assumption | apply slotOr_ok | apply State.access_ok) | intro _

theorem execFill_ok {s : State} (h : s.Ok) (o : OpI) :
    OutOk (execFill o s) := by
  unfold execFill
  try dsimp only
  repeat' first | (with_reducible first | assumption | apply slotOr_ok | apply State.accessRet_ok) | intro _

theorem Task.pushFq_gate {t : Task} (h : t.Gate) (w : Word64) :
    (Task.pushFq t w).Gate := by
  unfold Task.pushFq
  try dsimp only
  repeat' first | with_reducible assumption | split | (with_reducible refine Task.Gate.upd rfl ?_; dsimp only) | with_reducible apply Task.Gate.toSf

theorem execPush_ok {s : State} (h : s.Ok) (o : OpP) : OutOk (execPush o s) := by
  unfold execPush
  apply slot_ok h
  intro s h
  extract_lets w t t1 s1 ord rel s2
  have h1 : s1.Ok := State.modTask_ok h _ fun _ _ => Task.pushFq_gate (h.task _) _
  have h2 : s2.Ok := State.ite_ok (State.access_ok h1 _) h1
  refine State.ite_ok h (State.ite_ok (State.send_ok h _ _ _ _ _ _) (State.ite_ok h1 (State.ite_ok (State.access_ok h2 _) h2)))

theorem execPop_ok {s : State} (h : s.Ok) (o : OpP) :
    OutOk (execPop o s) := by
  unfold execPop
  try dsimp only
  repeat' first
    | with_reducible first
        | assumption | apply slot_ok | apply State.returnNow_ok | apply State.modTask_ok | apply State.modTile_ok
    | split
    | (with_reducible refine Task.Gate.upd rfl ?_; dsimp only)
    | with_reducible apply Task.Gate.toSf
    | intro _

theorem execHfld_ok {s : State} (h : s.Ok) (o : OpP) :
    OutOk (execHfld o s) := by
  unfold execHfld
  try dsimp only
  repeat' first | (with_reducible first | assumption | apply slot_ok | apply State.landInt_ok) | intro _

theorem execHfset_ok {s : State} (h : s.Ok) (o : OpP) :
    OutOk (execHfset o s) := by
  unfold execHfset
  try dsimp only
  repeat' first
    | with_reducible first
        | assumption | apply slot_ok | apply State.modTask_ok
    | (with_reducible refine Task.Gate.upd rfl ?_; dsimp only)
    | with_reducible apply Task.Gate.toSf
    | intro _

end Sys2Proof.Machine
end

