-- ==== Sys2Proof/Laws/OkTokens.lean ====
section
/-! SUPPORT. The operations of Machine/Tokens.lean keep what Laws/Ok.lean names. -/

namespace Sys2Proof.Machine

theorem execSig_ok {s : State} (h : s.Ok) (lc : LoopCond) (vc : Nat) (sl : Nat) (scope : Nat) :
    OutOk (execSig lc vc sl scope s) := by
  unfold execSig
  try dsimp only
  repeat' first | (with_reducible first | assumption | apply slotOr_ok | apply State.send_ok) | intro _

theorem execSigm_ok {s : State} (h : s.Ok) (lc : LoopCond) (vc : Nat) (sl : Nat) (scope : Nat) :
    OutOk (execSigm lc vc sl scope s) := by
  unfold execSigm
  try dsimp only
  repeat' first | (with_reducible first | assumption | apply State.foldl_ok | apply slotOr_ok | apply State.send_ok) | intro _

theorem State.unbindVc_ok {s : State} (h : s.Ok) (core : Nat) (n : Nat) :
    (State.unbindVc s core n).Ok := by
  unfold State.unbindVc
  try dsimp only
  repeat' first
    | with_reducible first
        | assumption | apply State.modTask_ok
    | split
    | (with_reducible refine Task.Gate.upd rfl ?_; dsimp only)
    | with_reducible apply Task.Gate.toSf
    | intro _

theorem execBind_ok {s : State} (h : s.Ok) (lc : LoopCond) (vc : Nat) (ctx : Nat) :
    OutOk (execBind lc vc ctx s) := by
  unfold execBind
  try dsimp only
  repeat' first
    | with_reducible first
        | assumption | apply slot_ok | apply Task.wordWake_gate | apply State.modTask_ok | apply State.unbindVc_ok
    | split
    | (with_reducible refine Task.Gate.upd rfl ?_; dsimp only)
    | with_reducible apply Task.Gate.toSf
    | intro _

theorem execUnbind_ok {s : State} (h : s.Ok) (lc : LoopCond) (vc : Nat) :
    OutOk (execUnbind lc vc s) := by
  unfold execUnbind
  try dsimp only
  repeat' first | (with_reducible first | assumption | apply slot_ok | apply State.unbindVc_ok) | intro _

theorem execDcset_ok {s : State} (h : s.Ok) (lc : LoopCond) (sl : Nat) (dc : Nat) :
    OutOk (execDcset lc sl dc s) := by
  unfold execDcset
  try dsimp only
  repeat' first | (with_reducible first | assumption | apply slot_ok | apply State.modTile_ok) | split | intro _

theorem execDcdec_ok {s : State} (h : s.Ok) (lc : LoopCond) (dc : Nat) :
    OutOk (execDcdec lc dc s) := by
  unfold execDcdec
  try dsimp only
  repeat' first
    | with_reducible first
        | assumption | apply slot_ok | apply State.modTask_ok | apply State.decCounter_ok
    | split
    | (with_reducible refine Task.Gate.upd rfl ?_; dsimp only)
    | with_reducible apply Task.Gate.toSf
    | intro _

theorem execDraw_ok {s : State} (h : s.Ok) (o : OpHS) :
    OutOk (execDraw o s) := by
  unfold execDraw
  try dsimp only
  repeat' first | (with_reducible first | assumption | apply slotOr_ok | apply State.accessRet_ok) | intro _

theorem execFput_ok {s : State} (h : s.Ok) (o : OpHS) :
    OutOk (execFput o s) := by
  unfold execFput
  try dsimp only
  repeat' first | (with_reducible first | assumption | apply slotOr_ok | apply State.access_ok) | intro _

theorem execResv_ok {s : State} (h : s.Ok) (o : OpHS) :
    OutOk (execResv o s) := by
  unfold execResv
  try dsimp only
  repeat' first | (with_reducible first | assumption | apply slotOr_ok | apply State.accessRet_ok) | intro _

theorem execPubl_ok {s : State} (h : s.Ok) (o : OpHS) :
    OutOk (execPubl o s) := by
  unfold execPubl
  try dsimp only
  repeat' first | (with_reducible first | assumption | apply slotOr_ok | apply State.access_ok) | intro _

theorem execRtake_ok {s : State} (h : s.Ok) (o : OpHS) (maxm1 : Nat) :
    OutOk (execRtake o maxm1 s) := by
  unfold execRtake
  try dsimp only
  repeat' first | (with_reducible first | assumption | apply slotOr_ok | apply State.accessRet_ok) | intro _

theorem atomic_ok {s : State} (h : s.Ok) (op : Nat) (o : OpAt) :
    OutOk (atomic op o s) := by
  unfold atomic
  try dsimp only
  repeat' first | (with_reducible first | assumption | apply slotOr_ok | apply State.access_ok | apply State.accessRet_ok) | split | intro _

theorem execAadd_ok {s : State} (h : s.Ok) (o : OpAt) :
    OutOk (execAadd o s) := by
  unfold execAadd
  try dsimp only
  repeat' with_reducible first | assumption | apply atomic_ok

theorem execAmin_ok {s : State} (h : s.Ok) (o : OpAt) :
    OutOk (execAmin o s) := by
  unfold execAmin
  try dsimp only
  repeat' with_reducible first | assumption | apply atomic_ok

theorem execAmax_ok {s : State} (h : s.Ok) (o : OpAt) :
    OutOk (execAmax o s) := by
  unfold execAmax
  try dsimp only
  repeat' with_reducible first | assumption | apply atomic_ok

theorem execAminu_ok {s : State} (h : s.Ok) (o : OpAt) :
    OutOk (execAminu o s) := by
  unfold execAminu
  try dsimp only
  repeat' with_reducible first | assumption | apply atomic_ok

theorem execAmaxu_ok {s : State} (h : s.Ok) (o : OpAt) :
    OutOk (execAmaxu o s) := by
  unfold execAmaxu
  try dsimp only
  repeat' with_reducible first | assumption | apply atomic_ok

theorem execAand_ok {s : State} (h : s.Ok) (o : OpAt) :
    OutOk (execAand o s) := by
  unfold execAand
  try dsimp only
  repeat' with_reducible first | assumption | apply atomic_ok

theorem execAor_ok {s : State} (h : s.Ok) (o : OpAt) :
    OutOk (execAor o s) := by
  unfold execAor
  try dsimp only
  repeat' with_reducible first | assumption | apply atomic_ok

theorem execAxor_ok {s : State} (h : s.Ok) (o : OpAt) :
    OutOk (execAxor o s) := by
  unfold execAxor
  try dsimp only
  repeat' with_reducible first | assumption | apply atomic_ok

theorem execAswp_ok {s : State} (h : s.Ok) (o : OpAt) :
    OutOk (execAswp o s) := by
  unfold execAswp
  try dsimp only
  repeat' with_reducible first | assumption | apply atomic_ok

theorem execAcas_ok {s : State} (h : s.Ok) (o : OpAt) :
    OutOk (execAcas o s) := by
  unfold execAcas
  try dsimp only
  repeat' with_reducible first | assumption | apply atomic_ok

theorem execAld_ok {s : State} (h : s.Ok) (o : OpAt) :
    OutOk (execAld o s) := by
  unfold execAld
  try dsimp only
  repeat' with_reducible first | assumption | apply atomic_ok

theorem execAst_ok {s : State} (h : s.Ok) (o : OpAt) :
    OutOk (execAst o s) := by
  unfold execAst
  try dsimp only
  repeat' with_reducible first | assumption | apply atomic_ok

theorem execHld_ok {s : State} (h : s.Ok) (o : OpHS) :
    OutOk (execHld o s) := by
  unfold execHld
  try dsimp only
  repeat' first
    | with_reducible first
        | assumption | apply slotOr_ok | apply State.access_ok | apply Task.addRet_gate | apply State.modTask_ok
    | intro _

theorem execHst_ok {s : State} (h : s.Ok) (o : OpHS) :
    OutOk (execHst o s) := by
  unfold execHst
  try dsimp only
  repeat' first | (with_reducible first | assumption | apply slotOr_ok | apply State.access_ok) | intro _

theorem execHmov_ok {s : State} (h : s.Ok) (lc : LoopCond) (h : Nat) (h2 : Nat) :
    OutOk (execHmov lc h h2 s) := by
  unfold execHmov
  try dsimp only
  repeat' first
    | with_reducible first
        | assumption | apply slot_ok | apply State.modTask_ok
    | split
    | (with_reducible refine Task.Gate.upd rfl ?_; dsimp only)
    | with_reducible apply Task.Gate.toSf
    | intro _

theorem Task.rsynCheck_gate (n : Nat) {t : Task} (h : t.Gate) : (Task.rsynCheck n t).Gate := by
  induction n generalizing t with
  | zero => exact h
  | succ n ih =>
    unfold Task.rsynCheck
    split
    · exact h
    · split
      · exact ih h
      · split <;> exact h

theorem Task.countEnd_gate {t : Task} (h : t.Gate) (num : Nat) (ok : Bool) : (t.countEnd num ok).Gate := by
  unfold Task.countEnd
  apply Task.rsynCheck_gate
  split
  · exact h
  · split <;> exact h

theorem execRsyn_ok {s : State} (h : s.Ok) (o : OpS) :
    OutOk (execRsyn o s) := by
  unfold execRsyn
  try dsimp only
  repeat' first
    | with_reducible first
        | assumption | apply slot_ok | apply Task.addRet_gate | apply State.modTask_ok | apply Task.rsynCheck_gate
    | (with_reducible refine Task.Gate.upd rfl ?_; dsimp only)
    | with_reducible apply Task.Gate.toSf
    | intro _

theorem State.tinv_ok {s : State} (h : s.Ok) (v : Nat) (all : Bool) :
    (State.tinv s v all).Ok := by
  unfold State.tinv
  try dsimp only
  repeat' first
    | with_reducible assumption
    | split
    | with_reducible first
        | apply State.Ok.of | apply Sparse.wf_mapAll | apply State.Ok.mem | apply State.Ok.tasks | apply State.Ok.tiles
        | apply State.Ok.cells | apply State.Ok.cmds | apply State.Ok.locks | apply State.Ok.fields | apply State.Ok.dies
        | apply State.Ok.gates | apply State.Ok.gate

theorem execTinv_ok {s : State} (h : s.Ok) (lc : LoopCond) (sl : Nat) (all : Bool) :
    OutOk (execTinv lc sl all s) := by
  unfold execTinv
  try dsimp only
  repeat' first
    | with_reducible first
        | assumption | apply slotPriv_ok | apply State.returnNow_ok | apply Task.addRet_gate | apply State.modTask_ok
        | apply State.tinv_ok
    | split
    | (with_reducible refine Task.Gate.upd rfl ?_; dsimp only)
    | with_reducible apply Task.Gate.toSf
    | intro _

theorem State.tinvAnswer_ok {s : State} (h : s.Ok) (tk : Nat) (ret : Nat) :
    (State.tinvAnswer s tk ret).Ok := by
  unfold State.tinvAnswer
  try dsimp only
  repeat' first
    | with_reducible first
        | assumption | apply State.ite_ok | apply Task.fillRet_gate | apply State.modTask_ok
    | split
    | (with_reducible refine Task.Gate.upd rfl ?_; dsimp only)
    | with_reducible apply Task.Gate.toSf
    | intro _

end Sys2Proof.Machine
end

