-- ==== Sys2Proof/Laws/OkControl.lean ====
section
/-! SUPPORT. The operations of Machine/Control.lean keep what Laws/Ok.lean names. -/

namespace Sys2Proof.Machine

theorem State.branch_ok {s : State} (h : s.Ok) (target : Nat) :
    (State.branch s target).Ok := by
  unfold State.branch
  try dsimp only
  repeat' first
    | with_reducible first
        | assumption | apply State.modTask_ok | apply State.Ok.of
    | (with_reducible refine Task.Gate.upd rfl ?_; dsimp only)
    | with_reducible first
        | apply State.Ok.mem | apply State.Ok.tasks | apply State.Ok.tiles | apply State.Ok.cells | apply State.Ok.cmds
        | apply State.Ok.locks | apply State.Ok.fields | apply State.Ok.dies | apply State.Ok.gates | apply State.Ok.gate
        | apply Task.Gate.toSf
    | intro _

theorem execNop_ok {s : State} (h : s.Ok) (c : Ctl) :
    OutOk (execNop c s) := by
  unfold execNop
  try dsimp only
  repeat' first | (with_reducible first | assumption | apply slot_ok) | intro _

theorem execBr_ok {s : State} (h : s.Ok) (c : Ctl) (off : Int) :
    OutOk (execBr c off s) := by
  unfold execBr
  try dsimp only
  repeat' first | (with_reducible first | assumption | apply slot_ok | apply State.branch_ok) | intro _

theorem execBrl_ok {s : State} (h : s.Ok) (c : Ctl) (link : Nat) (off : Int) :
    OutOk (execBrl c link off s) := by
  unfold execBrl
  try dsimp only
  repeat' first | (with_reducible first | assumption | apply slot_ok | apply State.land_ok | apply State.branch_ok) | intro _

theorem execJmp_ok {s : State} (h : s.Ok) (c : Ctl) (t : Nat) :
    OutOk (execJmp c t s) := by
  unfold execJmp
  try dsimp only
  repeat' first | (with_reducible first | assumption | apply slot_ok | apply State.branch_ok) | intro _

theorem State.enterLoop_ok {s : State} (h : s.Ok) (count : Nat) (fin : Nat) :
    (State.enterLoop s count fin).Ok := by
  unfold State.enterLoop
  try dsimp only
  repeat' first
    | with_reducible first
        | assumption | apply State.ite_ok | apply State.modTask_ok | apply State.Ok.of
    | (with_reducible refine Task.Gate.upd rfl ?_; dsimp only)
    | with_reducible first
        | apply State.Ok.mem | apply State.Ok.tasks | apply State.Ok.tiles | apply State.Ok.cells | apply State.Ok.cmds
        | apply State.Ok.locks | apply State.Ok.fields | apply State.Ok.dies | apply State.Ok.gates | apply State.Ok.gate
        | apply Task.Gate.toSf
    | intro _

theorem execLoop_ok {s : State} (h : s.Ok) (c : Ctl) (cnt : Nat) (fin : Nat) :
    OutOk (execLoop c cnt fin s) := by
  unfold execLoop
  try dsimp only
  repeat' first | (with_reducible first | assumption | apply slotOr_ok | apply State.enterLoop_ok) | intro _

theorem execLoopi_ok {s : State} (h : s.Ok) (c : Ctl) (count : Nat) (fin : Nat) :
    OutOk (execLoopi c count fin s) := by
  unfold execLoopi
  try dsimp only
  repeat' first | (with_reducible first | assumption | apply slotOr_ok | apply State.enterLoop_ok) | intro _

theorem execLind_ok {s : State} (h : s.Ok) (c : Ctl) (i : Nat) (lvl : Nat) (w : Nat) (stride : Int) :
    OutOk (execLind c i lvl w stride s) := by
  unfold execLind
  try dsimp only
  repeat' first
    | with_reducible first
        | assumption | apply slot_ok | apply State.modTask_ok
    | (with_reducible refine Task.Gate.upd rfl ?_; dsimp only)
    | with_reducible apply Task.Gate.toSf
    | intro _

theorem execLbrk_ok {s : State} (h : s.Ok) (c : Ctl) (lvl : Nat) :
    OutOk (execLbrk c lvl s) := by
  unfold execLbrk
  try dsimp only
  repeat' first
    | with_reducible first
        | assumption | apply slot_ok | apply State.modTask_ok
    | split
    | (with_reducible refine Task.Gate.upd rfl ?_; dsimp only)
    | with_reducible apply Task.Gate.toSf
    | intro _

theorem execEnd_ok {s : State} (h : s.Ok) (c : Ctl) :
    OutOk (execEnd c s) := by
  unfold execEnd
  try dsimp only
  repeat' first
    | with_reducible first
        | assumption | apply slot_ok | apply State.modTask_ok
    | split
    | with_reducible apply State.Ok.of
    | (with_reducible refine Task.Gate.upd rfl ?_; dsimp only)
    | with_reducible first
        | apply State.Ok.mem | apply State.Ok.tasks | apply State.Ok.tiles | apply State.Ok.cells | apply State.Ok.cmds
        | apply State.Ok.locks | apply State.Ok.fields | apply State.Ok.dies | apply State.Ok.gates | apply State.Ok.gate
        | apply Task.Gate.toSf
    | intro _

theorem execYield_ok {s : State} (h : s.Ok) (c : Ctl) :
    OutOk (execYield c s) := by
  unfold execYield
  try dsimp only
  repeat' first | (with_reducible first | assumption | apply slot_ok | apply State.modTile_ok) | intro _

theorem execWaitc_ok {s : State} (h : s.Ok) (c : Ctl) (dc : Nat) :
    OutOk (execWaitc c dc s) := by
  unfold execWaitc
  try dsimp only
  repeat' first
    | with_reducible first
        | assumption | apply slot_ok | apply State.modTask_ok
    | split
    | (with_reducible refine Task.Gate.upd rfl ?_; dsimp only)
    | with_reducible apply Task.Gate.toSf
    | intro _

theorem execWaitf_ok {s : State} (h : s.Ok) (c : Ctl) (a : Nat) (v : Nat) (g : Nat) :
    OutOk (execWaitf c a v g s) := by
  unfold execWaitf
  try dsimp only
  repeat' first
    | with_reducible first
        | assumption | apply slotOr_ok | apply State.access_ok | apply Task.addRet_gate | apply State.modTask_ok
    | intro _

theorem execFence_ok {s : State} (h : s.Ok) (c : Ctl) (kind : Nat) (scope : Nat) :
    OutOk (execFence c kind scope s) := by
  unfold execFence
  try dsimp only
  repeat' first | (with_reducible first | assumption | apply slot_ok | apply State.access_ok) | intro _

theorem execTrap_ok {s : State} (h : s.Ok) (c : Ctl) (code : Nat) :
    OutOk (execTrap c code s) := by
  unfold execTrap
  try dsimp only
  repeat' first | (with_reducible first | assumption | apply slotOr_ok) | intro _

theorem execBkpt_ok {s : State} (h : s.Ok) (c : Ctl) (code : Nat) :
    OutOk (execBkpt c code s) := by
  unfold execBkpt
  try dsimp only
  repeat' first | (with_reducible first | assumption | apply slotOr_ok) | intro _

theorem execPrio_ok {s : State} (h : s.Ok) (c : Ctl) (p : Nat) :
    OutOk (execPrio c p s) := by
  unfold execPrio
  try dsimp only
  repeat' first
    | with_reducible first
        | assumption | apply slot_ok | apply State.modTask_ok
    | (with_reducible refine Task.Gate.upd rfl ?_; dsimp only)
    | with_reducible apply Task.Gate.toSf
    | intro _

theorem State.startCopy_ok {s : State} (h : s.Ok) (core : Nat) (page : Nat) :
    (State.startCopy s core page).Ok := by
  unfold State.startCopy
  try dsimp only
  repeat' first
    | with_reducible first
        | assumption | apply State.foldl_ok | apply State.modTask_ok | apply State.modTile_ok
    | (with_reducible refine Task.Gate.upd rfl ?_; dsimp only)
    | with_reducible apply Task.Gate.toSf
    | intro _

theorem State.supPerform_ok {s : State} (h : s.Ok) (core : Nat) (o : SupOp) :
    (State.supPerform s core o).Ok := by
  unfold State.supPerform
  try dsimp only
  repeat' first | (with_reducible first | assumption | apply State.holdTask_ok | apply State.eretTask_ok | apply State.startCopy_ok) | split

theorem State.supQueue_ok {s : State} (h : s.Ok) (core : Nat) (o : SupOp) :
    (State.supQueue s core o).Ok := by
  unfold State.supQueue
  try dsimp only
  repeat' with_reducible first | assumption | apply State.modTile_ok

theorem State.supAsk_ok {s : State} (h : s.Ok) (core : Nat) (o : SupOp) :
    (State.supAsk s core o).Ok := by
  unfold State.supAsk
  try dsimp only
  repeat' first | (with_reducible first | assumption | apply State.ite_ok | apply State.supPerform_ok | apply State.supQueue_ok) | split

theorem State.supGo_ok (n core tk : Nat) {s : State} (h : s.Ok) : (State.supGo n core tk s).Ok := by
  induction n generalizing s with
  | zero => exact h
  | succ n ih =>
    unfold State.supGo
    split
    · exact h
    · split
      · exact State.supPerform_ok h _ _
      · exact ih (State.supPerform_ok (State.modTile_ok h _ _) _ _)
      · exact h

theorem execEret_ok {s : State} (h : s.Ok) (c : Ctl) (t : Nat) (skip : Bool) :
    OutOk (execEret c t skip s) := by
  unfold execEret
  try dsimp only
  repeat' first | (with_reducible first | assumption | apply slotPriv_ok | apply State.supAsk_ok) | intro _

theorem execHold_ok {s : State} (h : s.Ok) (c : Ctl) (t : Nat) :
    OutOk (execHold c t s) := by
  unfold execHold
  try dsimp only
  repeat' first | (with_reducible first | assumption | apply slotPriv_ok | apply State.supAsk_ok) | intro _

theorem State.loadPage_ok {s : State} (h : s.Ok) (core : Nat) (page : Nat) (a : Nat) :
    (State.loadPage s core page a).Ok := by
  unfold State.loadPage
  try dsimp only
  repeat' with_reducible first | assumption | apply State.modTile_ok | apply State.writeQuiet_ok

theorem execIpage_ok {s : State} (h : s.Ok) (c : Ctl) (p : Nat) :
    OutOk (execIpage c p s) := by
  unfold execIpage
  try dsimp only
  repeat' first | (with_reducible first | assumption | apply slotPriv_ok | apply State.supAsk_ok) | intro _

theorem State.copyDone_ok {s : State} (h : s.Ok) (core tk : Nat) : (s.copyDone core tk).Ok := by
  unfold State.copyDone
  split
  · exact h
  · split
    · exact State.supGo_ok _ _ _ (State.modTile_ok (State.loadPage_ok h _ _ _) _ _)
    · exact h

end Sys2Proof.Machine
end

