-- ==== Sys2Proof/Laws/OkMonitor.lean ====
section
/-! SUPPORT. The operations of Machine/Monitor.lean keep what Laws/Ok.lean names. -/

namespace Sys2Proof.Machine

theorem State.sample_ok {s : State} (h : s.Ok) (m : Nat) (v : Nat) :
    (State.sample s m v).Ok := by
  unfold State.sample
  try dsimp only
  repeat' first
    | with_reducible first
        | assumption | apply State.Ok.of | apply State.Ok.mem | apply State.Ok.tasks | apply State.Ok.tiles
        | apply State.Ok.cells | apply State.Ok.cmds | apply State.Ok.locks | apply State.Ok.fields | apply State.Ok.dies
        | apply State.Ok.gates | apply State.Ok.gate

theorem State.sampleFree_ok {s : State} (h : s.Ok) (m : Nat) :
    (State.sampleFree s m).Ok := by
  unfold State.sampleFree
  try dsimp only
  repeat' first
    | with_reducible first
        | assumption | apply State.sample_ok | apply State.Ok.of | apply State.Ok.mem | apply State.Ok.tasks
        | apply State.Ok.tiles | apply State.Ok.cells | apply State.Ok.cmds | apply State.Ok.locks | apply State.Ok.fields
        | apply State.Ok.dies | apply State.Ok.gates | apply State.Ok.gate

theorem State.hbmRead_ok {s : State} (h : s.Ok) (a : Nat) (n : Nat) :
    (State.hbmRead s a n).Ok := by
  unfold State.hbmRead
  try dsimp only
  repeat' first | (with_reducible first | assumption | apply State.foldl_ok | apply State.sampleFree_ok) | intro _

theorem State.noteWalk_ok {s : State} (h : s.Ok) (cache : Sparse Nat) (dva : Nat) :
    (State.noteWalk s cache dva).Ok := by
  unfold State.noteWalk
  try dsimp only
  repeat' first | (with_reducible first | assumption | apply State.foldl_ok | apply State.hbmRead_ok) | intro _

theorem State.noteHops_ok {s : State} (h : s.Ok) (l : Leaf) (a : Nat) :
    (State.noteHops s l a).Ok := by
  unfold State.noteHops
  try dsimp only
  repeat' first | (with_reducible first | assumption | apply State.foldl_ok | apply State.noteWalk_ok) | intro _

theorem State.noteWalks_ok {s : State} (h : s.Ok) (dva : Nat) :
    (State.noteWalks s dva).Ok := by
  unfold State.noteWalks
  try dsimp only
  repeat' first | (with_reducible first | assumption | apply State.noteWalk_ok | apply State.noteHops_ok) | split

theorem State.notePages_ok {s : State} (h : s.Ok) (l : List Nat) :
    (State.notePages s l).Ok := by
  unfold State.notePages
  try dsimp only
  repeat' first | (with_reducible first | assumption | apply State.foldl_ok | apply State.noteWalks_ok) | intro _

theorem State.noteLines_ok {s : State} (h : s.Ok) (l : List Nat) :
    (State.noteLines s l).Ok := by
  unfold State.noteLines
  try dsimp only
  repeat' first | (with_reducible first | assumption | apply State.foldl_ok | apply State.hbmRead_ok | apply State.notePages_ok) | split | intro _

theorem State.noteDva_ok {s : State} (h : s.Ok) (a : Nat) (n : Nat) :
    (State.noteDva s a n).Ok := by
  unfold State.noteDva
  try dsimp only
  repeat' with_reducible first | assumption | apply State.noteLines_ok

end Sys2Proof.Machine
end

