-- ==== Sys2Proof/Laws/OkComplete.lean ====
section
/-! SUPPORT. The operations of Machine/Complete.lean keep what Laws/Ok.lean names. -/

namespace Sys2Proof.Machine

theorem State.writeAt_ok {s : State} (h : s.Ok) (loc : Bool) (a : Nat) (l : List Byte) : (s.writeAt loc a l).Ok :=
  State.ite_ok (State.write_ok h _ _ _) (State.writeDva_getD_ok h _ _ _ _)

theorem State.completeLaunch_ok {s : State} (h : s.Ok) (id : Nat) (status : Nat) (detail : Nat) :
    (State.completeLaunch s id status detail).Ok := by
  unfold State.completeLaunch
  try dsimp only
  repeat' first
    | with_reducible first
        | assumption | apply State.writeAt_ok
    | split
    | with_reducible first
        | apply State.Ok.of | apply State.Ok.mem | apply State.Ok.tasks | apply State.Ok.tiles | apply State.Ok.cells
        | apply State.Ok.cmds | apply State.Ok.locks | apply State.Ok.fields | apply State.Ok.dies | apply State.Ok.gates
        | apply State.Ok.gate

theorem State.completeAll_ok {s : State} (h : s.Ok) (f : Nat) (status : Nat) (detail : Nat) (p : Launch → Bool) :
    (State.completeAll s f status detail p).Ok := by
  unfold State.completeAll
  try dsimp only
  repeat' first | (with_reducible first | assumption | apply State.foldl_ok | apply State.completeLaunch_ok) | intro _

end Sys2Proof.Machine
end

