-- ==== Sys2Proof/Laws/OkQueue.lean ====
section
/-! SUPPORT. The operations of Machine/Queue.lean keep what Laws/Ok.lean names. -/

namespace Sys2Proof.Machine

theorem State.enqueue_ok {s : State} (h : s.Ok) (op : Nat) (o : OpStr) (sop : Nat) :
    (State.enqueue s op o sop).Ok := by
  unfold State.enqueue
  try dsimp only
  repeat' first
    | with_reducible first
        | assumption | apply State.ite_ok | apply State.modTask_ok | apply State.modCmd_ok
    | (with_reducible refine Task.Gate.upd rfl ?_; dsimp only)
    | with_reducible apply Task.Gate.toSf
    | intro _

theorem stream_ok {s : State} (h : s.Ok) (op : Nat) (o : OpStr) :
    OutOk (stream op o s) := by
  unfold stream
  try dsimp only
  repeat' first | (with_reducible first | assumption | apply slotOr_ok | apply State.enqueue_ok) | split | intro _

theorem execSld_ok {s : State} (h : s.Ok) (o : OpStr) :
    OutOk (execSld o s) := by
  unfold execSld
  try dsimp only
  repeat' with_reducible first | assumption | apply stream_ok

theorem execSst_ok {s : State} (h : s.Ok) (o : OpStr) :
    OutOk (execSst o s) := by
  unfold execSst
  try dsimp only
  repeat' with_reducible first | assumption | apply stream_ok

theorem execScp_ok {s : State} (h : s.Ok) (o : OpStr) :
    OutOk (execScp o s) := by
  unfold execScp
  try dsimp only
  repeat' with_reducible first | assumption | apply stream_ok

theorem execSga_ok {s : State} (h : s.Ok) (o : OpStr) :
    OutOk (execSga o s) := by
  unfold execSga
  try dsimp only
  repeat' with_reducible first | assumption | apply stream_ok

theorem execSsc_ok {s : State} (h : s.Ok) (o : OpStr) :
    OutOk (execSsc o s) := by
  unfold execSsc
  try dsimp only
  repeat' with_reducible first | assumption | apply stream_ok

theorem execSrec_ok {s : State} (h : s.Ok) (o : OpStr) :
    OutOk (execSrec o s) := by
  unfold execSrec
  try dsimp only
  repeat' with_reducible first | assumption | apply stream_ok

theorem execSmc_ok {s : State} (h : s.Ok) (o : OpStr) :
    OutOk (execSmc o s) := by
  unfold execSmc
  try dsimp only
  repeat' with_reducible first | assumption | apply stream_ok

theorem execSfil_ok {s : State} (h : s.Ok) (o : OpStr) :
    OutOk (execSfil o s) := by
  unfold execSfil
  try dsimp only
  repeat' with_reducible first | assumption | apply stream_ok

theorem execScfg_ok {s : State} (h : s.Ok) (lc : LoopCond) (h : Nat) (nt : Nat) (nk : Bool) :
    OutOk (execScfg lc h nt nk s) := by
  unfold execScfg
  try dsimp only
  repeat' first | (with_reducible first | assumption | apply slotOr_ok | apply State.enqueue_ok) | intro _

theorem execSbar_ok {s : State} (h : s.Ok) (lc : LoopCond) (mask : Nat) (nt : Nat) (nk : Bool) :
    OutOk (execSbar lc mask nt nk s) := by
  unfold execSbar
  try dsimp only
  repeat' first | (with_reducible first | assumption | apply slotOr_ok | apply State.enqueue_ok) | intro _

theorem execMsend_ok {s : State} (h : s.Ok) (o : OpHS) :
    OutOk (execMsend o s) := by
  unfold execMsend
  try dsimp only
  repeat' first | (with_reducible first | assumption | apply slotOr_ok | apply State.enqueue_ok) | intro _

theorem State.streamRec_ok {s : State} (h : s.Ok) (cm : Nat) (kind : Nat) (wr : Bool) (va : Nat) (count : Nat) :
    (State.streamRec s cm kind wr va count).Ok := by
  unfold State.streamRec
  try dsimp only
  repeat' with_reducible first | assumption | apply State.pushRec_ok

theorem State.notifyCmd_ok {s : State} (h : s.Ok) (cm : Nat) :
    (State.notifyCmd s cm).Ok := by
  unfold State.notifyCmd
  try dsimp only
  repeat' with_reducible first | assumption | apply State.ite_ok | apply State.decCounter_ok

theorem State.doneCmd_ok {s : State} (h : s.Ok) (cm : Nat) :
    (State.doneCmd s cm).Ok := by
  unfold State.doneCmd
  try dsimp only
  repeat' first
    | with_reducible first
        | assumption | apply State.sample_ok | apply State.modTask_ok | apply State.modCmd_ok | apply State.notifyCmd_ok
    | (with_reducible refine Task.Gate.upd rfl ?_; dsimp only)
    | with_reducible apply Task.Gate.toSf
    | intro _

theorem State.endKilled_ok {s : State} (h : s.Ok) (cm : Nat) :
    (State.endKilled s cm).Ok := by
  unfold State.endKilled
  try dsimp only
  repeat' with_reducible first | assumption | apply State.modCmd_ok

theorem State.killCmd_ok {s : State} (h : s.Ok) (cm : Nat) :
    (State.killCmd s cm).Ok := by
  unfold State.killCmd
  try dsimp only
  repeat' with_reducible first | assumption | apply State.ite_ok | apply State.modCmd_ok | apply State.endKilled_ok

theorem State.failCmd_ok {s : State} (h : s.Ok) (cm : Nat) (kind : Nat) :
    (State.failCmd s cm kind).Ok := by
  unfold State.failCmd
  try dsimp only
  repeat' with_reducible first | assumption | apply State.modCmd_ok

theorem State.endField_ok {s : State} (h : s.Ok) (k : Nat) :
    (State.endField s k).Ok := by
  unfold State.endField
  try dsimp only
  repeat' first
    | with_reducible first
        | assumption | apply State.ite_ok | apply State.completeAll_ok | apply State.modField_ok | apply State.freeze_ok
    | split

theorem State.endCore_ok {s : State} (h : s.Ok) (core : Nat) :
    (State.endCore s core).Ok := by
  unfold State.endCore
  try dsimp only
  repeat' first
    | with_reducible first
        | assumption | apply State.ite_ok | apply State.modDie_ok | apply State.endField_ok
    | split
    | with_reducible first
        | apply State.Ok.of | apply State.Ok.mem | apply State.Ok.tasks | apply State.Ok.tiles | apply State.Ok.cells
        | apply State.Ok.cmds | apply State.Ok.locks | apply State.Ok.fields | apply State.Ok.dies | apply State.Ok.gates
        | apply State.Ok.gate

theorem State.pauseCmd_ok {s : State} (h : s.Ok) (cm : Nat) (wr : Bool) (va : Nat) (count : Nat) :
    (State.pauseCmd s cm wr va count).Ok := by
  unfold State.pauseCmd
  try dsimp only
  repeat' with_reducible first | assumption | apply State.modCmd_ok | apply State.traceEvent_ok | apply State.streamRec_ok

theorem State.faultCmd_ok {s : State} (h : s.Ok) (cm : Nat) (kind : Nat) (wr : Bool) (va : Nat) (count : Nat) :
    (State.faultCmd s cm kind wr va count).Ok := by
  unfold State.faultCmd
  try dsimp only
  repeat' first
    | with_reducible first
        | assumption | apply State.ite_ok | apply State.modCmd_ok | apply State.streamRec_ok | apply State.failCmd_ok
        | apply State.endCore_ok

theorem execSkil_ok {s : State} (h : s.Ok) (lc : LoopCond) (all : Bool) (entry : Nat) :
    OutOk (execSkil lc all entry s) := by
  unfold execSkil
  try dsimp only
  repeat' first | (with_reducible first | assumption | apply State.foldl_ok | apply slot_ok | apply State.killCmd_ok) | split | intro _

theorem execSsta_ok {s : State} (h : s.Ok) (lc : LoopCond) (sl : Nat) (entry : Nat) :
    OutOk (execSsta lc sl entry s) := by
  unfold execSsta
  try dsimp only
  repeat' first | (with_reducible first | assumption | apply slot_ok | apply State.returnNow_ok) | intro _

end Sys2Proof.Machine
end

