-- ==== Sys2Proof/Laws/OkCells.lean ====
section
/-! SUPPORT. The operations of Machine/Cells.lean keep what Laws/Ok.lean names. -/

namespace Sys2Proof.Machine

theorem State.cellFault_ok {s : State} (h : s.Ok) (k : Nat) (c : Cause) (info : Nat) :
    (State.cellFault s k c info).Ok := by
  unfold State.cellFault
  try dsimp only
  repeat' first | (with_reducible first | assumption | apply State.fieldFault_ok) | split

theorem State.flushGap_ok {s : State} (h : s.Ok) (k : Nat) :
    (State.flushGap s k).Ok := by
  unfold State.flushGap
  try dsimp only
  repeat' first | (with_reducible first | assumption | apply State.modCell_ok | apply State.traceWrite_ok) | split

theorem State.logGap_ok {s : State} (h : s.Ok) (k : Nat) :
    (State.logGap s k).Ok := by
  unfold State.logGap
  try dsimp only
  repeat' first
    | with_reducible first
        | assumption | apply State.ite_ok | apply State.sample_ok | apply State.modTile_ok | apply State.modCell_ok
        | apply State.flushGap_ok
    | split

theorem State.seeRoom_ok (s0 : State) {s : State} (h : s.Ok) (k j : Nat) : (s0.seeRoom s k j).Ok :=
  State.ite_ok (State.modCell_ok h _ _) h

theorem State.gainRoom_ok (s0 : State) {s : State} (h : s.Ok) (k : Nat) (l : List Nat) : (s0.gainRoom s k l).Ok :=
  State.foldl_ok _ (fun _ _ hs => State.foldl_ok _ (fun _ _ hs => State.seeRoom_ok _ hs _ _) hs) h

theorem State.emit_ok {s : State} (h : s.Ok) (k : Nat) (j : Nat) (w : LinkWord) :
    (State.emit s k j w).Ok := by
  unfold State.emit
  try dsimp only
  repeat' with_reducible first | assumption | apply State.ite_ok | apply State.modCell_ok

theorem State.fireCell_ok {s : State} (h : s.Ok) (k : Nat) : (s.fireCell k).Ok := by
  unfold State.fireCell
  extract_lets c l
  split
  · exact h
  · split
    · exact State.cellFault_ok h _ _ _
    · rename_i s1 r s2 _ _ _
      have h1 : s1.Ok := State.logGap_ok h k
      have h2 : s2.Ok := State.gainRoom_ok _ (State.foldl_ok _ (fun t x ht => State.emit_ok ht _ _ _) (State.modCell_ok h1 _ _)) _ _
      exact State.ite_ok (State.cellFault_ok h2 _ _ _) h2

theorem execCellFire_ok {s : State} (h : s.Ok) (k : Nat) :
    OutOk (execCellFire k s) := by
  unfold execCellFire
  try dsimp only
  repeat' with_reducible first | assumption | apply next_ok | apply State.fireCell_ok

theorem execCellResultLanding_ok {s : State} (h : s.Ok) (k : Nat) :
    OutOk (execCellResultLanding k s) := by
  unfold execCellResultLanding
  try dsimp only
  repeat' with_reducible first | assumption | apply State.ite_ok | apply next_ok | apply State.modCell_ok

theorem State.discardWord_ok {s : State} (h : s.Ok) (k : Nat) :
    (State.discardWord s k).Ok := by
  unfold State.discardWord
  try dsimp only
  repeat' first | (with_reducible first | assumption | apply State.modField_ok | apply State.traceEvent_ok) | split

theorem State.inputWord_ok {s : State} (h : s.Ok) (k : Nat) (i : Nat) (w : LinkWord) :
    (State.inputWord s k i w).Ok := by
  unfold State.inputWord
  try dsimp only
  repeat' with_reducible first | assumption | apply State.ite_ok | apply State.modCell_ok | apply State.discardWord_ok

theorem State.deliver_ok {s : State} (h : s.Ok) (src : Option Nat) (k : Nat) (i : Nat) (w : LinkWord) :
    (State.deliver s src k i w).Ok := by
  unfold State.deliver
  try dsimp only
  repeat' with_reducible first | assumption | apply State.ite_ok | apply State.inputWord_ok

theorem State.arrive_ok {s : State} (h : s.Ok) (link : Nat) :
    (State.arrive s link).Ok := by
  unfold State.arrive
  try dsimp only
  repeat' first
    | with_reducible first
        | assumption | apply State.ite_ok | apply State.modTile_ok | apply State.modCell_ok | apply State.seeRoom_ok
        | apply State.discardWord_ok | apply State.deliver_ok
    | split

theorem execLinkWordArrival_ok {s : State} (h : s.Ok) (link : Nat) :
    OutOk (execLinkWordArrival link s) := by
  unfold execLinkWordArrival
  try dsimp only
  repeat' with_reducible first | assumption | apply next_ok | apply State.arrive_ok

theorem State.binDone_ok {s : State} (h : s.Ok) (k : Nat) (num : Nat) (w : LinkWord) :
    (State.binDone s k num w).Ok := by
  unfold State.binDone
  try dsimp only
  repeat' with_reducible first | assumption | apply State.ite_ok | apply State.modCell_ok

theorem State.performBin_ok {s : State} (h : s.Ok) (k : Nat) (b : BinOp) :
    (State.performBin s k b).Ok := by
  unfold State.performBin
  try dsimp only
  repeat' first
    | with_reducible first
        | assumption | apply State.ite_ok | apply State.modLock_ok | apply State.writeLocal_ok | apply State.watchLocal_ok
        | apply State.cellFault_ok | apply State.binDone_ok
    | split

theorem State.binWait_ok {s : State} (h : s.Ok) (k : Nat) (num : Nat) :
    (State.binWait s k num).Ok := by
  unfold State.binWait
  try dsimp only
  repeat' with_reducible first | assumption | apply State.modCell_ok

theorem State.accessBin_ok {s : State} (h : s.Ok) (k : Nat) (b : BinOp) :
    (State.accessBin s k b).Ok := by
  unfold State.accessBin
  try dsimp only
  repeat' with_reducible first | assumption | apply State.ite_ok | apply State.takeBanks_ok | apply State.performBin_ok

theorem State.binPort_ok {s : State} (h : s.Ok) (k : Nat) (num : Nat) :
    (State.binPort s k num).Ok := by
  unfold State.binPort
  try dsimp only
  repeat' first
    | with_reducible first
        | assumption | apply State.ite_ok | apply State.modCell_ok | apply State.modLock_ok | apply State.binWait_ok
        | apply State.accessBin_ok
    | split

theorem execBinPortPerform_ok {s : State} (h : s.Ok) (k : Nat) (num : Nat) :
    OutOk (execBinPortPerform k num s) := by
  unfold execBinPortPerform
  try dsimp only
  repeat' with_reducible first | assumption | apply next_ok | apply State.binPort_ok

theorem State.compare_ok {s : State} (h : s.Ok) (k : Nat) :
    (State.compare s k).Ok := by
  unfold State.compare
  try dsimp only
  repeat' first | (with_reducible first | assumption | apply State.ite_ok | apply State.modCell_ok | apply State.cellFault_ok) | split

theorem execTwinCompare_ok {s : State} (h : s.Ok) (k : Nat) :
    OutOk (execTwinCompare k s) := by
  unfold execTwinCompare
  try dsimp only
  repeat' with_reducible first | assumption | apply next_ok | apply State.compare_ok

end Sys2Proof.Machine
end

