-- ==== Sys2Proof/Laws/OkPeers.lean ====
section
/-! SUPPORT. The operations of Machine/Peers.lean keep what Laws/Ok.lean names. -/

namespace Sys2Proof.Machine

theorem State.forwardReq_ok {s : State} (h : s.Ok) (m : Nat) (psn : Nat) (to_ : Nat) (a : Nat) (body : PacketBody) :
    (State.forwardReq s m psn to_ a body).Ok := by
  unfold State.forwardReq
  try dsimp only
  repeat' first
    | with_reducible first
        | assumption | apply State.toPeer_ok | apply State.Ok.of | apply State.Ok.mem | apply State.Ok.tasks
        | apply State.Ok.tiles | apply State.Ok.cells | apply State.Ok.cmds | apply State.Ok.locks | apply State.Ok.fields
        | apply State.Ok.dies | apply State.Ok.gates | apply State.Ok.gate

theorem State.regionPut_ok {s t : State} (h : s.Ok) {off : Nat} {l : List Byte} (ht : s.regionPut off l = some t) : t.Ok := by
  obtain ⟨o, -, rfl⟩ := Option.map_eq_some_iff.mp ht
  exact State.write_ok h _ _ _

theorem State.windowPut_ok {s : State} (h : s.Ok) (m psn : Nat) (body : PacketBody) : (s.windowPut m psn body).Ok := by
  unfold State.windowPut
  dsimp only
  cases ht : s.regionPut (2 ^ 28 + 2 ^ 18 * (s.fab.ports.idxOf m % 1024) + 256 * (psn % 1024))
      ((Config.packetBytes body).take 256 ++ List.replicate (256 - ((Config.packetBytes body).take 256).length) 0) with
  | none => exact h
  | some t => exact State.regionPut_ok h ht

theorem State.replyTo_ok {s : State} (h : s.Ok) (m : Nat) (typ : Nat) (body : PacketBody) :
    (State.replyTo s m typ body).Ok := by
  unfold State.replyTo
  try dsimp only
  repeat' with_reducible first | assumption | apply State.modPeer_ok

theorem State.answerPeer_ok {s : State} (h : s.Ok) (m : Nat) (psn : Nat) (body : PacketBody) :
    (State.answerPeer s m psn body).Ok := by
  unfold State.answerPeer
  try dsimp only
  repeat' with_reducible first | assumption | apply State.modPeer_ok | apply State.windowPut_ok | apply State.replyTo_ok

end Sys2Proof.Machine
end

