-- ==== Sys2Proof/Laws/OkBeat.lean ====
section
/-! SUPPORT. The operations of Machine/Beat.lean keep what Laws/Ok.lean names. -/

namespace Sys2Proof.Machine

theorem State.applyPut_ok {s : State} (h : s.Ok) (core : Nat) (cm : Nat) (space : Nat) (x : Put × List Spot) :
    (State.applyPut s core cm space x).Ok := by
  unfold State.applyPut
  try dsimp only
  repeat' first
    | with_reducible first
        | assumption | apply State.foldl_ok | apply State.modCmd_ok | apply State.write_ok | apply State.toPeer_ok
    | split
    | intro _

theorem State.watchCmd_ok {s : State} (h : s.Ok) (cm : Nat) (space : Nat) (a : Int) (n : Nat) (wr : Bool) :
    (State.watchCmd s cm space a n wr).Ok := by
  unfold State.watchCmd
  try dsimp only
  repeat' with_reducible first | assumption | apply State.ite_ok | apply State.watch_ok | apply State.watchLocal_ok

theorem State.portPut_ok {s : State} (h : s.Ok) (core : Nat) (port : Nat) (ver : Nat) (data : Nat) (mark : Nat) (err : Bool) :
    (State.portPut s core port ver data mark err).Ok := by
  unfold State.portPut
  try dsimp only
  repeat' with_reducible first | assumption | apply State.ite_ok | apply State.deliver_ok | apply State.vcPut_ok

theorem State.outPop_ok {s : State} (h : s.Ok) (core : Nat) (code : Nat) :
    (State.outPop s core code).Ok := by
  unfold State.outPop
  try dsimp only
  repeat' with_reducible first | assumption | apply State.seeRoom_ok | apply State.modTile_ok

theorem State.askLine_ok {s : State} (h : s.Ok) (cm : Nat) (m : Nat) (a : Nat) (elem : Nat) (va : Nat) (lf : Option Leaf) :
    (State.askLine s cm m a elem va lf).Ok := by
  unfold State.askLine
  try dsimp only
  repeat' with_reducible first | assumption | apply State.ite_ok | apply State.modCmd_ok | apply State.toPeer_ok

theorem State.askLines_ok {s : State} (h : s.Ok) (l : List (Nat × Nat × Nat)) : (s.askLines l).Ok :=
  State.foldl_ok _ (fun _ _ hs => State.askLine_ok hs _ _ _ _ _ _) h

theorem State.dropLines_ok {s : State} (h : s.Ok) : s.dropLines.Ok := State.ite_ok h (State.modCmd_ok h _ _)

theorem State.withLines_ok {s : State} (h : s.Ok) (l : List (Nat × Nat)) {go : State → State} (hg : ∀ t, State.Ok t → (go t).Ok) :
    (s.withLines l go).Ok :=
  State.ite_ok (State.dropLines_ok (hg _ h)) (State.askLines_ok h _)

theorem State.resendWrite_ok {s t : State} (h : s.Ok) {core cm : Nat} {r : Redo} (ht : s.resendWrite core cm r = .ok t) : t.Ok := by
  unfold State.resendWrite at ht
  split at ht
  · cases ht
  · cases ht
    exact State.modCmd_ok (State.foldl_ok _ (fun _ _ hs => State.write_ok hs _ _ _) h) _ _
  · split at ht
    · cases ht
    · cases ht
      exact State.modCmd_ok (State.toPeer_ok h _ _ _ _) _ _

theorem State.missed_ok {s : State} (h : s.Ok) (core : Nat) (cm : Nat) :
    (State.missed s core cm).Ok := by
  unfold State.missed
  try dsimp only
  repeat' with_reducible first | assumption | apply State.modTile_ok | apply State.modDie_ok

theorem State.hold_ok {s : State} (h : s.Ok) (cm : Nat) (e : Hitch) (elem : Nat) (va : Nat) (wr : Bool) :
    (State.hold s cm e elem va wr).Ok := by
  unfold State.hold
  try dsimp only
  repeat' first
    | with_reducible first
        | assumption | apply State.failCmd_ok | apply State.pauseCmd_ok | apply State.faultCmd_ok | apply State.modCmd_ok
        | apply State.raiseAsync_ok | apply State.askLine_ok | apply State.missed_ok
    | split

theorem State.sendRedo_ok {s : State} (h : s.Ok) (cm : Nat) : (s.sendRedo cm).Ok := by
  unfold State.sendRedo
  split
  · exact h
  · split
    · next hr => exact State.resendWrite_ok h hr
    · exact State.hold_ok h _ _ _ _ _

theorem State.stepCmd_ok {s : State} (h : s.Ok) (cm : Nat) :
    (State.stepCmd s cm).Ok := by
  unfold State.stepCmd
  try dsimp only
  repeat' with_reducible first | assumption | apply State.modTile_ok | apply State.modCmd_ok

theorem State.keepLeaf_ok {s : State} (h : s.Ok) (cm : Nat) (space : Nat) (a : Int) :
    (State.keepLeaf s cm space a).Ok := by
  unfold State.keepLeaf
  try dsimp only
  repeat' first | (with_reducible first | assumption | apply State.ite_ok | apply State.modCmd_ok) | split

theorem State.noteBeyond_ok {s : State} (h : s.Ok) (core : Nat) (c : Cmd) (l : List Nat) :
    (State.noteBeyond s core c l).Ok := by
  unfold State.noteBeyond
  try dsimp only
  repeat' first | (with_reducible first | assumption | apply State.foldl_ok | apply State.noteHops_ok) | split | intro _

theorem State.noteReads_ok {s : State} (h : s.Ok) (cm : Nat) (space : Nat) (l : List Piece) (old : List Piece) :
    (State.noteReads s cm space l old).Ok := by
  unfold State.noteReads
  try dsimp only
  repeat' first
    | with_reducible first
        | assumption | apply State.foldl_ok | apply State.hbmRead_ok | apply State.watchCmd_ok | apply State.keepLeaf_ok
        | apply State.noteBeyond_ok
    | intro _

theorem State.cutHere_ok {s : State} (h : s.Ok) (cm : Nat) (u : Nat) (wr : Bool) (cut : Option Nat) :
    (State.cutHere s cm u wr cut).Ok := by
  unfold State.cutHere
  try dsimp only
  repeat' first | (with_reducible first | assumption | apply State.ite_ok | apply State.hold_ok) | split

theorem State.beatOut_ok {s : State} (h : s.Ok) (cm : Nat) :
    (State.beatOut s cm).Ok := by
  unfold State.beatOut
  try dsimp only
  repeat' first
    | with_reducible first
        | assumption | apply State.foldl_ok | apply State.ite_ok | apply State.portPut_ok | apply State.hold_ok
        | apply State.stepCmd_ok | apply State.noteReads_ok | apply State.cutHere_ok
    | split
    | intro _

theorem State.storePuts_ok {s t : State} (h : s.Ok) {cm space : Nat} {l : List Put} (ht : s.storePuts cm space l = .got t) : t.Ok := by
  unfold State.storePuts at ht
  dsimp only at ht
  split at ht
  · cases ht
  · cases ht
    exact State.foldl_ok _ (fun t x ht => State.keepLeaf_ok (State.watchCmd_ok (State.applyPut_ok ht _ _ _ _) _ _ _ _ _) _ _ _)
      (State.noteBeyond_ok h _ _ _)

theorem State.beatIn_ok {s : State} (h : s.Ok) (cm : Nat) : (s.beatIn cm).Ok := by
  unfold State.beatIn
  dsimp only
  split
  · exact State.hold_ok h _ _ _ _ _
  · exact h
  · split
    · exact State.outPop_ok h _ _
    · split
      · exact State.cellFault_ok (State.failCmd_ok (State.outPop_ok h _ _) _ _) _ _ _
      · split
        · exact State.hold_ok h _ _ _ _ _
        · split
          · exact State.hold_ok h _ _ _ _ _
          · rename_i hs
            exact State.cutHere_ok (State.stepCmd_ok (State.outPop_ok (State.storePuts_ok h hs) _ _) _) _ _ _ _

theorem State.beatLoop_ok {s : State} (h : s.Ok) (cm : Nat) :
    (State.beatLoop s cm).Ok := by
  unfold State.beatLoop
  try dsimp only
  repeat' first
    | with_reducible first
        | assumption | apply State.ite_ok | apply State.portPut_ok | apply State.outPop_ok | apply State.hold_ok
        | apply State.stepCmd_ok
    | split

theorem State.beatCopy_ok {s : State} (h : s.Ok) (cm : Nat) : (s.beatCopy cm).Ok := by
  unfold State.beatCopy
  dsimp only
  split
  · exact State.hold_ok h _ _ _ _ _
  · split
    · exact State.hold_ok h _ _ _ _ _
    · rename_i hs
      exact State.stepCmd_ok (State.storePuts_ok (State.ite_ok h (State.noteReads_ok h _ _ _ _)) hs) _

theorem State.beatOne_ok {s : State} (h : s.Ok) (cm : Nat) :
    (State.beatOne s cm).Ok := by
  unfold State.beatOne
  try dsimp only
  repeat' first
    | with_reducible first
        | assumption | apply State.ite_ok | apply State.beatOut_ok | apply State.beatIn_ok | apply State.beatLoop_ok
        | apply State.beatCopy_ok
    | split

theorem State.bankWait_ok {s : State} (h : s.Ok) (cm : Nat) :
    (State.bankWait s cm).Ok := by
  unfold State.bankWait
  try dsimp only
  repeat' with_reducible first | assumption | apply State.modCmd_ok

theorem State.bankTake_ok {s : State} (h : s.Ok) (cm : Nat) :
    (State.bankTake s cm).Ok := by
  unfold State.bankTake
  try dsimp only
  repeat' with_reducible first | assumption | apply State.ite_ok | apply State.takeBanks_ok

theorem State.beatLockstep_ok {s : State} (h : s.Ok) (cm : Nat) : (s.beatLockstep cm).Ok := by
  unfold State.beatLockstep
  dsimp only
  split
  · exact h
  · split
    · exact h
    · split
      · split
        · exact State.fieldFault_ok h _ _ _ _ _ _
        · exact h
      · exact State.foldl_ok _ (fun t x ht => State.ite_ok (State.hold_ok ht _ _ _ _ _) ht)
          (State.foldl_ok _ (fun t x ht => State.beatOne_ok ht _)
            (State.foldl_ok _ (fun t x ht => State.modCmd_ok ht _ _) (State.modTile_ok h _ _)))

theorem State.walkIn_ok {s t : State} (h : s.Ok) {core key dva : Nat} {wr : Bool} (ht : s.walkIn core key dva wr = .ok t) : t.Ok := by
  unfold State.walkIn at ht
  extract_lets w s1 take at ht
  have h1 : s1.Ok := State.modDie_ok h _ _
  have htake : ∀ l, (take l).Ok := by
    intro l
    apply State.modCmd_ok
    apply State.modTile_ok
    exact h1.same rfl
  split at ht
  · cases ht
  · cases ht
  · split at ht
    · cases ht
    · cases ht; exact htake _
  · cases ht; exact htake _

theorem State.walkOver_ok {s : State} (h : s.Ok) (core : Nat) (cm : Nat) (dva : Nat) :
    (State.walkOver s core cm dva).Ok := by
  unfold State.walkOver
  try dsimp only
  repeat' with_reducible first | assumption | apply State.noteWalk_ok | apply State.modCmd_ok | apply State.modDie_ok

theorem State.walkNow_ok {s : State} (h : s.Ok) (core cm : Nat) (r : WalkReq) :
    (s.walkNow core cm r).1.Ok ∧ ∀ t, (s.walkNow core cm r).2 = some (.ok t) → t.Ok := by
  have key : ∀ u : State, u.Ok → ∀ x : State × Option (Except Nat State),
      x = (if u.walkBegun core cm then (u.walkOver core cm r.dva, some ((u.walkOver core cm r.dva).walkIn core cm r.dva r.wr)) else (u, none)) →
      x.1.Ok ∧ ∀ t, x.2 = some (.ok t) → t.Ok := by
    rintro u hu _ rfl
    split
    · refine ⟨State.walkOver_ok hu _ _ _, fun t ht => ?_⟩
      injection ht with ht
      exact State.walkIn_ok (State.walkOver_ok hu _ _ _) ht
    · exact ⟨hu, fun t ht => by cases ht⟩
  exact key _ (State.ite_ok h (State.missed_ok (State.modCmd_ok h _ _) _ _)) _ rfl

theorem State.walkFor_ok {s : State} (h : s.Ok) (cm : Nat) : (s.walkFor cm).Ok := by
  unfold State.walkFor
  split
  · exact h
  · rename_i r _
    dsimp only
    split
    · exact h
    · split
      · rename_i hw
        exact State.walkIn_ok (State.walkOver_ok h _ _ _) hw
      · exact State.hold_ok (State.walkOver_ok h _ _ _) _ _ _ _ _

end Sys2Proof.Machine
end

