-- ==== Sys2Proof/Laws/OkReceive.lean ====
section
/-! SUPPORT. The operations of Machine/Receive.lean keep what Laws/Ok.lean names. -/

namespace Sys2Proof.Machine

theorem State.noteRead_ok {s : State} (h : s.Ok) (cm : Nat) (q : Nat) :
    (State.noteRead s cm q).Ok := by
  unfold State.noteRead
  try dsimp only
  repeat' with_reducible first | assumption | apply State.noteReads_ok

theorem State.modEntry_ok {s : State} (h : s.Ok) (e : Nat) (f : Entry → Entry) :
    (State.modEntry s e f).Ok := by
  unfold State.modEntry
  try dsimp only
  repeat' first
    | with_reducible first
        | assumption | apply State.Ok.of | apply State.Ok.mem | apply State.Ok.tasks | apply State.Ok.tiles
        | apply State.Ok.cells | apply State.Ok.cmds | apply State.Ok.locks | apply State.Ok.fields | apply State.Ok.dies
        | apply State.Ok.gates | apply State.Ok.gate

theorem State.rxFail_ok {s : State} (h : s.Ok) (va : Nat) (wr : Bool) :
    (State.rxFail s va wr).Ok := by
  unfold State.rxFail
  try dsimp only
  repeat' first
    | with_reducible first
        | assumption | apply State.pushRec_ok | apply State.Ok.of | apply State.Ok.mem | apply State.Ok.tasks
        | apply State.Ok.tiles | apply State.Ok.cells | apply State.Ok.cmds | apply State.Ok.locks | apply State.Ok.fields
        | apply State.Ok.dies | apply State.Ok.gates | apply State.Ok.gate

theorem State.putRegion_ok {l : List (Nat × Byte)} {s t : State} (h : s.Ok) (ht : s.putRegion l = .ok t) : t.Ok := by
  induction l generalizing s with
  | nil => simp only [State.putRegion, Except.ok.injEq] at ht; exact ht ▸ h
  | cons x l ih =>
    simp only [State.putRegion] at ht
    split at ht
    · refine ih ?_ ht
      exact ⟨Memory.wf_put h.mem _ _, h.tasks, h.tiles, h.cells, h.cmds, h.locks, h.fields, h.dies, h.gates, h.gate⟩
    · cases ht

theorem State.roomBytes_ok {m : Msg} {l : List Byte} {s t : State} {q : Nat} (h : s.Ok) (ht : s.roomBytes m q l = .ok t) : t.Ok :=
  State.putRegion_ok h ht

theorem State.storeHead_ok {s t : State} (h : s.Ok) {m : Msg} (ht : s.storeHead m = .ok t) : t.Ok := by
  unfold State.storeHead at ht
  split at ht
  · cases ht; exact h
  · split at ht
    · injection ht with ht
      rw [← ht]
      exact State.writeLE_ok h _ _ _ _
    · cases ht

theorem State.store_ok {s : State} (h : s.Ok) {m : Msg} {x : State × Msg} (ht : s.store m = .ok x) : x.1.Ok := by
  unfold State.store at ht
  split at ht
  · cases ht
  · rename_i s0 h1
    dsimp only at ht
    generalize (if m.onChip || m.kept then [] else [s.headAddr m]) ++ _ = pages at ht
    split at ht
    · cases ht
    · rename_i h2
      cases ht
      exact State.roomBytes_ok (State.notePages_ok (State.storeHead_ok h h1) _) h2

theorem State.noteStored_ok {s : State} (h : s.Ok) (m : Msg) (p b : Nat) : (s.noteStored m p b).Ok := by
  unfold State.noteStored
  refine State.foldl_ok _ (fun t x ht => ?_) h
  split
  · split
    · exact State.hbmRead_ok (State.noteWalks_ok ht _) _ _
    · exact ht
  · exact ht

theorem State.refuseMsg_ok {s : State} (h : s.Ok) (m : Msg) :
    (State.refuseMsg s m).Ok := by
  unfold State.refuseMsg
  try dsimp only
  repeat' first
    | with_reducible assumption
    | split
    | with_reducible first
        | apply State.Ok.of | apply State.Ok.mem | apply State.Ok.tasks | apply State.Ok.tiles | apply State.Ok.cells
        | apply State.Ok.cmds | apply State.Ok.locks | apply State.Ok.fields | apply State.Ok.dies | apply State.Ok.gates
        | apply State.Ok.gate

theorem State.placeMsg_ok {s : State} (h : s.Ok) (m : Msg) (pa : Nat) : (s.placeMsg m pa).2.Ok := by
  have hx : ∀ (t : State) (r : Rx), t.Ok → ({ t with rx := r } : State).Ok := fun t r h => h.same rfl
  unfold State.placeMsg
  dsimp only
  split
  · split
    · exact State.refuseMsg_ok h _
    · split
      · exact State.refuseMsg_ok (State.rxFail_ok h _ _) _
      · rename_i hs
        exact hx _ _ (State.store_ok h hs)
  · split
    · exact State.refuseMsg_ok (State.rxFail_ok h _ _) _
    · apply snd_ok
      apply State.writeLE_ok
      exact hx _ _ h

theorem State.takeSeq_ok {s : State} (h : s.Ok) (m : Msg) : (s.takeSeq m).2.Ok := by
  unfold State.takeSeq
  cases s.rxPlace (s.seqAddr m.src) false with
  | none => exact State.refuseMsg_ok (State.rxFail_ok h _ _) _
  | some pa =>
    show (match (s.hbmRead pa 4).reserve m with
      | none => (false, (s.hbmRead pa 4).refuseMsg m)
      | some m => (s.hbmRead pa 4).placeMsg m pa).2.Ok
    cases (s.hbmRead pa 4).reserve m with
    | none => exact State.refuseMsg_ok (State.hbmRead_ok h _ _) _
    | some _ => exact State.placeMsg_ok (State.hbmRead_ok h _ _) _ _

theorem State.takeIn_ok {s : State} (h : s.Ok) (m : Msg) : (s.takeIn m).2.Ok := by
  unfold State.takeIn
  split
  · exact State.refuseMsg_ok h _
  · exact State.takeSeq_ok (State.noteWalks_ok h _) _

theorem State.arrival_ok {s : State} (h : s.Ok) (i : Nat) :
    (State.arrival s i).Ok := by
  unfold State.arrival
  try dsimp only
  repeat' first
    | with_reducible first
        | assumption | apply State.ite_ok | apply State.takeIn_ok
    | split
    | with_reducible first
        | apply State.Ok.of | apply State.Ok.mem | apply State.Ok.tasks | apply State.Ok.tiles | apply State.Ok.cells
        | apply State.Ok.cmds | apply State.Ok.locks | apply State.Ok.fields | apply State.Ok.dies | apply State.Ok.gates
        | apply State.Ok.gate

theorem execMessageArrival_ok {s : State} (h : s.Ok) (i : Nat) :
    OutOk (execMessageArrival i s) := by
  unfold execMessageArrival
  try dsimp only
  repeat' with_reducible first | assumption | apply next_ok | apply State.arrival_ok

theorem State.fireTarget_ok {s : State} (h : s.Ok) (core : Nat) (kind : Nat) (targ : Nat) (word : Nat) :
    (State.fireTarget s core kind targ word).Ok := by
  unfold State.fireTarget
  try dsimp only
  repeat' first | (with_reducible first | assumption | apply State.decCounter_ok | apply State.send_ok) | split

theorem State.report_ok {s : State} (h : s.Ok) (core : Nat) (p : Pattern) (rid : Nat) (status : Nat) (m : Option Msg) (got : Nat) :
    (State.report s core p rid status m got).Ok := by
  unfold State.report
  try dsimp only
  repeat' with_reducible first | assumption | apply State.writeLocal_ok | apply State.watchLocal_ok | apply State.fireTarget_ok

theorem State.matchDone_ok {s : State} (h : s.Ok) :
    (State.matchDone s).Ok := by
  unfold State.matchDone
  try dsimp only
  repeat' first
    | with_reducible first
        | assumption | apply State.sampleFree_ok | apply State.Ok.of | apply State.Ok.mem | apply State.Ok.tasks
        | apply State.Ok.tiles | apply State.Ok.cells | apply State.Ok.cmds | apply State.Ok.locks | apply State.Ok.fields
        | apply State.Ok.dies | apply State.Ok.gates | apply State.Ok.gate

theorem State.releaseSender_ok {s : State} (h : s.Ok) (m : Msg) :
    (State.releaseSender s m).Ok := by
  unfold State.releaseSender
  try dsimp only
  repeat' first | (with_reducible first | assumption | apply State.ite_ok | apply State.modCmd_ok | apply State.toPeer_ok) | split

theorem State.landRec_ok {s : State} (h : s.Ok) (e : Nat) (kind : Nat) (va : Nat) (count : Option Nat := none) :
    (State.landRec s e kind va count).Ok := by
  unfold State.landRec
  try dsimp only
  repeat' with_reducible first | assumption | apply State.pushRec_ok

theorem State.landStop_ok {s : State} (h : s.Ok) (e : Nat) (l : List Nat) :
    (State.landStop s e l).Ok := by
  unfold State.landStop
  try dsimp only
  repeat' with_reducible first | assumption | apply State.modCmd_ok | apply State.modEntry_ok

theorem State.landFault_ok {s : State} (h : s.Ok) (e : Nat) (l : List Nat := []) :
    (State.landFault s e l).Ok := by
  unfold State.landFault
  try dsimp only
  repeat' first | (with_reducible first | assumption | apply State.ite_ok | apply State.releaseSender_ok | apply State.landStop_ok) | split

theorem State.landPause_ok {s : State} (h : s.Ok) (e : Nat) (va : Nat) (count : Option Nat := none) :
    (State.landPause s e va count).Ok := by
  unfold State.landPause
  try dsimp only
  repeat' with_reducible first | assumption | apply State.modCmd_ok | apply State.modEntry_ok | apply State.landRec_ok

theorem State.landHold_ok {s : State} (h : s.Ok) (e : Nat) (x : Hitch) (j va : Nat) : (s.landHold e x j va).1.Ok := by
  unfold State.landHold
  dsimp only
  split
  · rename_i a
    have hk := State.walkNow_ok h (coreOf (s.entry e).task) (landKey e) ⟨a, true, j, va⟩
    split <;> rename_i heq <;> rw [heq] at hk
    · exact hk.1
    · exact hk.2 _ rfl
    · exact State.landPause_ok hk.1 _ _ _
    · exact State.landFault_ok (State.landRec_ok hk.1 _ _ _ _) _ _
  · exact State.landPause_ok h _ _ _
  · exact State.landFault_ok h _ _
  · exact State.landFault_ok (State.landRec_ok h _ _ _ _) _ _
  · exact State.askLine_ok h _ _ _ _ _ _
  · exact h

theorem State.moreOf_ok {s : State} (h : s.Ok) (m : Msg) (l : List Byte) : (s.moreOf m l).1.Ok := by
  unfold State.moreOf
  dsimp only
  split
  · split
    · rename_i hs
      exact State.roomBytes_ok h hs
    · exact State.rxFail_ok h _ _
  · exact h

theorem State.grow_ok {s : State} (h : s.Ok) (e : Nat) (l : List Byte) : (s.grow e l).Ok := by
  unfold State.grow
  split
  · exact State.modEntry_ok (State.moreOf_ok h _ _) _ _
  · exact h

theorem State.pullMore_ok {s : State} (h : s.Ok) (e : Nat) (m : Msg) (n : Nat) : (s.pullMore e m n).1.Ok := by
  unfold State.pullMore
  split
  · dsimp only
    split
    · exact State.landFault_ok h _ _
    · split
      · exact h
      · exact State.modCmd_ok (State.toPeer_ok h _ _ _ _) _ _
  · dsimp only
    split
    · exact h
    · split
      · exact State.landFault_ok h _ _
      · split
        · exact h
        · split
          · exact State.modTile_ok (State.modCmd_ok (State.grow_ok (State.noteRead_ok h _ _) _ _) _ _) _ _
          · rename_i a j va _ _
            have hk := State.walkNow_ok h (coreOf (taskOfCmd m.cmd)) m.cmd ⟨a, false, j, va⟩
            split <;> rename_i heq <;> rw [heq] at hk
            · exact hk.1
            · exact hk.2 _ rfl
            · exact State.modCmd_ok (State.hold_ok hk.1 _ _ _ _ _) _ _
            · exact State.landFault_ok (State.hold_ok hk.1 _ _ _ _ _) _ _
          · exact State.modCmd_ok (State.hold_ok h _ _ _ _ _) _ _
          · exact State.landFault_ok (State.hold_ok h _ _ _ _ _) _ _
          · exact State.hold_ok h _ _ _ _ _

theorem State.landOne_ok {s : State} (h : s.Ok) (e : Nat) : (s.landOne e).1.Ok := by
  unfold State.landOne
  dsimp only
  split
  · exact h
  split
  · exact h
  split
  · split
    · next hr => exact State.resendWrite_ok h hr
    · exact State.landHold_ok h _ _ _ _
  split
  · exact h
  split
  · exact State.ite_ok (State.releaseSender_ok (State.modEntry_ok h _ _) _) (State.modEntry_ok h _ _)
  split
  · exact h
  split
  · split
    · exact State.pullMore_ok h _ _ _
    · exact h
  split
  · exact State.landFault_ok (State.rxFail_ok h _ _) _ _
  split
  · exact State.landHold_ok h _ _ _ _
  · have h1 (l : List (Put × List Spot)) (k n sp p b : Nat) (m : Msg) (c : Cmd) (x : List Nat) :
        (l.foldl (fun s x => s.applyPut k n sp x) ((s.noteStored m p b).noteBeyond k c x)).Ok :=
      State.foldl_ok _ (fun t x ht => State.applyPut_ok ht _ _ _ _) (State.noteBeyond_ok (State.noteStored_ok h _ _ _) _ _ _)
    apply State.modCmd_ok
    apply State.modEntry_ok
    split
    · exact State.watch_ok (h1 _ _ _ _ _ _ _ _ _) _ _ _ _ _ _ _ _ _
    · exact State.watchLocal_ok (h1 _ _ _ _ _ _ _ _ _) _ _ _ _ _ _ _

theorem State.landLoop_ok (n e : Nat) {s : State} (h : s.Ok) : (State.landLoop n e s).Ok := by
  induction n generalizing s with
  | zero => exact h
  | succ n ih =>
    unfold State.landLoop
    dsimp only
    split
    · exact ih (State.landOne_ok h e)
    · exact State.landOne_ok h e

theorem State.landAll_ok {s : State} (h : s.Ok) (e : Nat) :
    (State.landAll s e).Ok := by
  unfold State.landAll
  try dsimp only
  repeat' with_reducible first | assumption | apply State.landLoop_ok

theorem State.deliverMsg_ok {s : State} (h : s.Ok) (m : Msg) (e : Nat) :
    (State.deliverMsg s m e).Ok := by
  unfold State.deliverMsg
  try dsimp only
  repeat' with_reducible first | assumption | apply State.modCmd_ok | apply State.modEntry_ok | apply State.landAll_ok

theorem State.toCistern_ok {s : State} (h : s.Ok) (m : Msg) : (s.toCistern m).Ok := by
  have hx : ∀ (t : State) (r : Rx), t.Ok → ({ t with rx := r } : State).Ok := fun t r h => h.same rfl
  unfold State.toCistern
  split
  · rename_i hs
    apply hx
    split at hs
    · cases hs; exact h
    · exact State.store_ok h hs
  · exact hx _ _ (State.rxFail_ok h _ _)

theorem State.matchMessage_ok {s : State} (h : s.Ok) (i : Nat) :
    (State.matchMessage s i).Ok := by
  unfold State.matchMessage
  try dsimp only
  repeat' first
    | with_reducible first
        | assumption | apply State.matchDone_ok | apply State.deliverMsg_ok | apply State.toCistern_ok
    | split
    | with_reducible first
        | apply State.Ok.of | apply State.Ok.mem | apply State.Ok.tasks | apply State.Ok.tiles | apply State.Ok.cells
        | apply State.Ok.cmds | apply State.Ok.locks | apply State.Ok.fields | apply State.Ok.dies | apply State.Ok.gates
        | apply State.Ok.gate

theorem execMatchEligibleMessage_ok {s : State} (h : s.Ok) (i : Nat) :
    OutOk (execMatchEligibleMessage i s) := by
  unfold execMatchEligibleMessage
  try dsimp only
  repeat' with_reducible first | assumption | apply next_ok | apply State.matchMessage_ok

theorem State.takeReq_ok {s : State} (h : s.Ok) (i : Nat) :
    (State.takeReq s i).Ok := by
  unfold State.takeReq
  try dsimp only
  repeat' first
    | with_reducible first
        | assumption | apply State.matchDone_ok | apply State.Ok.of | apply State.Ok.mem | apply State.Ok.tasks
        | apply State.Ok.tiles | apply State.Ok.cells | apply State.Ok.cmds | apply State.Ok.locks | apply State.Ok.fields
        | apply State.Ok.dies | apply State.Ok.gates | apply State.Ok.gate

theorem State.readHeads_ok {l : List Nat} {s : State} (h : s.Ok) : (s.readHeads l).Ok := by
  induction l generalizing s with
  | nil => exact h
  | cons m l ih =>
    unfold State.readHeads
    split
    · exact ih (State.hbmRead_ok (State.noteWalks_ok h _) _ _)
    · exact State.rxFail_ok (State.noteWalks_ok h _) _ _

theorem State.search_ok {s : State} (h : s.Ok) (p : Pattern) (tile : Nat) : (s.search p tile).Ok := by
  unfold State.search
  split
  · exact State.readHeads_ok h
  · exact h

theorem State.matchPost_ok {s : State} (h : s.Ok) (i : Nat) :
    (State.matchPost s i).Ok := by
  unfold State.matchPost
  try dsimp only
  repeat' first
    | with_reducible first
        | assumption | apply State.ite_ok | apply State.writeLocal_ok | apply State.watchLocal_ok | apply State.modEntry_ok
        | apply State.report_ok | apply State.deliverMsg_ok | apply State.takeReq_ok | apply State.search_ok
    | split
    | with_reducible first
        | apply State.Ok.of | apply State.Ok.mem | apply State.Ok.tasks | apply State.Ok.tiles | apply State.Ok.cells
        | apply State.Ok.cmds | apply State.Ok.locks | apply State.Ok.fields | apply State.Ok.dies | apply State.Ok.gates
        | apply State.Ok.gate

theorem execMatchPost_ok {s : State} (h : s.Ok) (i : Nat) :
    OutOk (execMatchPost i s) := by
  unfold execMatchPost
  try dsimp only
  repeat' with_reducible first | assumption | apply next_ok | apply State.matchPost_ok

theorem State.matchProbe_ok {s : State} (h : s.Ok) (i : Nat) :
    (State.matchProbe s i).Ok := by
  unfold State.matchProbe
  try dsimp only
  repeat' first
    | with_reducible first
        | assumption | apply State.ite_ok | apply State.watchLocal_ok | apply State.report_ok | apply State.takeReq_ok
        | apply State.search_ok
    | split

theorem execMatchProbe_ok {s : State} (h : s.Ok) (i : Nat) :
    OutOk (execMatchProbe i s) := by
  unfold execMatchProbe
  try dsimp only
  repeat' with_reducible first | assumption | apply next_ok | apply State.matchProbe_ok

theorem State.freeEntry_ok {s : State} (h : s.Ok) (e : Nat) :
    (State.freeEntry s e).Ok := by
  unfold State.freeEntry
  try dsimp only
  repeat' with_reducible first | assumption | apply State.modCmd_ok | apply State.modEntry_ok

theorem State.matchCancel_ok {s : State} (h : s.Ok) (i : Nat) :
    (State.matchCancel s i).Ok := by
  unfold State.matchCancel
  try dsimp only
  repeat' first
    | with_reducible first
        | assumption | apply State.ite_ok | apply State.report_ok | apply State.takeReq_ok | apply State.freeEntry_ok
    | split

theorem execMatchCancel_ok {s : State} (h : s.Ok) (i : Nat) :
    OutOk (execMatchCancel i s) := by
  unfold execMatchCancel
  try dsimp only
  repeat' with_reducible first | assumption | apply next_ok | apply State.matchCancel_ok

theorem State.matchTest_ok {s : State} (h : s.Ok) (i : Nat) :
    (State.matchTest s i).Ok := by
  unfold State.matchTest
  try dsimp only
  repeat' first | (with_reducible first | assumption | apply Task.fillRet_gate | apply State.modTask_ok | apply State.takeReq_ok) | split | intro _

theorem execMatchTest_ok {s : State} (h : s.Ok) (i : Nat) :
    OutOk (execMatchTest i s) := by
  unfold execMatchTest
  try dsimp only
  repeat' with_reducible first | assumption | apply next_ok | apply State.matchTest_ok

theorem State.receiveComplete_ok {s : State} (h : s.Ok) (e : Nat) :
    (State.receiveComplete s e).Ok := by
  unfold State.receiveComplete
  try dsimp only
  repeat' first
    | with_reducible first
        | assumption | apply State.ite_ok | apply State.report_ok | apply State.landAll_ok | apply State.freeEntry_ok
    | split

theorem execReceiveComplete_ok {s : State} (h : s.Ok) (e : Nat) :
    OutOk (execReceiveComplete e s) := by
  unfold execReceiveComplete
  try dsimp only
  repeat' with_reducible first | assumption | apply next_ok | apply State.receiveComplete_ok

theorem State.freePosts_ok {s : State} (h : s.Ok) (f : Nat) :
    (State.freePosts s f).Ok := by
  unfold State.freePosts
  try dsimp only
  repeat' first
    | with_reducible first
        | assumption | apply State.foldl_ok | apply State.releaseSender_ok | apply State.freeEntry_ok
    | split
    | with_reducible first
        | apply State.Ok.of | apply State.Ok.mem | apply State.Ok.tasks | apply State.Ok.tiles | apply State.Ok.cells
        | apply State.Ok.cmds | apply State.Ok.locks | apply State.Ok.fields | apply State.Ok.dies | apply State.Ok.gates
        | apply State.Ok.gate
    | intro _

theorem State.rxSend_ok {s : State} (h : s.Ok) (op : RxOp) :
    (State.rxSend s op).Ok := by
  unfold State.rxSend
  try dsimp only
  repeat' first
    | with_reducible first
        | assumption | apply State.Ok.of | apply State.Ok.mem | apply State.Ok.tasks | apply State.Ok.tiles
        | apply State.Ok.cells | apply State.Ok.cmds | apply State.Ok.locks | apply State.Ok.fields | apply State.Ok.dies
        | apply State.Ok.gates | apply State.Ok.gate

theorem execMpost_ok {s : State} (h : s.Ok) (o : OpHS) :
    OutOk (execMpost o s) := by
  unfold execMpost
  try dsimp only
  repeat' first | (with_reducible first | assumption | apply slotOr_ok | apply State.rxSend_ok) | intro _

theorem execMprobe_ok {s : State} (h : s.Ok) (o : OpS) :
    OutOk (execMprobe o s) := by
  unfold execMprobe
  try dsimp only
  repeat' first | (with_reducible first | assumption | apply slotOr_ok | apply State.rxSend_ok) | intro _

theorem execMcancel_ok {s : State} (h : s.Ok) (o : OpS) :
    OutOk (execMcancel o s) := by
  unfold execMcancel
  try dsimp only
  repeat' first | (with_reducible first | assumption | apply slot_ok | apply State.rxSend_ok) | intro _

theorem execMtest_ok {s : State} (h : s.Ok) (o : OpS) :
    OutOk (execMtest o s) := by
  unfold execMtest
  try dsimp only
  repeat' first
    | with_reducible first
        | assumption | apply slot_ok | apply Task.addRet_gate | apply State.modTask_ok | apply State.rxSend_ok
    | intro _

theorem State.sendUnreach_ok {s : State} (h : s.Ok) (cm : Nat) (m : Nat) :
    (State.sendUnreach s cm m).Ok := by
  unfold State.sendUnreach
  try dsimp only
  repeat' with_reducible first | assumption | apply State.failCmd_ok | apply State.raiseAsync_ok

theorem State.startSend_ok {s : State} (h : s.Ok) (cm : Nat) :
    (State.startSend s cm).Ok := by
  unfold State.startSend
  try dsimp only
  repeat' first
    | with_reducible first
        | assumption | apply State.ite_ok | apply State.streamRec_ok | apply State.failCmd_ok | apply State.modCmd_ok
        | apply State.watchLocal_ok | apply State.sendUnreach_ok | apply State.Ok.of | apply State.Ok.mem
        | apply State.Ok.tasks | apply State.Ok.tiles | apply State.Ok.cells | apply State.Ok.cmds | apply State.Ok.locks
        | apply State.Ok.fields | apply State.Ok.dies | apply State.Ok.gates | apply State.Ok.gate

theorem State.sendOut_ok {s : State} (h : s.Ok) (cm : Nat) :
    (State.sendOut s cm).Ok := by
  unfold State.sendOut
  try dsimp only
  repeat' first
    | with_reducible first
        | assumption | apply State.foldl_ok | apply State.ite_ok | apply State.modCmd_ok | apply State.toPeer_ok
        | apply State.sendUnreach_ok | apply State.Ok.of | apply State.Ok.mem | apply State.Ok.tasks | apply State.Ok.tiles
        | apply State.Ok.cells | apply State.Ok.cmds | apply State.Ok.locks | apply State.Ok.fields | apply State.Ok.dies
        | apply State.Ok.gates | apply State.Ok.gate
    | intro _

theorem State.sendHold_ok {s : State} (h : s.Ok) (cm : Nat) (h : Hitch) (j : Nat) (va : Nat) :
    (State.sendHold s cm h j va).Ok := by
  unfold State.sendHold
  try dsimp only
  repeat' with_reducible first | assumption | apply State.hold_ok | apply State.modCmd_ok

theorem State.beatSend_ok {s : State} (h : s.Ok) (cm : Nat) :
    (State.beatSend s cm).Ok := by
  unfold State.beatSend
  try dsimp only
  repeat' first
    | with_reducible first
        | assumption | apply State.ite_ok | apply State.modTile_ok | apply State.modCmd_ok | apply State.toPeer_ok
        | apply State.noteRead_ok | apply State.sendOut_ok | apply State.sendHold_ok
    | split

theorem State.sendComplete_ok {s : State} (h : s.Ok) (cm : Nat) :
    (State.sendComplete s cm).Ok := by
  unfold State.sendComplete
  try dsimp only
  repeat' with_reducible first | assumption | apply State.ite_ok | apply State.doneCmd_ok | apply State.fireTarget_ok

theorem execMsendComplete_ok {s : State} (h : s.Ok) (cm : Nat) :
    OutOk (execMsendComplete cm s) := by
  unfold execMsendComplete
  try dsimp only
  repeat' with_reducible first | assumption | apply next_ok | apply State.sendComplete_ok

end Sys2Proof.Machine
end

