-- ==== Sys2Proof/Laws/OkFields.lean ====
section
/-! SUPPORT. The operations of Machine/Fields.lean keep what Laws/Ok.lean names. -/

namespace Sys2Proof.Machine

theorem State.launchRest_ok {s : State} (h : s.Ok) (id : Nat) :
    (State.launchRest s id).Ok := by
  unfold State.launchRest
  try dsimp only
  repeat' first | (with_reducible first | assumption | apply State.ite_ok | apply State.completeAll_ok) | split

theorem execLaunchComplete_ok {s : State} (h : s.Ok) (id : Nat) :
    OutOk (execLaunchComplete id s) := by
  unfold execLaunchComplete
  try dsimp only
  repeat' with_reducible first | assumption | apply next_ok | apply State.launchRest_ok

theorem Task.discard_gate {t : Task} (h : t.Gate) :
    (Task.discard t).Gate := by
  unfold Task.discard
  try dsimp only
  repeat' first | (with_reducible refine Task.Gate.upd rfl ?_; dsimp only) | with_reducible apply SliceFile.gate_one

theorem State.dropLocks_ok {s : State} (h : s.Ok) (task : Nat → Bool) (cell : Nat → Bool) :
    (State.dropLocks s task cell).Ok := by
  unfold State.dropLocks
  try dsimp only
  repeat' first
    | with_reducible first
        | assumption | apply State.Ok.of | apply Sparse.wf_mapAll | apply State.Ok.mem | apply State.Ok.tasks
        | apply State.Ok.tiles | apply State.Ok.cells | apply State.Ok.cmds | apply State.Ok.locks | apply State.Ok.fields
        | apply State.Ok.dies | apply State.Ok.gates | apply State.Ok.gate

theorem State.dropVout_ok {s : State} (h : s.Ok) (task : Nat → Bool) :
    (State.dropVout s task).Ok := by
  unfold State.dropVout
  try dsimp only
  repeat' first
    | with_reducible first
        | assumption | apply State.Ok.of | apply State.Ok.mem | apply State.Ok.tasks | apply State.Ok.tiles
        | apply State.Ok.cells | apply State.Ok.cmds | apply State.Ok.locks | apply State.Ok.fields | apply State.Ok.dies
        | apply State.Ok.gates | apply State.Ok.gate

theorem State.clearCore_ok {s : State} (h : s.Ok) (c : Nat) :
    (State.clearCore s c).Ok := by
  unfold State.clearCore
  try dsimp only
  repeat' first
    | with_reducible first
        | assumption | apply State.foldl_ok | apply State.flushGap_ok | apply State.modTask_ok | apply State.modTile_ok
        | apply Task.discard_gate | apply State.Ok.of | apply Sparse.wf_filter | apply State.Ok.mem | apply State.Ok.tasks
        | apply State.Ok.tiles | apply State.Ok.cells | apply State.Ok.cmds | apply State.Ok.locks | apply State.Ok.fields
        | apply State.Ok.dies | apply State.Ok.gates | apply State.Ok.gate
    | intro _

theorem State.clearField_ok {s : State} (h : s.Ok) (f : Nat) :
    (State.clearField s f).Ok := by
  unfold State.clearField
  try dsimp only
  repeat' first
    | with_reducible first
        | assumption | apply State.foldl_ok | apply State.dropLocks_ok | apply State.dropVout_ok | apply State.clearCore_ok
    | intro _

theorem State.releaseTiles_ok {s : State} (h : s.Ok) (f : Nat) :
    (State.releaseTiles s f).Ok := by
  unfold State.releaseTiles
  try dsimp only
  repeat' first | (with_reducible first | assumption | apply State.foldl_ok | apply State.modTile_ok) | intro _

theorem State.unloadField_ok {s : State} (h : s.Ok) (f : Nat) :
    (State.unloadField s f).Ok := by
  unfold State.unloadField
  try dsimp only
  repeat' first
    | with_reducible first
        | assumption | apply State.ite_ok | apply State.freePosts_ok | apply State.modField_ok | apply State.clearField_ok
        | apply State.releaseTiles_ok | apply State.Ok.of | apply Sparse.wf_filter | apply State.Ok.mem
        | apply State.Ok.tasks | apply State.Ok.tiles | apply State.Ok.cells | apply State.Ok.cmds | apply State.Ok.locks
        | apply State.Ok.fields | apply State.Ok.dies | apply State.Ok.gates | apply State.Ok.gate

end Sys2Proof.Machine
end

