-- ==== Sys2Proof/Laws/OkLoader.lean ====
section
/-! SUPPORT. The operations of Machine/Loader.lean keep what Laws/Ok.lean names. -/

namespace Sys2Proof.Machine

theorem State.noteImageRead_ok {s : State} (h : s.Ok) (f : Nat) (g : Bool) (a : Nat) (bytes : Option (List Byte)) :
    (State.noteImageRead s f g a bytes).Ok := by
  unfold State.noteImageRead
  try dsimp only
  repeat' first | (with_reducible first | assumption | apply State.ite_ok | apply State.noteDva_ok | apply State.watchBy_ok) | split

theorem State.refuseRec_ok {s : State} (h : s.Ok) (die : Nat) (num : Nat) (ver : Nat) (reason : Nat) :
    (State.refuseRec s die num ver reason).Ok := by
  unfold State.refuseRec
  try dsimp only
  repeat' with_reducible first | assumption | apply State.pushRec_ok

theorem State.zeroFill_ok {s : State} (h : s.Ok) (p : Nat → Bool) : (s.zeroFill p).Ok :=
  { h with mem := Sparse.wf_filter h.mem _ }

theorem State.zeroGranules_ok {s : State} (h : s.Ok) (f : Nat) (im : Image) :
    (State.zeroGranules s f im).Ok := by
  unfold State.zeroGranules
  try dsimp only
  repeat' first | (with_reducible first | assumption | apply State.foldl_ok | apply State.zeroFill_ok) | split | intro _

theorem State.coldWave_ok {s : State} (h : s.Ok) (f : Nat) (x0 : Nat) (y0 : Nat) (image : Nat) (g : Bool) (im : Image) (wave : Wave) :
    (State.coldWave s f x0 y0 image g im wave).Ok := by
  unfold State.coldWave
  try dsimp only
  repeat' first
    | with_reducible first
        | assumption | apply State.foldl_ok | apply State.clearCore_ok | apply State.modTile_ok | apply State.modField_ok
        | apply State.zeroGranules_ok
    | intro _

theorem State.enterWave_ok {s : State} (h : s.Ok) (f : Nat) (wave : Wave) (image : Nat) (g : Bool) :
    (State.enterWave s f wave image g).Ok := by
  unfold State.enterWave
  try dsimp only
  repeat' first
    | with_reducible first
        | assumption | apply State.foldl_ok | apply State.completeAll_ok | apply State.modTile_ok | apply State.modCmd_ok
        | apply State.modField_ok
    | split
    | with_reducible first
        | apply State.Ok.of | apply Sparse.wf_mapAll | apply State.Ok.mem | apply State.Ok.tasks | apply State.Ok.tiles
        | apply State.Ok.cells | apply State.Ok.cmds | apply State.Ok.locks | apply State.Ok.fields | apply State.Ok.dies
        | apply State.Ok.gates | apply State.Ok.gate
    | intro _

theorem State.waveDue_ok {s : State} (h : s.Ok) (f : Nat) (wave : Wave) (image : Nat) (g : Bool) :
    (State.waveDue s f wave image g).Ok := by
  unfold State.waveDue
  try dsimp only
  repeat' with_reducible first | assumption | apply State.ite_ok | apply State.modField_ok | apply State.enterWave_ok

theorem State.releaseWave_ok {s : State} (h : s.Ok) (f : Nat) :
    (State.releaseWave s f).Ok := by
  unfold State.releaseWave
  try dsimp only
  repeat' first | (with_reducible first | assumption | apply State.enterWave_ok) | split

theorem State.writeSegs_ok {s : State} (h : s.Ok) (core : Nat) (cold : Bool) (l : List Seg) :
    (State.writeSegs s core cold l).Ok := by
  unfold State.writeSegs
  try dsimp only
  repeat' first | (with_reducible first | assumption | apply State.foldl_ok | apply State.write_ok | apply State.writeQuiet_ok) | split | intro _

theorem State.writePages_ok {s : State} (h : s.Ok) (core : Nat) (x : Sect) :
    (State.writePages s core x).Ok := by
  unfold State.writePages
  try dsimp only
  repeat' first | (with_reducible first | assumption | apply State.foldl_ok | apply State.writeQuiet_ok) | intro _

theorem Task.declare_gate {t : Task} (h : t.Gate) (r : ImgTask) :
    (Task.declare t r).Gate := by
  unfold Task.declare
  try dsimp only
  repeat' first | (with_reducible refine Task.Gate.upd rfl ?_; dsimp only) | with_reducible apply SliceFile.gate_or

theorem State.declareTask_ok {s : State} (h : s.Ok) (core : Nat) (scfg : Option Nat) (r : ImgTask) :
    (State.declareTask s core scfg r).Ok := by
  unfold State.declareTask
  try dsimp only
  repeat' first
    | with_reducible first
        | assumption | apply State.foldl_ok | apply State.dropLocks_ok | apply State.dropVout_ok | apply State.unbindVc_ok
        | apply State.modTask_ok | apply State.modTile_ok | apply State.modCmd_ok | apply Task.declare_gate
    | split
    | intro _

theorem State.declareTile_ok {s : State} (h : s.Ok) (core : Nat) (w : Wave) (ver : Nat) (x : Sect) :
    (State.declareTile s core w ver x).Ok := by
  unfold State.declareTile
  try dsimp only
  repeat' first
    | with_reducible first
        | assumption | apply State.foldl_ok | apply State.modTile_ok | apply State.writeSegs_ok | apply State.writePages_ok
        | apply State.declareTask_ok
    | intro _

theorem State.killPaused_ok {s : State} (h : s.Ok) (core : Nat) (w : Wave) (ver : Nat) : (s.killPaused core w ver).Ok := by
  refine State.foldl_ok _ (fun s i hs => ?_) h
  dsimp only
  split
  · exact State.killCmd_ok hs _
  · exact hs

theorem State.linkInput_ok {s : State} (h : s.Ok) (k : Nat) (i : Nat) :
    (State.linkInput s k i).Ok := by
  unfold State.linkInput
  try dsimp only
  repeat' first | (with_reducible first | assumption | apply State.ite_ok | apply State.modCell_ok) | split

theorem State.linkCell_ok {s : State} (h : s.Ok) (k : Nat) : (s.linkCell k).Ok := by
  refine State.foldl_ok _ (fun s j hs => ?_) (State.foldl_ok _ (fun s i hs => State.linkInput_ok hs _ _) h)
  split
  · exact State.modTile_ok hs _ _
  · split
    · refine State.foldl_ok _ (fun s d hs => ?_) hs
      split
      · exact State.linkInput_ok hs _ _
      · exact hs
    · exact hs

theorem State.loadCell_ok {s : State} (h : s.Ok) (k : Nat) (ver : Nat) (prog : Sparse Word128) :
    (State.loadCell s k ver prog).Ok := by
  unfold State.loadCell
  try dsimp only
  repeat' first
    | with_reducible first
        | assumption | apply State.foldl_ok | apply State.flushGap_ok | apply State.seeRoom_ok | apply State.gainRoom_ok
        | apply State.dropLocks_ok | apply State.modCell_ok | apply State.linkCell_ok
    | intro _

theorem State.versionOpen_ok {s : State} (h : s.Ok) (f : Nat) :
    (State.versionOpen s f).Ok := by
  unfold State.versionOpen
  try dsimp only
  repeat' first | (with_reducible first | assumption | apply State.foldl_ok | apply State.ite_ok | apply State.drain_ok) | intro _

theorem State.cellLoad_ok {s : State} (h : s.Ok) (k : Nat) :
    (State.cellLoad s k).Ok := by
  unfold State.cellLoad
  try dsimp only
  repeat' first
    | with_reducible first
        | assumption | apply State.ite_ok | apply State.declareTile_ok | apply State.killPaused_ok
        | apply State.loadCell_ok | apply State.versionOpen_ok
    | split

theorem execCellLoad_ok {s : State} (h : s.Ok) (k : Nat) :
    OutOk (execCellLoad k s) := by
  unfold execCellLoad
  try dsimp only
  repeat' with_reducible first | assumption | apply next_ok | apply State.cellLoad_ok

theorem State.measure_ok {s : State} (h : s.Ok) (f : Nat) (ver : Nat) (bytes : List Byte) :
    (State.measure s f ver bytes).Ok := by
  unfold State.measure
  try dsimp only
  repeat' with_reducible first | assumption | apply State.modDie_ok

theorem State.imageRead_ok {s : State} (h : s.Ok) (f : Nat) :
    (State.imageRead s f).Ok := by
  unfold State.imageRead
  try dsimp only
  repeat' first | (with_reducible first | assumption | apply State.ite_ok | apply State.modField_ok | apply State.measure_ok) | split

theorem execImageReadComplete_ok {s : State} (h : s.Ok) (f : Nat) :
    OutOk (execImageReadComplete f s) := by
  unfold execImageReadComplete
  try dsimp only
  repeat' with_reducible first | assumption | apply next_ok | apply State.imageRead_ok

theorem State.modLaunch_ok {s : State} (h : s.Ok) (id : Nat) (g : Launch → Launch) :
    (State.modLaunch s id g).Ok := by
  unfold State.modLaunch
  try dsimp only
  repeat' first
    | with_reducible first
        | assumption | apply State.Ok.of | apply State.Ok.mem | apply State.Ok.tasks | apply State.Ok.tiles
        | apply State.Ok.cells | apply State.Ok.cmds | apply State.Ok.locks | apply State.Ok.fields | apply State.Ok.dies
        | apply State.Ok.gates | apply State.Ok.gate

theorem State.warmWaiting_ok {s : State} (h : s.Ok) (f : Nat) :
    (State.warmWaiting s f).Ok := by
  unfold State.warmWaiting
  try dsimp only
  repeat' first
    | with_reducible first
        | assumption | apply State.Ok.of | apply State.Ok.mem | apply State.Ok.tasks | apply State.Ok.tiles
        | apply State.Ok.cells | apply State.Ok.cmds | apply State.Ok.locks | apply State.Ok.fields | apply State.Ok.dies
        | apply State.Ok.gates | apply State.Ok.gate

theorem State.waveDone_ok {s : State} (h : s.Ok) (f : Nat) :
    (State.waveDone s f).Ok := by
  unfold State.waveDone
  try dsimp only
  repeat' first
    | with_reducible first
        | assumption | apply State.ite_ok | apply State.doneCmd_ok | apply State.modField_ok | apply State.traceEvent_ok
        | apply State.modLaunch_ok | apply State.warmWaiting_ok
    | split

theorem execConfigCompleteWave_ok {s : State} (h : s.Ok) (f : Nat) :
    OutOk (execConfigCompleteWave f s) := by
  unfold execConfigCompleteWave
  try dsimp only
  repeat' with_reducible first | assumption | apply next_ok | apply State.waveDone_ok

end Sys2Proof.Machine
end

