-- ==== Sys2Proof/Laws/OkStreams.lean ====
section
/-! SUPPORT. The operations of Machine/Streams.lean keep what Laws/Ok.lean names. -/

namespace Sys2Proof.Machine

theorem State.startCmd_ok {s : State} (h : s.Ok) (cm : Nat) :
    (State.startCmd s cm).Ok := by
  unfold State.startCmd
  try dsimp only
  repeat' with_reducible first | assumption | apply State.ite_ok | apply State.startSend_ok | apply State.modCmd_ok

theorem execQueueCommandStart_ok {s : State} (h : s.Ok) (cm : Nat) :
    OutOk (execQueueCommandStart cm s) := by
  unfold execQueueCommandStart
  try dsimp only
  repeat' with_reducible first | assumption | apply next_ok | apply State.startCmd_ok

theorem State.noteImage_ok {s : State} (h : s.Ok) (cm : Nat) :
    (State.noteImage s cm).Ok := by
  unfold State.noteImage
  try dsimp only
  repeat' with_reducible first | assumption | apply State.noteReads_ok

theorem State.beatConfig_ok {s : State} (h : s.Ok) (cm : Nat) :
    (State.beatConfig s cm).Ok := by
  unfold State.beatConfig
  try dsimp only
  repeat' first
    | with_reducible first
        | assumption | apply State.ite_ok | apply State.hold_ok | apply State.failCmd_ok | apply State.faultCmd_ok
        | apply State.refuseRec_ok | apply State.waveDue_ok | apply State.modCmd_ok | apply State.noteImage_ok
    | split

theorem State.streamBeat_ok {s : State} (h : s.Ok) (cm : Nat) :
    (State.streamBeat s cm).Ok := by
  unfold State.streamBeat
  try dsimp only
  repeat' first
    | with_reducible first
        | assumption | apply State.ite_ok | apply State.sendRedo_ok | apply State.beatOne_ok | apply State.bankWait_ok
        | apply State.bankTake_ok | apply State.beatLockstep_ok | apply State.startSend_ok | apply State.beatSend_ok
        | apply State.beatConfig_ok

theorem execStreamBeat_ok {s : State} (h : s.Ok) (cm : Nat) :
    OutOk (execStreamBeat cm s) := by
  unfold execStreamBeat
  try dsimp only
  repeat' with_reducible first | assumption | apply next_ok | apply State.streamBeat_ok

theorem State.translate_ok {s : State} (h : s.Ok) (cm : Nat) :
    (State.translate s cm).Ok := by
  unfold State.translate
  try dsimp only
  repeat' with_reducible first | assumption | apply State.ite_ok | apply State.walkFor_ok

theorem execTranslationWalk_ok {s : State} (h : s.Ok) (cm : Nat) :
    OutOk (execTranslationWalk cm s) := by
  unfold execTranslationWalk
  try dsimp only
  repeat' with_reducible first | assumption | apply next_ok | apply State.translate_ok

theorem State.streamComplete_ok {s : State} (h : s.Ok) (cm : Nat) :
    (State.streamComplete s cm).Ok := by
  unfold State.streamComplete
  try dsimp only
  repeat' with_reducible first | assumption | apply State.ite_ok | apply State.doneCmd_ok

theorem execStreamComplete_ok {s : State} (h : s.Ok) (cm : Nat) :
    OutOk (execStreamComplete cm s) := by
  unfold execStreamComplete
  try dsimp only
  repeat' with_reducible first | assumption | apply next_ok | apply State.streamComplete_ok

theorem State.sbarComplete_ok {s : State} (h : s.Ok) (cm : Nat) :
    (State.sbarComplete s cm).Ok := by
  unfold State.sbarComplete
  try dsimp only
  repeat' with_reducible first | assumption | apply State.ite_ok | apply State.doneCmd_ok

theorem execSbarComplete_ok {s : State} (h : s.Ok) (cm : Nat) :
    OutOk (execSbarComplete cm s) := by
  unfold execSbarComplete
  try dsimp only
  repeat' with_reducible first | assumption | apply next_ok | apply State.sbarComplete_ok

end Sys2Proof.Machine
end

