-- ==== Sys2Proof/Laws/OkFabric.lean ====
section
/-! SUPPORT. The operations of Machine/Fabric.lean keep what Laws/Ok.lean names. -/

namespace Sys2Proof.Machine

theorem State.endReq_ok {s : State} (h : s.Ok) (tk : Nat) (r : Req) (sent : Bool) :
    (State.endReq s tk r sent).Ok := by
  unfold State.endReq
  try dsimp only
  repeat' first
    | with_reducible first
        | assumption | apply State.drain_ok | apply Task.countEnd_gate | apply State.modTask_ok | apply State.raiseAsync_ok
    | (with_reducible refine Task.Gate.upd rfl ?_; dsimp only)
    | with_reducible apply Task.Gate.toSf
    | intro _

theorem State.endReqs_ok {s : State} (h : s.Ok) (m : Nat) :
    (State.endReqs s m).Ok := by
  unfold State.endReqs
  try dsimp only
  repeat' first | (with_reducible first | assumption | apply State.foldl_ok | apply State.endReq_ok) | intro _

theorem State.endQueued_ok {s : State} (h : s.Ok) (m : Nat) (tk : Nat) :
    (State.endQueued s m tk).Ok := by
  unfold State.endQueued
  try dsimp only
  repeat' first
    | with_reducible first
        | assumption | apply State.foldl_ok | apply State.ite_ok | apply State.modTask_ok | apply State.endReq_ok
    | (with_reducible refine Task.Gate.upd rfl ?_; dsimp only)
    | with_reducible apply Task.Gate.toSf
    | intro _

theorem State.endWaiting_ok {s : State} (h : s.Ok) (m : Nat) :
    (State.endWaiting s m).Ok := by
  unfold State.endWaiting
  try dsimp only
  repeat' first | (with_reducible first | assumption | apply State.foldl_ok | apply State.endQueued_ok) | intro _

theorem State.endOwed_ok {s : State} (h : s.Ok) (m : Nat) :
    (State.endOwed s m).Ok := by
  unfold State.endOwed
  try dsimp only
  repeat' first
    | with_reducible first
        | assumption | apply State.foldl_ok | apply State.landFault_ok | apply State.endKilled_ok | apply State.failCmd_ok
        | apply State.modCmd_ok | apply State.raiseAsync_ok
    | split
    | intro _

theorem State.endSends_ok {s : State} (h : s.Ok) (m : Nat) (dropped : Bool) :
    (State.endSends s m dropped).Ok := by
  unfold State.endSends
  try dsimp only
  repeat' first | (with_reducible first | assumption | apply State.foldl_ok | apply State.failCmd_ok | apply State.raiseAsync_ok) | split | intro _

theorem State.endLandings_ok {s : State} (h : s.Ok) (m : Nat) : (s.endLandings m).Ok := by
  refine State.foldl_ok _ (fun s x hs => ?_) h
  split
  · split
    · exact State.landStop_ok hs _ _
    · exact hs
  · exact hs

theorem State.endForwards_ok {s : State} (h : s.Ok) (m : Nat) :
    (State.endForwards s m).Ok := by
  unfold State.endForwards
  try dsimp only
  repeat' first
    | with_reducible first
        | assumption | apply State.foldl_ok | apply State.answerPeer_ok | apply State.modPeer_ok
    | split
    | with_reducible first
        | apply State.Ok.of | apply State.Ok.mem | apply State.Ok.tasks | apply State.Ok.tiles | apply State.Ok.cells
        | apply State.Ok.cmds | apply State.Ok.locks | apply State.Ok.fields | apply State.Ok.dies | apply State.Ok.gates
        | apply State.Ok.gate
    | intro _

theorem State.endPeer_ok {s : State} (h : s.Ok) (m : Nat) (dropped : Bool) :
    (State.endPeer s m dropped).Ok := by
  unfold State.endPeer
  try dsimp only
  repeat' first
    | with_reducible first
        | assumption | apply State.modPeer_ok | apply State.endReqs_ok | apply State.endWaiting_ok | apply State.endOwed_ok
        | apply State.endSends_ok | apply State.endLandings_ok | apply State.endForwards_ok

theorem State.loseCmd_ok {s : State} (h : s.Ok) (cm : Nat) (x : Nat × Nat × Bool) :
    (State.loseCmd s cm x).Ok := by
  unfold State.loseCmd
  try dsimp only
  repeat' first
    | with_reducible first
        | assumption | apply State.ite_ok | apply State.hold_ok | apply State.sendHold_ok | apply State.toPeer_ok
    | split

theorem State.loseHeld_ok {s : State} (h : s.Ok) : (s.loseHeld).Ok := by
  refine State.foldl_ok _ (fun s x hs => State.ite_ok (State.landFault_ok hs _ _) hs) (State.foldl_ok _ (fun s x hs => ?_) h)
  dsimp only
  split
  · split
    · exact State.loseCmd_ok hs _ _
    · exact hs
  · exact hs

theorem State.losePeer_ok {s : State} (h : s.Ok) (m : Nat) :
    (State.losePeer s m).Ok := by
  unfold State.losePeer
  try dsimp only
  repeat' with_reducible first | assumption | apply State.endPeer_ok | apply State.loseHeld_ok

theorem State.cmdRefused_ok {s : State} (h : s.Ok) :
    (State.cmdRefused s).Ok := by
  unfold State.cmdRefused
  try dsimp only
  repeat' first
    | with_reducible first
        | assumption | apply State.Ok.of | apply State.Ok.mem | apply State.Ok.tasks | apply State.Ok.tiles
        | apply State.Ok.cells | apply State.Ok.cmds | apply State.Ok.locks | apply State.Ok.fields | apply State.Ok.dies
        | apply State.Ok.gates | apply State.Ok.gate

theorem State.zeroSeqs_ok {s : State} (h : s.Ok) (port : Nat) :
    (State.zeroSeqs s port).Ok := by
  unfold State.zeroSeqs
  try dsimp only
  repeat' first
    | with_reducible first
        | assumption | apply State.foldl_ok | apply State.ite_ok | apply State.rxFail_ok | apply State.noteWalks_ok
        | apply State.writeLE_ok
    | split
    | intro _

theorem State.moveRow_ok {s : State} (h : s.Ok) (old : Nat) (new : Nat) (row : Option (List Byte)) :
    (State.moveRow s old new row).Ok := by
  unfold State.moveRow
  try dsimp only
  repeat' first
    | with_reducible first
        | assumption | apply State.ite_ok | apply State.rxFail_ok | apply State.noteWalks_ok | apply State.noteDva_ok
        | apply State.write_ok
    | split

theorem State.zeroSends_ok {s : State} (h : s.Ok) (m : Nat) :
    (State.zeroSends s m).Ok := by
  unfold State.zeroSends
  try dsimp only
  repeat' first
    | with_reducible first
        | assumption | apply State.Ok.of | apply State.Ok.mem | apply State.Ok.tasks | apply State.Ok.tiles
        | apply State.Ok.cells | apply State.Ok.cmds | apply State.Ok.locks | apply State.Ok.fields | apply State.Ok.dies
        | apply State.Ok.gates | apply State.Ok.gate

theorem State.dropMember_ok {s : State} (h : s.Ok) (m : Nat) :
    (State.dropMember s m).Ok := by
  unfold State.dropMember
  try dsimp only
  repeat' first
    | with_reducible first
        | assumption | apply State.endPeer_ok | apply State.zeroSeqs_ok | apply State.zeroSends_ok | apply State.Ok.of
        | apply State.Ok.mem | apply State.Ok.tasks | apply State.Ok.tiles | apply State.Ok.cells | apply State.Ok.cmds
        | apply State.Ok.locks | apply State.Ok.fields | apply State.Ok.dies | apply State.Ok.gates | apply State.Ok.gate

theorem State.applyTable_ok {s : State} (h : s.Ok) (t : Table) :
    (State.applyTable s t).Ok := by
  unfold State.applyTable
  try dsimp only
  repeat' first
    | with_reducible first
        | assumption | apply State.foldl_ok | apply State.zeroSeqs_ok | apply State.moveRow_ok | apply State.zeroSends_ok
        | apply State.dropMember_ok
    | split
    | with_reducible first
        | apply State.Ok.of | apply State.Ok.mem | apply State.Ok.tasks | apply State.Ok.tiles | apply State.Ok.cells
        | apply State.Ok.cmds | apply State.Ok.locks | apply State.Ok.fields | apply State.Ok.dies | apply State.Ok.gates
        | apply State.Ok.gate
    | intro _

theorem State.apply_ok {s : State} (h : s.Ok) :
    (State.apply s).Ok := by
  unfold State.apply
  try dsimp only
  repeat' first
    | with_reducible first
        | assumption | apply State.ite_ok | apply State.noteDva_ok | apply State.loseHeld_ok | apply State.cmdRefused_ok
        | apply State.applyTable_ok
    | split

theorem execApply_ok {s : State} (h : s.Ok) :
    OutOk (execApply s) := by
  unfold execApply
  try dsimp only
  repeat' with_reducible first | assumption | apply next_ok | apply State.apply_ok

theorem State.keySwitch_ok {s : State} (h : s.Ok) :
    (State.keySwitch s).Ok := by
  unfold State.keySwitch
  try dsimp only
  repeat' first
    | with_reducible first
        | assumption | apply State.ite_ok
    | split
    | with_reducible first
        | apply State.Ok.of | apply State.Ok.mem | apply State.Ok.tasks | apply State.Ok.tiles | apply State.Ok.cells
        | apply State.Ok.cmds | apply State.Ok.locks | apply State.Ok.fields | apply State.Ok.dies | apply State.Ok.gates
        | apply State.Ok.gate

theorem State.key_ok {s : State} (h : s.Ok) :
    (State.key s).Ok := by
  unfold State.key
  try dsimp only
  repeat' first
    | with_reducible first
        | assumption | apply State.ite_ok | apply State.keySwitch_ok | apply State.noteDva_ok | apply State.cmdRefused_ok
    | split
    | with_reducible first
        | apply State.Ok.of | apply State.Ok.mem | apply State.Ok.tasks | apply State.Ok.tiles | apply State.Ok.cells
        | apply State.Ok.cmds | apply State.Ok.locks | apply State.Ok.fields | apply State.Ok.dies | apply State.Ok.gates
        | apply State.Ok.gate

theorem execKey_ok {s : State} (h : s.Ok) :
    OutOk (execKey s) := by
  unfold execKey
  try dsimp only
  repeat' with_reducible first | assumption | apply next_ok | apply State.key_ok

theorem State.lock_ok {s : State} (h : s.Ok) :
    (State.lock s).Ok := by
  unfold State.lock
  try dsimp only
  repeat' first
    | with_reducible first
        | assumption | apply State.ite_ok | apply State.cmdRefused_ok | apply State.Ok.of | apply State.Ok.mem
        | apply State.Ok.tasks | apply State.Ok.tiles | apply State.Ok.cells | apply State.Ok.cmds | apply State.Ok.locks
        | apply State.Ok.fields | apply State.Ok.dies | apply State.Ok.gates | apply State.Ok.gate

theorem execLock_ok {s : State} (h : s.Ok) :
    OutOk (execLock s) := by
  unfold execLock
  try dsimp only
  repeat' with_reducible first | assumption | apply next_ok | apply State.lock_ok

theorem State.openFab_ok {s : State} (h : s.Ok) :
    (State.openFab s).Ok := by
  unfold State.openFab
  try dsimp only
  repeat' first
    | with_reducible first
        | assumption | apply State.ite_ok | apply State.cmdRefused_ok | apply State.Ok.of | apply State.Ok.mem
        | apply State.Ok.tasks | apply State.Ok.tiles | apply State.Ok.cells | apply State.Ok.cmds | apply State.Ok.locks
        | apply State.Ok.fields | apply State.Ok.dies | apply State.Ok.gates | apply State.Ok.gate

theorem execOpen_ok {s : State} (h : s.Ok) :
    OutOk (execOpen s) := by
  unfold execOpen
  try dsimp only
  repeat' with_reducible first | assumption | apply next_ok | apply State.openFab_ok

theorem State.drainCheck_ok {s : State} (h : s.Ok) :
    (State.drainCheck s).Ok := by
  unfold State.drainCheck
  try dsimp only
  repeat' first
    | with_reducible first
        | assumption | apply State.foldl_ok | apply State.ite_ok | apply State.modPeer_ok | apply State.Ok.of
        | apply State.Ok.mem | apply State.Ok.tasks | apply State.Ok.tiles | apply State.Ok.cells | apply State.Ok.cmds
        | apply State.Ok.locks | apply State.Ok.fields | apply State.Ok.dies | apply State.Ok.gates | apply State.Ok.gate
    | intro _

theorem State.drainFab_ok {s : State} (h : s.Ok) :
    (State.drainFab s).Ok := by
  unfold State.drainFab
  try dsimp only
  repeat' first
    | with_reducible first
        | assumption | apply State.ite_ok | apply State.cmdRefused_ok | apply State.drainCheck_ok | apply State.Ok.of
        | apply State.Ok.mem | apply State.Ok.tasks | apply State.Ok.tiles | apply State.Ok.cells | apply State.Ok.cmds
        | apply State.Ok.locks | apply State.Ok.fields | apply State.Ok.dies | apply State.Ok.gates | apply State.Ok.gate

theorem execDrain_ok {s : State} (h : s.Ok) :
    OutOk (execDrain s) := by
  unfold execDrain
  try dsimp only
  repeat' with_reducible first | assumption | apply next_ok | apply State.drainFab_ok

theorem State.darkFab_ok {s : State} (h : s.Ok) :
    (State.darkFab s).Ok := by
  unfold State.darkFab
  try dsimp only
  repeat' first
    | with_reducible first
        | assumption | apply State.ite_ok | apply State.cmdRefused_ok | apply State.Ok.of | apply State.Ok.mem
        | apply State.Ok.tasks | apply State.Ok.tiles | apply State.Ok.cells | apply State.Ok.cmds | apply State.Ok.locks
        | apply State.Ok.fields | apply State.Ok.dies | apply State.Ok.gates | apply State.Ok.gate

theorem execDark_ok {s : State} (h : s.Ok) :
    OutOk (execDark s) := by
  unfold execDark
  try dsimp only
  repeat' with_reducible first | assumption | apply next_ok | apply State.darkFab_ok

theorem State.lockDone_ok {s : State} (h : s.Ok) :
    (State.lockDone s).Ok := by
  unfold State.lockDone
  try dsimp only
  repeat' first
    | with_reducible first
        | assumption | apply State.ite_ok | apply State.Ok.of | apply State.Ok.mem | apply State.Ok.tasks
        | apply State.Ok.tiles | apply State.Ok.cells | apply State.Ok.cmds | apply State.Ok.locks | apply State.Ok.fields
        | apply State.Ok.dies | apply State.Ok.gates | apply State.Ok.gate

theorem execLockComplete_ok {s : State} (h : s.Ok) :
    OutOk (execLockComplete s) := by
  unfold execLockComplete
  try dsimp only
  repeat' with_reducible first | assumption | apply next_ok | apply State.lockDone_ok

theorem State.hctl_ok {s : State} (h : s.Ok) (snap : Bool) (clr : Bool) :
    (State.hctl s snap clr).Ok := by
  unfold State.hctl
  try dsimp only
  repeat' first
    | with_reducible assumption
    | split
    | with_reducible first
        | apply State.Ok.of | apply State.Ok.mem | apply State.Ok.tasks | apply State.Ok.tiles | apply State.Ok.cells
        | apply State.Ok.cmds | apply State.Ok.locks | apply State.Ok.fields | apply State.Ok.dies | apply State.Ok.gates
        | apply State.Ok.gate

theorem execHctlSnap_ok {s : State} (h : s.Ok) :
    OutOk (execHctlSnap s) := by
  unfold execHctlSnap
  try dsimp only
  repeat' with_reducible first | assumption | apply next_ok | apply State.hctl_ok

theorem execHctlClr_ok {s : State} (h : s.Ok) :
    OutOk (execHctlClr s) := by
  unfold execHctlClr
  try dsimp only
  repeat' with_reducible first | assumption | apply next_ok | apply State.hctl_ok

theorem State.fabCmd_ok {s : State} (h : s.Ok) (v : Nat) :
    (State.fabCmd s v).Ok := by
  unfold State.fabCmd
  try dsimp only
  repeat' first
    | with_reducible first
        | assumption | apply State.ite_ok | apply State.cmdRefused_ok | apply State.apply_ok | apply State.key_ok
        | apply State.lock_ok | apply State.openFab_ok | apply State.drainFab_ok | apply State.darkFab_ok
    | split

theorem State.regWrite_ok {s : State} (h : s.Ok) (o : Nat) (v : Nat) :
    (State.regWrite s o v).Ok := by
  unfold State.regWrite
  try dsimp only
  repeat' first
    | with_reducible first
        | assumption | apply State.ite_ok | apply State.hctl_ok | apply State.fabCmd_ok
    | split
    | with_reducible first
        | apply State.Ok.of | apply State.Ok.mem | apply State.Ok.tasks | apply State.Ok.tiles | apply State.Ok.cells
        | apply State.Ok.cmds | apply State.Ok.locks | apply State.Ok.fields | apply State.Ok.dies | apply State.Ok.gates
        | apply State.Ok.gate

end Sys2Proof.Machine
end

