-- ==== Sys2Proof/Laws/OkRemote.lean ====
section
/-! SUPPORT. The operations of Machine/Remote.lean keep what Laws/Ok.lean names. -/

namespace Sys2Proof.Machine

/-- What the serving of a request keeps. -/
def Served.Ok : Served → Prop
  | .done _ _ s => s.Ok
  | _ => True

theorem Served.Ok.done {r : Served} (h : r.Ok) {o : Option Nat} {l : List Byte} {t : State} (hr : r = .done o l t) : t.Ok := by
  subst hr; exact h

theorem State.doRequest_ok {s : State} (h : s.Ok) (sp : Space) (o : Nat) (op : Nat) (n : Nat) (data : List Nat) :
    (State.doRequest s sp o op n data).2.Ok := by
  unfold State.doRequest
  try dsimp only
  repeat' first | (with_reducible first | assumption | apply State.ite_ok | apply State.hbmRead_ok | apply State.writeLE_ok) | split

theorem State.servePage_ok {s : State} (n : Nat) (wr : Bool)
    (act : Space → Nat → Option Nat × List Byte × State) (ha : ∀ sp a, (act sp a).2.2.Ok) (k : Nat) :
    ∀ via addr, (s.servePage n wr act k via addr).Ok := by
  have leaf (k : Nat) (hk : ∀ via a, ∀ j, k = j + 1 → (s.servePage n wr act j via a).Ok) (l : Leaf) (addr : Nat) :
      (match l.target addr, k with
      | (0, a), _ => let r := act .hbm a; Served.done r.1 r.2.1 r.2.2
      | (1, a), _ => let r := act .host a; Served.done r.1 r.2.1 r.2.2
      | (_, a), k =>
        if bits l.entry 48 16 ≠ s.fab.modid then .forward (bits l.entry 48 16) a
        else if inRegs a then .refused
        else match k with
          | 0 => .refused
          | k + 1 => s.servePage n wr act k .peer a).Ok := by
    split
    · exact ha _ _
    · exact ha _ _
    · split
      · trivial
      · split
        · trivial
        · split
          · trivial
          · exact hk _ _ _ rfl
  induction k with
  | zero =>
    intro via addr
    unfold State.servePage
    dsimp only
    split
    · trivial
    · trivial
    · split
      · trivial
      · exact leaf 0 (fun _ _ _ h => nomatch h) _ _
    · exact leaf 0 (fun _ _ _ h => nomatch h) _ _
  | succ k ih =>
    intro via addr
    unfold State.servePage
    dsimp only
    split
    · trivial
    · trivial
    · split
      · trivial
      · exact leaf (k + 1) (fun via a j h => by cases h; exact ih via a) _ _
    · exact leaf (k + 1) (fun via a j h => by cases h; exact ih via a) _ _

theorem State.serveAt_ok {s : State} (h : s.Ok) (peer : Option Nat) (task addr n : Nat) (wr : Bool)
    (act : Space → Nat → Option Nat × List Byte × State) (ha : ∀ sp a, (act sp a).2.2.Ok) :
    (s.serveAt peer task addr n wr act).Ok := by
  unfold State.serveAt
  split
  · trivial
  · exact State.servePage_ok _ _ _ ha _ _ _

theorem State.serve_ok {s : State} (h : s.Ok) (peer : Option Nat) (task ctl addr : Nat) (data : List Nat) :
    (s.serve peer task ctl addr data).Ok := by
  unfold State.serve
  dsimp only
  split
  · split
    · split
      · exact h
      · exact State.regWrite_ok h _ _
    · trivial
  · apply State.serveAt_ok h
    intro sp a
    exact State.doRequest_ok h _ _ _ _ _

theorem State.serveLine_ok {s : State} (h : s.Ok) (peer : Option Nat) (key addr : Nat) (wr : Option (List (Nat × Byte))) :
    (s.serveLine peer key addr wr).Ok := by
  unfold State.serveLine
  split
  · trivial
  · apply State.serveAt_ok h
    intro sp a
    split
    · dsimp only
      split
      · exact State.hbmRead_ok h _ _
      · exact h
    · exact State.foldl_ok _ (fun s x hs => State.write_ok hs _ _ _) h

theorem State.noteServe_ok {s : State} (h : s.Ok) (addr : Nat) :
    (State.noteServe s addr).Ok := by
  unfold State.noteServe
  try dsimp only
  repeat' with_reducible first | assumption | apply State.ite_ok | apply State.noteWalks_ok

theorem State.watchFq_ok {s : State} (h : s.Ok) (tk : Nat) (ctl : Nat) (addr : Nat) :
    (State.watchFq s tk ctl addr).Ok := by
  unfold State.watchFq
  try dsimp only
  repeat' with_reducible first | assumption | apply State.watch_ok

theorem State.holdReq_ok {s : State} (h : s.Ok) (page : Nat) (peer : Option Nat) (body : PacketBody) :
    (State.holdReq s page peer body).Ok := by
  unfold State.holdReq
  try dsimp only
  repeat' first
    | with_reducible first
        | assumption | apply State.Ok.of | apply State.Ok.mem | apply State.Ok.tasks | apply State.Ok.tiles
        | apply State.Ok.cells | apply State.Ok.cmds | apply State.Ok.locks | apply State.Ok.fields | apply State.Ok.dies
        | apply State.Ok.gates | apply State.Ok.gate

theorem State.answerReq_ok {s : State} (h : s.Ok) (tk : Nat) (num : Nat) (status : Nat) (old : Option Nat) :
    (State.answerReq s tk num status old).Ok := by
  unfold State.answerReq
  try dsimp only
  repeat' first
    | with_reducible first
        | assumption | apply State.modTask_ok
    | (with_reducible refine Task.Gate.upd rfl ?_; dsimp only)
    | with_reducible apply Task.Gate.toSf
    | intro _

theorem State.sendHeld_ok {s : State} (h : s.Ok) (task : Nat) (num : Nat) (m : Nat) (a : Nat) (body : PacketBody) :
    (State.sendHeld s task num m a body).Ok := by
  unfold State.sendHeld
  try dsimp only
  repeat' first
    | with_reducible first
        | assumption | apply State.ite_ok | apply State.endReq_ok | apply State.modTask_ok | apply State.toPeer_ok
    | split
    | (with_reducible refine Task.Gate.upd rfl ?_; dsimp only)
    | with_reducible apply Task.Gate.toSf
    | intro _

theorem State.serveAgain_ok {s : State} (hs : s.Ok) (h : HeldReq) {done : State → Option Nat → List Byte → State} {bad : State → Nat → State}
    (hd : ∀ s o l, State.Ok s → (done s o l).Ok) (hb : ∀ s n, State.Ok s → (bad s n).Ok) {r : Served} (hr : r.Ok) :
    (s.serveAgain h done bad r).Ok := by
  unfold State.serveAgain
  split
  · exact hd _ _ _ hr
  · exact State.holdReq_ok hs _ _ _
  · split
    · exact State.sendHeld_ok hs _ _ _ _ _
    · exact State.ite_ok (State.forwardReq_ok hs _ _ _ _ _) (hb _ _ hs)
    · exact State.ite_ok (State.forwardReq_ok hs _ _ _ _ _) (hb _ _ hs)
    · exact hs
  · exact hb _ _ hs
  · exact hb _ _ hs

theorem State.serveHeld_ok {s : State} (h : s.Ok) (hr : HeldReq) : (s.serveHeld hr).Ok := by
  unfold State.serveHeld
  split
  · exact State.serveAgain_ok (State.noteServe_ok h _) _ (fun s o l hs => State.answerReq_ok (State.watchFq_ok hs _ _ _) _ _ _ _)
      (fun s _ hs => State.answerReq_ok hs _ _ _ _) (State.serve_ok (State.noteServe_ok h _) _ _ _ _ _)
  · exact State.serveAgain_ok (State.noteServe_ok h _) _ (fun s o l hs => State.answerPeer_ok hs _ _ _)
      (fun s _ hs => State.answerPeer_ok hs _ _ _) (State.serve_ok (State.noteServe_ok h _) _ _ _ _ _)
  · exact State.serveAgain_ok (State.noteServe_ok h _) _ (fun s o l hs => State.answerPeer_ok hs _ _ _)
      (fun s _ hs => State.answerPeer_ok hs _ _ _) (State.serveLine_ok (State.noteServe_ok h _) _ _ _ _)
  · exact h

theorem State.releasePage_ok {s : State} (h : s.Ok) (page : Nat) :
    (State.releasePage s page).Ok := by
  unfold State.releasePage
  try dsimp only
  repeat' first
    | with_reducible first
        | assumption | apply State.foldl_ok | apply State.serveHeld_ok | apply State.Ok.of | apply State.Ok.mem
        | apply State.Ok.tasks | apply State.Ok.tiles | apply State.Ok.cells | apply State.Ok.cmds | apply State.Ok.locks
        | apply State.Ok.fields | apply State.Ok.dies | apply State.Ok.gates | apply State.Ok.gate
    | intro _

theorem State.leaveFq_ok {s : State} (h : s.Ok) (tk : Nat) (r : Req) (n : Nat) :
    (State.leaveFq s tk r n).Ok := by
  unfold State.leaveFq
  try dsimp only
  repeat' first
    | with_reducible first
        | assumption | apply State.modTask_ok
    | (with_reducible refine Task.Gate.upd rfl ?_; dsimp only)
    | with_reducible apply Task.Gate.toSf
    | intro _

theorem State.sendRemote_ok {s : State} (h : s.Ok) (tk : Nat) (m : Nat) (ctl : Nat) (addr : Nat) (data : List Nat) (r : Req) (n : Nat) :
    (State.sendRemote s tk m ctl addr data r n).Ok := by
  unfold State.sendRemote
  try dsimp only
  repeat' with_reducible first | assumption | apply State.ite_ok | apply State.endReq_ok | apply State.toPeer_ok | apply State.leaveFq_ok

theorem State.fqSend_ok {s : State} (h : s.Ok) (tk : Nat) : (s.fqSend tk).Ok := by
  unfold State.fqSend
  dsimp only
  split
  · exact h
  · split
    · exact h
    split
    · exact State.leaveFq_ok h _ _ _
    split
    · split
      · next hd => exact State.leaveFq_ok (State.watchFq_ok ((State.serve_ok (State.noteServe_ok h _) _ _ _ _ _).done hd) _ _ _) _ _ _
      · exact State.leaveFq_ok (State.noteServe_ok h _) _ _ _
      · split
        · exact State.holdReq_ok (State.leaveFq_ok (State.noteServe_ok h _) _ _ _) _ _ _
        · exact State.noteServe_ok h _
      · exact State.sendRemote_ok (State.noteServe_ok h _) _ _ _ _ _ _ _
      · exact State.leaveFq_ok (State.noteServe_ok h _) _ _ _
    · exact State.sendRemote_ok h _ _ _ _ _ _ _

theorem execFqRequestSend_ok {s : State} (h : s.Ok) (tk : Nat) :
    OutOk (execFqRequestSend tk s) := by
  unfold execFqRequestSend
  try dsimp only
  repeat' with_reducible first | assumption | apply next_ok | apply State.fqSend_ok

theorem State.fqResponse_ok {s : State} (h : s.Ok) (tk : Nat) :
    (State.fqResponse s tk).Ok := by
  unfold State.fqResponse
  try dsimp only
  repeat' first
    | with_reducible first
        | assumption | apply State.drain_ok | apply Task.countEnd_gate | apply State.modTask_ok
    | split
    | (with_reducible refine Task.Gate.upd rfl ?_; dsimp only)
    | with_reducible apply Task.Gate.toSf
    | intro _

theorem execFqResponse_ok {s : State} (h : s.Ok) (tk : Nat) :
    OutOk (execFqResponse tk s) := by
  unfold execFqResponse
  try dsimp only
  repeat' with_reducible first | assumption | apply next_ok | apply State.fqResponse_ok

end Sys2Proof.Machine
end

