-- ==== Sys2Proof/Laws/OkRotor.lean ====
section
/-! SUPPORT. The operations of Machine/Rotor.lean keep what Laws/Ok.lean names. -/

namespace Sys2Proof.Machine

/-- What the acceptance of a packet keeps. -/
def Accept.Ok : Accept → Prop
  | .ok _ s => s.Ok
  | .held s => s.Ok
  | .refuse s => s.Ok

theorem State.Ok.fabOut {s : State} (h : s.Ok) (f : Fabric) (o : List Output) : ({ s with fab := f, out := o } : State).Ok := { h with }

theorem Accept.ok_ite {x y : Accept} {c : Prop} [Decidable c] (h : x.Ok) (h' : y.Ok) : (if c then x else y).Ok := by
  split
  · exact h
  · exact h'

theorem State.sentFirst_ok {s : State} (h : s.Ok) (m : Nat) (n : Nat) :
    (State.sentFirst s m n).Ok := by
  unfold State.sentFirst
  try dsimp only
  repeat' with_reducible first | assumption | apply State.modPeer_ok

theorem State.directData_ok {s : State} (h : s.Ok) (m : Nat) (room : Nat) :
    (State.directData s m room).2.Ok := by
  unfold State.directData
  try dsimp only
  repeat' first
    | with_reducible first
        | assumption | apply State.foldl_ok | apply State.noteDva_ok | apply State.modPeer_ok | apply State.sentFirst_ok
    | intro _

theorem State.relayData_ok {s : State} (h : s.Ok) (i key room : Nat) : (s.relayData i key room).2.Ok := by
  unfold State.relayData
  split
  · exact h
  · generalize List.filter _ _ = l
    suffices hl : ∀ x : List (List Byte) × State, x.2.Ok → (l.foldl (fun x (g : Nat × Nat × Nat × Nat) =>
        let d := g.2.2.1
        let raws := x.2.offered true d
        let need := (pack raws.length [] raws).1.length - (x.2.fab.directLeft d (key % 16) - x.2.fab.committed d)
        let r := pack (min (min g.2.2.2 (max need (Config.relayWish s.fab.cycle i d))) (room - x.1.length)) [] raws
        (x.1 ++ r.1, x.2.sentFirst d r.2)) x).2.Ok from hl _ h
    induction l with
    | nil => exact fun x hx => hx
    | cons g l ih => exact fun x hx => ih _ (State.sentFirst_ok hx _ _)

theorem State.slotSent_ok {s : State} (h : s.Ok) (k : Key) (fibre : Nat) (slot : Nat) (l : List (Nat × List Byte)) :
    (State.slotSent s k fibre slot l).Ok := by
  unfold State.slotSent
  try dsimp only
  repeat' first
    | with_reducible first
        | assumption | apply State.Ok.of | apply State.Ok.mem | apply State.Ok.tasks | apply State.Ok.tiles
        | apply State.Ok.cells | apply State.Ok.cmds | apply State.Ok.locks | apply State.Ok.fields | apply State.Ok.dies
        | apply State.Ok.gates | apply State.Ok.gate

theorem State.slotSend_ok {s : State} (h : s.Ok) (fibre slot : Nat) : (s.slotSend fibre slot).Ok := by
  unfold State.slotSend
  dsimp only
  split
  · exact h
  split
  · exact State.slotSent_ok h _ _ _ _
  · exact State.slotSent_ok (State.modPeer_ok (State.relayData_ok (State.directData_ok h _ _) _ _ _) _ _) _ _ _ _
  · exact h

theorem execKeyActivation_ok {s : State} (h : s.Ok) :
    OutOk (execKeyActivation s) := by
  unfold execKeyActivation
  try dsimp only
  repeat' with_reducible first | assumption | apply next_ok | apply State.keySwitch_ok

theorem State.keyErase_ok {s : State} (h : s.Ok) :
    (State.keyErase s).Ok := by
  unfold State.keyErase
  try dsimp only
  repeat' first
    | with_reducible first
        | assumption | apply State.ite_ok
    | split
    | with_reducible first
        | apply State.Ok.of | apply State.Ok.mem | apply State.Ok.tasks | apply State.Ok.tiles | apply State.Ok.cells
        | apply State.Ok.cmds | apply State.Ok.locks | apply State.Ok.fields | apply State.Ok.dies | apply State.Ok.gates
        | apply State.Ok.gate

theorem execOldKeyErase_ok {s : State} (h : s.Ok) :
    OutOk (execOldKeyErase s) := by
  unfold execOldKeyErase
  try dsimp only
  repeat' with_reducible first | assumption | apply next_ok | apply State.keyErase_ok

theorem State.rotorSlot_ok {s : State} (h : s.Ok) (fibre : Nat) (slot : Nat) :
    (State.rotorSlot s fibre slot).Ok := by
  unfold State.rotorSlot
  try dsimp only
  repeat' with_reducible first | assumption | apply State.keySwitch_ok | apply State.slotSend_ok | apply State.keyErase_ok

theorem execRotorSlot_ok {s : State} (h : s.Ok) (fibre : Nat) (slot : Nat) :
    OutOk (execRotorSlot fibre slot s) := by
  unfold execRotorSlot
  try dsimp only
  repeat' with_reducible first | assumption | apply next_ok | apply State.rotorSlot_ok

theorem State.growMsg_ok {s : State} (h : s.Ok) (m : Nat) (src : Nat) (seq : Nat) (l : List Byte) :
    (State.growMsg s m src seq l).Ok := by
  unfold State.growMsg
  try dsimp only
  repeat' first
    | with_reducible first
        | assumption | apply State.moreOf_ok | apply State.grow_ok | apply State.landAll_ok
    | split
    | with_reducible first
        | apply State.Ok.of | apply State.Ok.mem | apply State.Ok.tasks | apply State.Ok.tiles | apply State.Ok.cells
        | apply State.Ok.cmds | apply State.Ok.locks | apply State.Ok.fields | apply State.Ok.dies | apply State.Ok.gates
        | apply State.Ok.gate

theorem acceptServed_ok {s : State} (h : s.Ok) (m psn : Nat) (body : PacketBody) {r : Served} (hr : r.Ok) :
    (acceptServed s m psn body r).Ok := by
  unfold acceptServed
  split
  · exact hr
  · split
    · exact State.holdReq_ok h _ _ _
    · exact h
  · split
    · exact State.forwardReq_ok h _ _ _ _ _
    · exact h
  · exact h
  · exact h

theorem State.acceptPacket_ok {s : State} (h : s.Ok) (m : Nat) (body : PacketBody) : (s.acceptPacket m body).Ok := by
  unfold State.acceptPacket
  dsimp only
  split
  · exact acceptServed_ok (State.noteServe_ok h _) _ _ _ (State.serve_ok (State.noteServe_ok h _) _ _ _ _ _)
  · exact acceptServed_ok (State.noteServe_ok h _) _ _ _ (State.serveLine_ok (State.noteServe_ok h _) _ _ _ _)
  · split
    · exact State.growMsg_ok h _ _ _ _
    · exact Accept.ok_ite (State.takeIn_ok h _) (State.takeIn_ok h _)
  · exact Accept.ok_ite (State.modCmd_ok h _ _) (State.toPeer_ok h _ _ _ _)
  · split
    · split
      · exact h
      · split
        · exact State.landAll_ok (State.modTile_ok (State.grow_ok h _ _) _ _) _
        · exact State.landFault_ok h _ _
    · exact h
  · show State.Ok _
    split
    · exact State.modCmd_ok h _ _
    · exact h
  · exact h

theorem State.notice_ok {s : State} (h : s.Ok) (m : Nat) (typ : Nat) (psn : Nat) :
    (State.notice s m typ psn).Ok := by
  unfold State.notice
  try dsimp only
  repeat' with_reducible first | assumption | apply State.modPeer_ok

theorem State.refusePsn_ok {s : State} (h : s.Ok) (m : Nat) (psn : Nat) :
    (State.refusePsn s m psn).Ok := by
  unfold State.refusePsn
  try dsimp only
  repeat' first | (with_reducible first | assumption | apply State.foldl_ok | apply State.modPeer_ok | apply State.notice_ok) | intro _

theorem State.acceptLoop_ok {s : State} (h : s.Ok) (n m : Nat) : (State.acceptLoop n m s).Ok := by
  induction n generalizing s with
  | zero => exact h
  | succ n ih =>
    unfold State.acceptLoop
    dsimp only
    split
    · exact h
    · next psn typ body _ =>
      have ha := State.acceptPacket_ok (State.modPeer_ok h m fun p => { p with stored := p.stored.filter fun x => decide (x.1 ≠ psn) }) m body
      split
      · next hs => rw [hs] at ha; exact ih (State.replyTo_ok (State.windowPut_ok (State.modPeer_ok ha _ _) _ _ _) _ _ _)
      · next hs =>
        rw [hs] at ha
        apply ih
        split
        · exact State.modPeer_ok ha _ _
        · exact State.replyTo_ok (State.modPeer_ok ha _ _) _ _ _
      · next hs => rw [hs] at ha; exact ih (State.notice_ok (State.modPeer_ok ha _ _) _ _ _)
      · next hs =>
        rw [hs] at ha
        exact State.refusePsn_ok ha _ _

theorem State.numbered_ok {s : State} (h : s.Ok) (m typ psn : Nat) (body : PacketBody) : (s.numbered m typ psn body).Ok := by
  unfold State.numbered
  extract_lets p off s1
  clear_value off
  split
  · split
    · exact State.replyTo_ok h _ _ _
    · exact State.notice_ok h _ _ _
    · split
      · exact h
      · exact State.replyTo_ok h _ _ _
  split
  · exact h
  split
  · exact State.refusePsn_ok h _ _
  split
  · exact State.notice_ok h _ _ _
  · apply State.acceptLoop_ok
    dsimp only [s1]
    split
    · exact h
    · exact State.windowPut_ok (State.modPeer_ok h _ _) _ _ _

theorem State.relayAnswer_ok {s : State} (h : s.Ok) (m : Nat) (psn : Nat) (status : Nat) (old : Option Nat) (line : List Byte) :
    (State.relayAnswer s m psn status old line).Ok := by
  unfold State.relayAnswer
  try dsimp only
  repeat' first
    | with_reducible first
        | assumption | apply State.answerPeer_ok
    | split
    | with_reducible first
        | apply State.Ok.of | apply State.Ok.mem | apply State.Ok.tasks | apply State.Ok.tiles | apply State.Ok.cells
        | apply State.Ok.cmds | apply State.Ok.locks | apply State.Ok.fields | apply State.Ok.dies | apply State.Ok.gates
        | apply State.Ok.gate

theorem State.peerAbsent_ok {s : State} (h : s.Ok) (cm : Nat) (o : Owed) (l : List Redo) :
    (State.peerAbsent s cm o l).Ok := by
  unfold State.peerAbsent
  try dsimp only
  repeat' with_reducible first | assumption | apply State.ite_ok | apply State.pauseCmd_ok | apply State.modCmd_ok

theorem State.landAbsent_ok {s : State} (h : s.Ok) (e : Nat) (o : Owed) (l : List Redo) :
    (State.landAbsent s e o l).Ok := by
  unfold State.landAbsent
  try dsimp only
  repeat' with_reducible first | assumption | apply State.ite_ok | apply State.landPause_ok | apply State.modCmd_ok

theorem State.landRefused_ok {s : State} (h : s.Ok) (e : Nat) (o : Owed) :
    (State.landRefused s e o).Ok := by
  unfold State.landRefused
  try dsimp only
  repeat' with_reducible first | assumption | apply State.landRec_ok | apply State.landFault_ok

theorem State.response_ok {s : State} (h : s.Ok) (m : Nat) (psn : Nat) (status : Nat) (old : Option Nat) (line : List Byte) :
    (State.response s m psn status old line).Ok := by
  unfold State.response
  try dsimp only
  repeat' first
    | with_reducible first
        | assumption | apply State.foldl_ok | apply State.ite_ok | apply State.modEntry_ok | apply State.landAll_ok
        | apply State.endKilled_ok | apply State.faultCmd_ok | apply State.answerReq_ok | apply State.modCmd_ok
        | apply State.modPeer_ok | apply State.relayAnswer_ok | apply State.peerAbsent_ok | apply State.landAbsent_ok
        | apply State.landRefused_ok
    | split
    | with_reducible first
        | apply State.Ok.of | apply State.Ok.mem | apply State.Ok.tasks | apply State.Ok.tiles | apply State.Ok.cells
        | apply State.Ok.cmds | apply State.Ok.locks | apply State.Ok.fields | apply State.Ok.dies | apply State.Ok.gates
        | apply State.Ok.gate
    | intro _

theorem State.acked_ok {s : State} (h : s.Ok) (m : Nat) (psn : Nat) :
    (State.acked s m psn).Ok := by
  unfold State.acked
  try dsimp only
  repeat' with_reducible first | assumption | apply State.modPeer_ok

theorem State.packetIn_ok {s : State} (h : s.Ok) (r : RawPacket) :
    (State.packetIn s r).Ok := by
  unfold State.packetIn
  try dsimp only
  repeat' first
    | with_reducible first
        | assumption | apply State.ite_ok | apply State.numbered_ok | apply State.response_ok | apply State.acked_ok
    | split

theorem State.entryIn_ok {s : State} (h : s.Ok) (m : Nat) (key : Nat) (c : Nat) (e : Nat) :
    (State.entryIn s m key c e).Ok := by
  unfold State.entryIn
  try dsimp only
  repeat' first
    | with_reducible first
        | assumption | apply State.ite_ok | apply State.modPeer_ok
    | split
    | with_reducible first
        | apply State.Ok.of | apply State.Ok.mem | apply State.Ok.tasks | apply State.Ok.tiles | apply State.Ok.cells
        | apply State.Ok.cmds | apply State.Ok.locks | apply State.Ok.fields | apply State.Ok.dies | apply State.Ok.gates
        | apply State.Ok.gate

theorem State.controlIn_ok {s : State} (h : s.Ok) (m : Nat) (fibre : Nat) (slot : Nat) (l : List Byte) :
    (State.controlIn s m fibre slot l).Ok := by
  unfold State.controlIn
  try dsimp only
  repeat' first
    | with_reducible first
        | assumption | apply State.foldl_ok | apply State.drainCheck_ok | apply State.modPeer_ok | apply State.entryIn_ok
    | split
    | with_reducible first
        | apply State.Ok.of | apply State.Ok.mem | apply State.Ok.tasks | apply State.Ok.tiles | apply State.Ok.cells
        | apply State.Ok.cmds | apply State.Ok.locks | apply State.Ok.fields | apply State.Ok.dies | apply State.Ok.gates
        | apply State.Ok.gate
    | intro _

theorem State.relayIn_ok {s : State} (h : s.Ok) (l : List RawPacket) : (s.relayIn l).Ok := by
  unfold State.relayIn
  dsimp only
  split
  · exact h
  split
  · exact h
  split
  · next hs => exact State.modPeer_ok (State.regionPut_ok h hs) _ _
  · exact h

theorem State.dataIn_ok {s : State} (h : s.Ok) (l : List Byte) :
    (State.dataIn s l).Ok := by
  unfold State.dataIn
  try dsimp only
  repeat' first
    | with_reducible first
        | assumption | apply State.foldl_ok | apply State.drainCheck_ok | apply State.packetIn_ok | apply State.relayIn_ok
    | intro _

theorem State.flitGood_ok {s : State} (h : s.Ok) (fibre : Nat) (slot : Nat) (sender : Nat) (ctr : Nat) (kind : Nat) (k : Key) (ct : List Byte) :
    (State.flitGood s fibre slot sender ctr kind k ct).Ok := by
  unfold State.flitGood
  try dsimp only
  repeat' first
    | with_reducible first
        | assumption | apply State.ite_ok | apply State.controlIn_ok | apply State.dataIn_ok
    | split
    | with_reducible first
        | apply State.Ok.of | apply State.Ok.mem | apply State.Ok.tasks | apply State.Ok.tiles | apply State.Ok.cells
        | apply State.Ok.cmds | apply State.Ok.locks | apply State.Ok.fields | apply State.Ok.dies | apply State.Ok.gates
        | apply State.Ok.gate

theorem State.flitTake_ok {s : State} (h : s.Ok) (fibre : Nat) (slot : Nat) (l : List Byte) :
    (State.flitTake s fibre slot l).Ok := by
  unfold State.flitTake
  try dsimp only
  repeat' first
    | with_reducible first
        | assumption | apply State.ite_ok | apply State.flitGood_ok
    | split
    | with_reducible first
        | apply State.Ok.of | apply State.Ok.mem | apply State.Ok.tasks | apply State.Ok.tiles | apply State.Ok.cells
        | apply State.Ok.cmds | apply State.Ok.locks | apply State.Ok.fields | apply State.Ok.dies | apply State.Ok.gates
        | apply State.Ok.gate

theorem State.flitIn_ok {s : State} (h : s.Ok) (fibre : Nat) (slot : Nat) (l : List Byte) :
    (State.flitIn s fibre slot l).Ok := by
  unfold State.flitIn
  try dsimp only
  repeat' with_reducible first | assumption | apply State.keySwitch_ok | apply State.keyErase_ok | apply State.flitTake_ok

theorem execFlitReceive_ok {s : State} (h : s.Ok) (fibre : Nat) (slot : Nat) (l : List Byte) :
    OutOk (execFlitReceive fibre slot l s) := by
  unfold execFlitReceive
  try dsimp only
  repeat' with_reducible first | assumption | apply next_ok | apply State.flitIn_ok

theorem State.resend_ok {s : State} (h : s.Ok) (m : Nat) (psn : Nat) :
    (State.resend s m psn).Ok := by
  unfold State.resend
  try dsimp only
  repeat' first
    | with_reducible first
        | assumption | apply State.ite_ok | apply State.losePeer_ok | apply State.modPeer_ok
    | split
    | with_reducible first
        | apply State.Ok.of | apply State.Ok.mem | apply State.Ok.tasks | apply State.Ok.tiles | apply State.Ok.cells
        | apply State.Ok.cmds | apply State.Ok.locks | apply State.Ok.fields | apply State.Ok.dies | apply State.Ok.gates
        | apply State.Ok.gate

theorem execPacketResendTimeout_ok {s : State} (h : s.Ok) (m : Nat) (psn : Nat) :
    OutOk (execPacketResendTimeout m psn s) := by
  unfold execPacketResendTimeout
  try dsimp only
  repeat' with_reducible first | assumption | apply next_ok | apply State.resend_ok

theorem State.memberGone_ok {s : State} (h : s.Ok) (m : Nat) :
    (State.memberGone s m).Ok := by
  unfold State.memberGone
  try dsimp only
  repeat' with_reducible first | assumption | apply State.ite_ok | apply State.losePeer_ok

theorem execMemberUnreachable_ok {s : State} (h : s.Ok) (m : Nat) :
    OutOk (execMemberUnreachable m s) := by
  unfold execMemberUnreachable
  try dsimp only
  repeat' with_reducible first | assumption | apply next_ok | apply State.memberGone_ok

theorem State.degrade_ok {s : State} (h : s.Ok) (fibre : Nat) :
    (State.degrade s fibre).Ok := by
  unfold State.degrade
  try dsimp only
  repeat' first
    | with_reducible first
        | assumption | apply State.Ok.of | apply State.Ok.mem | apply State.Ok.tasks | apply State.Ok.tiles
        | apply State.Ok.cells | apply State.Ok.cmds | apply State.Ok.locks | apply State.Ok.fields | apply State.Ok.dies
        | apply State.Ok.gates | apply State.Ok.gate

theorem execWavelengthDegrade_ok {s : State} (h : s.Ok) (fibre : Nat) :
    OutOk (execWavelengthDegrade fibre s) := by
  unfold execWavelengthDegrade
  try dsimp only
  repeat' with_reducible first | assumption | apply State.ite_ok | apply next_ok | apply State.degrade_ok

theorem State.fibreDead_ok {s : State} (h : s.Ok) (fibre : Nat) :
    (State.fibreDead s fibre).Ok := by
  unfold State.fibreDead
  try dsimp only
  repeat' first
    | with_reducible first
        | assumption | apply State.Ok.of | apply State.Ok.mem | apply State.Ok.tasks | apply State.Ok.tiles
        | apply State.Ok.cells | apply State.Ok.cmds | apply State.Ok.locks | apply State.Ok.fields | apply State.Ok.dies
        | apply State.Ok.gates | apply State.Ok.gate

theorem execFibreGoesDead_ok {s : State} (h : s.Ok) (fibre : Nat) :
    OutOk (execFibreGoesDead fibre s) := by
  unfold execFibreGoesDead
  try dsimp only
  repeat' with_reducible first | assumption | apply State.ite_ok | apply next_ok | apply State.fibreDead_ok

theorem State.rotorCycle_ok {s : State} (h : s.Ok) :
    (State.rotorCycle s).Ok := by
  unfold State.rotorCycle
  try dsimp only
  repeat' first
    | with_reducible first
        | assumption | apply State.foldl_ok | apply State.drainCheck_ok | apply State.sample_ok | apply State.Ok.of
        | apply State.Ok.mem | apply State.Ok.tasks | apply State.Ok.tiles | apply State.Ok.cells | apply State.Ok.cmds
        | apply State.Ok.locks | apply State.Ok.fields | apply State.Ok.dies | apply State.Ok.gates | apply State.Ok.gate
    | intro _

theorem execRotorCycleBoundary_ok {s : State} (h : s.Ok) :
    OutOk (execRotorCycleBoundary s) := by
  unfold execRotorCycleBoundary
  try dsimp only
  repeat' with_reducible first | assumption | apply next_ok | apply State.rotorCycle_ok

end Sys2Proof.Machine
end

