-- ==== Sys2Proof/Laws/OkEvents.lean ====
section
/-! SUPPORT. The operations of Machine/Events.lean keep what Laws/Ok.lean names. -/

namespace Sys2Proof.Machine

theorem State.issueOf_ok {s : State} (h : s.Ok) (tk w len : Nat) : ({ s with issue := s.issueOf tk w len } : State).Ok :=
  { h with gate := h.task tk }

theorem State.takeBad_ok {s : State} (h : s.Ok) (tk : Nat) : (s.takeBad tk).Ok := by
  unfold State.takeBad
  dsimp only
  split
  · exact State.precise_ok (State.issueOf_ok (State.modTask_ok h _ fun _ => Task.landDue_gate) _ _ _) _ _
  · exact h

theorem execFixedLatencyLanding_ok {s : State} (h : s.Ok) (tk : Nat) :
    OutOk (execFixedLatencyLanding tk s) := by
  unfold execFixedLatencyLanding
  try dsimp only
  repeat' first
    | with_reducible first
        | assumption | apply State.ite_ok | apply next_ok | apply Task.landDue_gate | apply Task.landBeneath_gate
        | apply State.modTask_ok
    | split
    | intro _

theorem Task.landReplay_gate {t : Task} (h : t.Gate) : t.landReplay.Gate := SliceFile.gate_foldl _ _ (fun _ _ => Dst.write_gate _ _ _) h

theorem execReplayEntryLanding_ok {s : State} (h : s.Ok) (tk : Nat) :
    OutOk (execReplayEntryLanding tk s) := by
  unfold execReplayEntryLanding
  try dsimp only
  repeat' with_reducible first | assumption | apply State.ite_ok | apply next_ok | apply State.modTask_ok | apply Task.landReplay_gate

theorem State.closeCore_ok {s : State} (h : s.Ok) (core : Nat) :
    (State.closeCore s core).Ok := by
  unfold State.closeCore
  try dsimp only
  repeat' first | (with_reducible first | assumption | apply State.closeField_ok) | split

theorem execLandingBufferWrite_ok {s : State} (h : s.Ok) (tk : Nat) (ret : Nat) :
    OutOk (execLandingBufferWrite tk ret s) := by
  unfold execLandingBufferWrite
  try dsimp only
  repeat' first
    | with_reducible first
        | assumption | apply next_ok | apply Task.rsynCheck_gate | apply State.tinvAnswer_ok | apply Task.landRet_gate
        | apply State.modTask_ok | apply State.closeCore_ok
    | intro _

theorem execAsyncTaskFault_ok {s : State} (h : s.Ok) (tk : Nat) :
    OutOk (execAsyncTaskFault tk s) := by
  unfold execAsyncTaskFault
  try dsimp only
  repeat' with_reducible first | assumption | apply State.ite_ok | apply next_ok | apply State.takeAsyncs_ok

theorem execTaskMarkedDead_ok {s : State} (h : s.Ok) (tk : Nat) :
    OutOk (execTaskMarkedDead tk s) := by
  unfold execTaskMarkedDead
  try dsimp only
  repeat' first
    | with_reducible first
        | assumption | apply State.ite_ok | apply next_ok | apply State.modTask_ok
    | (with_reducible refine Task.Gate.upd rfl ?_; dsimp only)
    | with_reducible apply Task.Gate.toSf
    | intro _

theorem State.wordArrives_ok {s : State} (h : s.Ok) (i : Nat) :
    (State.wordArrives s i).Ok := by
  unfold State.wordArrives
  try dsimp only
  repeat' first
    | with_reducible first
        | assumption | apply State.ite_ok | apply State.vcPut_ok
    | split
    | with_reducible first
        | apply State.Ok.of | apply State.Ok.mem | apply State.Ok.tasks | apply State.Ok.tiles | apply State.Ok.cells
        | apply State.Ok.cmds | apply State.Ok.locks | apply State.Ok.fields | apply State.Ok.dies | apply State.Ok.gates
        | apply State.Ok.gate

theorem execVcWordArrival_ok {s : State} (h : s.Ok) (i : Nat) :
    OutOk (execVcWordArrival i s) := by
  unfold execVcWordArrival
  try dsimp only
  repeat' with_reducible first | assumption | apply next_ok | apply State.wordArrives_ok

theorem State.grantLock_ok {s : State} (h : s.Ok) (lk : Nat) :
    (State.grantLock s lk).Ok := by
  unfold State.grantLock
  try dsimp only
  repeat' first
    | with_reducible first
        | assumption | apply State.ite_ok | apply State.binWait_ok | apply State.accessBin_ok | apply State.perform_ok
        | apply State.popPort_ok | apply State.drain_ok | apply State.modTask_ok | apply State.modCell_ok
        | apply State.modLock_ok
    | split
    | (with_reducible refine Task.Gate.upd rfl ?_; dsimp only)
    | with_reducible apply Task.Gate.toSf
    | intro _

theorem execLockBitGrant_ok {s : State} (h : s.Ok) (lk : Nat) :
    OutOk (execLockBitGrant lk s) := by
  unfold execLockBitGrant
  try dsimp only
  repeat' with_reducible first | assumption | apply next_ok | apply State.grantLock_ok

theorem State.releaseLock_ok {s : State} (h : s.Ok) (lk : Nat) :
    (State.releaseLock s lk).Ok := by
  unfold State.releaseLock
  try dsimp only
  repeat' with_reducible first | assumption | apply State.modLock_ok

theorem execLockHeldTimeout_ok {s : State} (h : s.Ok) (lk : Nat) :
    OutOk (execLockHeldTimeout lk s) := by
  unfold execLockHeldTimeout
  try dsimp only
  repeat' with_reducible first | assumption | apply State.ite_ok | apply next_ok | apply State.raiseAsync_ok | apply State.releaseLock_ok

theorem execCellLockHeldTimeout_ok {s : State} (h : s.Ok) (lk : Nat) :
    OutOk (execCellLockHeldTimeout lk s) := by
  unfold execCellLockHeldTimeout
  try dsimp only
  repeat' with_reducible first | assumption | apply State.ite_ok | apply next_ok | apply State.cellFault_ok | apply State.releaseLock_ok

end Sys2Proof.Machine
end

