-- ==== Sys2Proof/Laws/OkSave.lean ====
section
/-! SUPPORT. The operations of Machine/Save.lean keep what Laws/Ok.lean names. -/

namespace Sys2Proof.Machine

theorem Task.readParts_gate {t : Task} (h : t.Gate) (l : List Byte) :
    (Task.readParts t l).Gate := by
  unfold Task.readParts
  try dsimp only
  repeat' first | (with_reducible refine Task.Gate.upd rfl ?_; dsimp only) | with_reducible apply SliceFile.gate_or

theorem Task.readBlock_gate {t : Task} (h : t.Gate) (l : List Byte) :
    (Task.readBlock t l).Gate := by
  unfold Task.readBlock
  try dsimp only
  repeat' first
    | with_reducible apply Task.readParts_gate
    | split
    | (with_reducible refine Task.Gate.upd rfl ?_; dsimp only)
    | with_reducible first
        | apply Task.Gate.toSf | apply SliceFile.gate_one

theorem State.readContext_ok {s : State} (h : s.Ok) (core : Nat) (ver : Nat) (x : Nat) (l : List Byte) :
    (State.readContext s core ver x l).Ok := by
  unfold State.readContext
  try dsimp only
  repeat' first
    | with_reducible first
        | assumption | apply State.foldl_ok | apply State.modTask_ok | apply State.modCmd_ok | apply Task.readBlock_gate
    | (with_reducible refine Task.Gate.upd rfl ?_; dsimp only)
    | with_reducible apply Task.Gate.toSf
    | intro _

theorem State.readLock_ok {s : State} (h : s.Ok) (f : Nat) (core : Nat) (i : Nat) (v : Nat) :
    (State.readLock s f core i v).Ok := by
  unfold State.readLock
  try dsimp only
  repeat' with_reducible first | assumption | apply State.ite_ok | apply State.modLock_ok

theorem State.readContexts_ok {s : State} (h : s.Ok) (core : Nat) (ver : Nat) (l : List Byte) :
    (State.readContexts s core ver l).Ok := by
  unfold State.readContexts
  try dsimp only
  repeat' first | (with_reducible first | assumption | apply State.foldl_ok | apply State.readContext_ok) | intro _

theorem State.readLocks_ok {s : State} (h : s.Ok) (f : Nat) (core : Nat) (l : List Byte) :
    (State.readLocks s f core l).Ok := by
  unfold State.readLocks
  try dsimp only
  repeat' first | (with_reducible first | assumption | apply State.foldl_ok | apply State.readLock_ok) | intro _

theorem State.readCells_ok {s : State} (h : s.Ok) (core : Nat) (l : List Byte) :
    (State.readCells s core l).Ok := by
  unfold State.readCells
  try dsimp only
  repeat' first | (with_reducible first | assumption | apply State.foldl_ok | apply State.modCell_ok) | intro _

theorem State.readTile_ok {s : State} (h : s.Ok) (f : Nat) (core : Nat) (l : List Byte) :
    (State.readTile s f core l).Ok := by
  unfold State.readTile
  try dsimp only
  repeat' first
    | with_reducible first
        | assumption | apply State.modTile_ok | apply State.writeQuiet_ok | apply State.readContexts_ok
        | apply State.readLocks_ok | apply State.readCells_ok

theorem State.readGranules_ok {s t : State} (h : s.Ok) (f n : Nat) (l : List Byte) (ht : s.readGranules f n l = some t) : t.Ok := by
  induction n generalizing s l with
  | zero => cases ht; exact h
  | succ n ih =>
    unfold State.readGranules at ht
    dsimp only at ht
    split at ht
    · cases ht
    · split at ht
      · exact ih (State.writeQuiet_ok h _ _ _) _ ht
      · exact ih (State.writeQuiet_ok h _ _ _) _ ht
      · exact ih (State.writeQuiet_ok h _ _ _) _ ht
      · cases ht

end Sys2Proof.Machine
end

