-- ==== Sys2Proof/Laws/OkMgmt.lean ====
section
/-! SUPPORT. The operations of Machine/Mgmt.lean keep what Laws/Ok.lean names. -/

namespace Sys2Proof.Machine

theorem State.ringWrite_ok {s : State} (h : s.Ok) (die : Nat) :
    (State.ringWrite s die).Ok := by
  unfold State.ringWrite
  try dsimp only
  repeat' first
    | with_reducible first
        | assumption | apply State.ite_ok | apply State.modDie_ok | apply State.writeQuiet_ok | apply State.send_ok
    | split

theorem execFaultRecordWrite_ok {s : State} (h : s.Ok) (die : Nat) :
    OutOk (execFaultRecordWrite die s) := by
  unfold execFaultRecordWrite
  try dsimp only
  repeat' with_reducible first | assumption | apply next_ok | apply State.ringWrite_ok

theorem State.fctlDone_ok {s : State} (h : s.Ok) (die : Nat) (op : Nat) (result : Nat) :
    (State.fctlDone s die op result).Ok := by
  unfold State.fctlDone
  try dsimp only
  repeat' with_reducible first | assumption | apply State.modDie_ok

theorem State.fctlBusy_ok {s : State} (h : s.Ok) (die : Nat) (op : Nat) :
    (State.fctlBusy s die op).Ok := by
  unfold State.fctlBusy
  try dsimp only
  repeat' with_reducible first | assumption | apply State.modDie_ok

theorem State.freezeInPlace_ok {s : State} (h : s.Ok) (f : Nat) :
    (State.freezeInPlace s f).Ok := by
  unfold State.freezeInPlace
  try dsimp only
  repeat' first
    | with_reducible first
        | assumption | apply State.foldl_ok | apply Task.capture_gate | apply Task.forceRets_gate | apply State.modTask_ok
        | apply State.modField_ok | apply State.traceEvent_ok | apply State.takeAsyncs_ok
    | split
    | with_reducible first
        | apply State.Ok.of | apply Sparse.wf_mapAll | apply State.Ok.mem | apply State.Ok.tasks | apply State.Ok.tiles
        | apply State.Ok.cells | apply State.Ok.cmds | apply State.Ok.locks | apply State.Ok.fields | apply State.Ok.dies
        | apply State.Ok.gates | apply State.Ok.gate
    | intro _

theorem State.keepSends_ok {s : State} (h : s.Ok) (f : Nat) : (s.keepSends f).Ok := by
  unfold State.keepSends
  extract_lets l
  suffices hl : ∀ (l : List (Nat × Cmd)) (m : Sparse Cmd), Sparse.wf ({} : Cmd) m = true →
      Sparse.wf ({} : Cmd) (l.foldl (fun m x => Sparse.set {} m (parkKey f x.1) x.2) m) = true from { h with cmds := hl l _ h.cmds }
  intro l
  induction l with
  | nil => exact fun m hm => hm
  | cons x l ih => exact fun m hm => ih _ (Sparse.wf_set hm _ _)

theorem State.evictField_ok {s : State} (h : s.Ok) (f : Nat) : (s.evictField f).Ok :=
  State.modField_ok (State.releaseTiles_ok (State.clearField_ok (State.keepSends_ok h _) _) _) _ _

theorem State.evictSave_ok {s : State} (h : s.Ok) (die f : Nat) : (s.evictSave die f).Ok := by
  unfold State.evictSave
  dsimp only
  split
  · exact State.fctlDone_ok h _ _ _
  · next hw =>
    have h1 := State.writeDva_ok h hw
    split
    · exact State.fctlDone_ok (State.evictField_ok h1 _) _ _ _
    · exact State.modCmd_ok h1 _ _

theorem State.evictOn_ok {s : State} (h : s.Ok) (die f : Nat) : (s.evictOn die f).Ok := by
  unfold State.evictOn
  extract_lets c s1
  have h1 : s1.Ok := State.modCmd_ok h _ _
  clear_value s1
  split
  · exact h
  split
  · exact State.fctlDone_ok h1 _ _ _
  split
  · exact State.evictSave_ok h1 _ _
  · exact State.fctlDone_ok (State.evictField_ok h1 _) _ _ _

theorem State.freezeOn_ok {s : State} (h : s.Ok) (die op num : Nat) : (s.freezeOn die op num).Ok := by
  unfold State.freezeOn
  dsimp only
  split
  · exact State.fctlDone_ok (State.ite_ok (State.modCmd_ok h _ _) h) _ _ _
  split
  · exact State.evictOn_ok h _ _
  split
  · exact State.fctlDone_ok (State.modField_ok h _ _) _ _ _
  split
  · exact h
  split
  · exact State.fctlDone_ok (State.freezeInPlace_ok h _) _ _ _
  · exact State.evictSave_ok (State.freezeInPlace_ok h _) _ _

theorem State.startFreeze_ok {s : State} (h : s.Ok) (die : Nat) (op : Nat) (num : Nat) :
    (State.startFreeze s die op num).Ok := by
  unfold State.startFreeze
  try dsimp only
  repeat' first
    | with_reducible first
        | assumption | apply State.ite_ok | apply State.modField_ok | apply State.fctlDone_ok | apply State.fctlBusy_ok
        | apply State.freezeOn_ok

theorem State.thaw_ok {s : State} (h : s.Ok) (f : Nat) :
    (State.thaw s f).Ok := by
  unfold State.thaw
  try dsimp only
  repeat' first
    | with_reducible first
        | assumption | apply State.ite_ok | apply State.releaseWave_ok | apply State.modField_ok
        | apply State.traceEvent_ok | apply State.Ok.of | apply Sparse.wf_mapAll | apply State.Ok.mem
        | apply State.Ok.tasks | apply State.Ok.tiles | apply State.Ok.cells | apply State.Ok.cmds | apply State.Ok.locks
        | apply State.Ok.fields | apply State.Ok.dies | apply State.Ok.gates | apply State.Ok.gate

theorem State.resumeOn_ok {s : State} (h : s.Ok) (die : Nat) (num : Nat) :
    (State.resumeOn s die num).Ok := by
  unfold State.resumeOn
  try dsimp only
  repeat' with_reducible first | assumption | apply State.ite_ok | apply State.fctlDone_ok | apply State.fctlBusy_ok | apply State.thaw_ok

theorem State.loadWhole_ok {s : State} (h : s.Ok) (f : Nat) (x0 : Nat) (y0 : Nat) (image : Nat) (g : Bool) (im : Image) (bytes : List Byte) (ver : Nat) :
    (State.loadWhole s f x0 y0 image g im bytes ver).Ok := by
  unfold State.loadWhole
  try dsimp only
  repeat' first
    | with_reducible first
        | assumption | apply State.foldl_ok | apply State.coldWave_ok | apply State.declareTile_ok
        | apply State.loadCell_ok | apply State.measure_ok | apply State.modField_ok
    | split
    | intro _

theorem State.joinSends_ok {s : State} (h : s.Ok) (f : Nat) : (s.joinSends f).Ok := by
  unfold State.joinSends
  extract_lets kept s1
  have h1 : s1.Ok := { h with cmds := Sparse.wf_filter h.cmds _ }
  clear_value s1
  refine State.foldl_ok _ (fun s x hs => ?_) h1
  extract_lets cm s2 m
  have h2 : s2.Ok := State.modCmd_ok hs _ _
  clear_value s2
  split
  · exact State.modCmd_ok hs _ _
  split
  · split
    · exact State.raiseAsync_ok (State.failCmd_ok h2 _ _) _ _ _
    · exact h2
  · exact hs

theorem State.joinVout_ok {s : State} (h : s.Ok) (f : Nat) (blocks : List (Nat × List Byte)) :
    (State.joinVout s f blocks).Ok := by
  unfold State.joinVout
  try dsimp only
  repeat' first | (with_reducible first | assumption | apply State.foldl_ok | apply State.send_ok) | split | intro _

theorem State.joinOut_ok {s : State} (h : s.Ok) (f : Nat) (core : Nat) :
    (State.joinOut s f core).Ok := by
  unfold State.joinOut
  try dsimp only
  repeat' with_reducible first | assumption | apply State.modTile_ok

theorem State.restoreTiles_ok {s : State} (h : s.Ok) (f : Nat) (l : List Byte) : (s.restoreTiles f l).Ok := by
  unfold State.restoreTiles
  extract_lets cs s1 blocks
  have h1 : s1.Ok := State.foldl_ok _ (fun s c hs => State.joinOut_ok (State.readTile_ok hs _ _ _) _ _) h
  clear_value s1
  exact State.modField_ok (State.joinSends_ok (State.joinVout_ok h1 _ _) _) _ _

theorem State.restoreLoad_ok {s : State} (h : s.Ok) (f : Nat) (hd : List Byte) (im : Image) (bytes : List Byte) :
    (s.restoreLoad f hd im bytes).Ok := State.modField_ok (State.loadWhole_ok h _ _ _ _ _ _ _ _) _ _

theorem State.restoreImage_ok {s t : State} (h : s.Ok) (f : Nat) (hd l : List Byte) (ht : s.restoreImage f hd l = .ok t) : t.Ok := by
  unfold State.restoreImage at ht
  split at ht
  · cases ht
  split at ht
  · cases ht
  extract_lets bytes at ht
  split at ht
  · cases ht
  · next hg =>
    cases ht
    exact State.restoreTiles_ok (State.readGranules_ok (State.restoreLoad_ok h _ _ _ _) _ _ _ hg) _ _

theorem State.restoreRead_ok {s t : State} (h : s.Ok) (f : Nat) (hd : List Byte) (o : Option (List Byte))
    (ht : s.restoreRead f hd o = .ok t) : t.Ok := by
  unfold State.restoreRead at ht
  split at ht
  · cases ht
  · exact State.restoreImage_ok h _ _ _ ht

theorem State.restoreHeader_ok {s t : State} (h : s.Ok) (f : Nat) (o : Option (List Byte)) (ht : s.restoreHeader f o = .ok t) : t.Ok := by
  unfold State.restoreHeader at ht
  split at ht
  · cases ht
  split at ht
  · cases ht
  split at ht
  · cases ht
  · exact State.restoreRead_ok h _ _ _ ht

theorem State.restoreField_ok {s t : State} (h : s.Ok) (f : Nat) (ht : s.restoreField f = .ok t) : t.Ok :=
  State.restoreHeader_ok h _ _ ht

theorem State.restoreReads_ok {s : State} (h : s.Ok) (f : Nat) :
    (State.restoreReads s f).Ok := by
  unfold State.restoreReads
  try dsimp only
  repeat' first | (with_reducible first | assumption | apply State.ite_ok | apply State.noteDva_ok) | split

theorem State.restoreOn_ok {s : State} (h : s.Ok) (die num : Nat) : (s.restoreOn die num).Ok := by
  unfold State.restoreOn
  dsimp only
  split
  · exact State.fctlDone_ok h _ _ _
  split
  · exact State.fctlDone_ok h _ _ _
  split
  · exact State.fctlBusy_ok (State.askLines_ok h _) _ _
  · apply State.dropLines_ok
    split
    · next he => exact State.fctlDone_ok (State.restoreField_ok (State.restoreReads_ok h _) _ he) _ _ _
    · exact State.fctlDone_ok (State.restoreReads_ok h _) _ _ _

theorem State.tearField_ok {s : State} (h : s.Ok) (f : Nat) :
    (State.tearField s f).Ok := by
  unfold State.tearField
  try dsimp only
  repeat' first | (with_reducible first | assumption | apply State.completeAll_ok | apply State.unloadField_ok) | split

theorem State.onFrozen_ok {s : State} (h : s.Ok) (die op num : Nat) (g : Nat → State → State) (hg : ∀ f s, State.Ok s → (g f s).Ok) :
    (s.onFrozen die op num g).Ok := by
  unfold State.onFrozen
  dsimp only
  split
  · exact State.fctlDone_ok h _ _ _
  split
  · exact State.fctlDone_ok h _ _ _
  · exact State.fctlDone_ok (hg _ _ h) _ _ _

theorem State.onField_ok {s : State} (h : s.Ok) (die op num : Nat) (g : Nat → State → State) (hg : ∀ f s, State.Ok s → (g f s).Ok) :
    (s.onField die op num g).Ok := by
  unfold State.onField
  dsimp only
  split
  · exact State.fctlDone_ok h _ _ _
  · exact State.fctlDone_ok (hg _ _ h) _ _ _

theorem State.attachField_ok {s : State} (h : s.Ok) (f : Nat) :
    (State.attachField f s).Ok := by
  unfold State.attachField
  try dsimp only
  repeat' with_reducible first | assumption | apply State.modField_ok

theorem State.detachField_ok {s : State} (h : s.Ok) (f : Nat) :
    (State.detachField f s).Ok := by
  unfold State.detachField
  try dsimp only
  repeat' with_reducible first | assumption | apply State.modField_ok

theorem State.armField_ok {s : State} (h : s.Ok) (f : Nat) :
    (State.armField f s).Ok := by
  unfold State.armField
  try dsimp only
  repeat' with_reducible first | assumption | apply State.modField_ok

theorem State.disarmField_ok {s : State} (h : s.Ok) (f : Nat) :
    (State.disarmField f s).Ok := by
  unfold State.disarmField
  try dsimp only
  repeat' with_reducible first | assumption | apply State.ite_ok | apply State.releaseWave_ok | apply State.modField_ok

theorem State.fctlOp_ok {s : State} (h : s.Ok) (die op num : Nat) : (s.fctlOp die op num).Ok := by
  unfold State.fctlOp
  extract_lets s1
  have h1 : s1.Ok := State.modDie_ok h _ _
  clear_value s1
  split
  · exact State.startFreeze_ok h1 _ _ _
  · exact State.startFreeze_ok h1 _ _ _
  · exact State.resumeOn_ok h1 _ _
  · exact State.restoreOn_ok h1 _ _
  · exact State.onFrozen_ok h1 _ _ _ _ fun _ _ hs => State.tearField_ok hs _
  · exact State.onFrozen_ok h1 _ _ _ _ fun _ _ hs => State.attachField_ok hs _
  · exact State.onFrozen_ok h1 _ _ _ _ fun _ _ hs => State.detachField_ok hs _
  · exact State.onField_ok h1 _ _ _ _ fun _ _ hs => State.armField_ok hs _
  · exact State.onField_ok h1 _ _ _ _ fun _ _ hs => State.disarmField_ok hs _

theorem State.fctl_ok {s : State} (h : s.Ok) (die : Nat) (v : Nat) :
    (State.fctl s die v).Ok := by
  unfold State.fctl
  try dsimp only
  repeat' with_reducible first | assumption | apply State.ite_ok | apply State.fctlOp_ok

theorem State.fctlEvent_ok {s : State} (h : s.Ok) (die : Nat) (op : Nat) (num : Nat) :
    (State.fctlEvent s die op num).Ok := by
  unfold State.fctlEvent
  try dsimp only
  repeat' first
    | with_reducible first
        | assumption | apply State.ite_ok | apply State.freezeOn_ok | apply State.resumeOn_ok | apply State.restoreOn_ok
        | apply State.fctl_ok
    | split

theorem execPreempt_ok {s : State} (h : s.Ok) (die : Nat) (fld : Nat) :
    OutOk (execPreempt die fld s) := by
  unfold execPreempt
  try dsimp only
  repeat' with_reducible first | assumption | apply next_ok | apply State.fctlEvent_ok

theorem execEvict_ok {s : State} (h : s.Ok) (die : Nat) (fld : Nat) :
    OutOk (execEvict die fld s) := by
  unfold execEvict
  try dsimp only
  repeat' with_reducible first | assumption | apply next_ok | apply State.fctlEvent_ok

theorem execResume_ok {s : State} (h : s.Ok) (die : Nat) (fld : Nat) :
    OutOk (execResume die fld s) := by
  unfold execResume
  try dsimp only
  repeat' with_reducible first | assumption | apply next_ok | apply State.fctlEvent_ok

theorem execRestore_ok {s : State} (h : s.Ok) (die : Nat) (fld : Nat) :
    OutOk (execRestore die fld s) := by
  unfold execRestore
  try dsimp only
  repeat' with_reducible first | assumption | apply next_ok | apply State.fctlEvent_ok

theorem execTeardown_ok {s : State} (h : s.Ok) (die : Nat) (fld : Nat) :
    OutOk (execTeardown die fld s) := by
  unfold execTeardown
  try dsimp only
  repeat' with_reducible first | assumption | apply next_ok | apply State.fctl_ok

theorem execAttach_ok {s : State} (h : s.Ok) (die : Nat) (fld : Nat) :
    OutOk (execAttach die fld s) := by
  unfold execAttach
  try dsimp only
  repeat' with_reducible first | assumption | apply next_ok | apply State.fctl_ok

theorem execDetach_ok {s : State} (h : s.Ok) (die : Nat) (fld : Nat) :
    OutOk (execDetach die fld s) := by
  unfold execDetach
  try dsimp only
  repeat' with_reducible first | assumption | apply next_ok | apply State.fctl_ok

theorem execArm_ok {s : State} (h : s.Ok) (die : Nat) (fld : Nat) :
    OutOk (execArm die fld s) := by
  unfold execArm
  try dsimp only
  repeat' with_reducible first | assumption | apply next_ok | apply State.fctl_ok

theorem execDisarm_ok {s : State} (h : s.Ok) (die : Nat) (fld : Nat) :
    OutOk (execDisarm die fld s) := by
  unfold execDisarm
  try dsimp only
  repeat' with_reducible first | assumption | apply next_ok | apply State.fctl_ok

theorem State.fieldRec_ok {s : State} (h : s.Ok) (f : Nat) (kind : Nat) :
    (State.fieldRec s f kind).Ok := by
  unfold State.fieldRec
  try dsimp only
  repeat' with_reducible first | assumption | apply State.pushRec_ok

theorem execDumpLimitExpiry_ok {s : State} (h : s.Ok) (f : Nat) :
    OutOk (execDumpLimitExpiry f s) := by
  unfold execDumpLimitExpiry
  try dsimp only
  repeat' with_reducible first | assumption | apply State.ite_ok | apply next_ok | apply State.tearField_ok | apply State.fieldRec_ok

theorem State.debugStop_ok {s : State} (h : s.Ok) (f : Nat) :
    (State.debugStop s f).Ok := by
  unfold State.debugStop
  try dsimp only
  repeat' first
    | with_reducible first
        | assumption | apply State.ite_ok | apply State.modField_ok | apply State.traceEvent_ok
        | apply State.freezeInPlace_ok | apply State.fieldRec_ok
    | split

theorem execDebugStop_ok {s : State} (h : s.Ok) (f : Nat) :
    OutOk (execDebugStop f s) := by
  unfold execDebugStop
  try dsimp only
  repeat' with_reducible first | assumption | apply next_ok | apply State.debugStop_ok

theorem State.strctl_ok {s : State} (h : s.Ok) (die : Nat) (v : Nat) :
    (State.strctl s die v).Ok := by
  unfold State.strctl
  try dsimp only
  repeat' first
    | with_reducible first
        | assumption | apply State.foldl_ok | apply State.ite_ok | apply State.modEntry_ok | apply State.landFault_ok
        | apply State.landAll_ok | apply State.killCmd_ok | apply State.modCmd_ok
    | split
    | intro _

theorem execStrctlResume_ok {s : State} (h : s.Ok) (die : Nat) (v : Nat) :
    OutOk (execStrctlResume die v s) := by
  unfold execStrctlResume
  try dsimp only
  repeat' with_reducible first | assumption | apply next_ok | apply State.strctl_ok

theorem execStrctlKill_ok {s : State} (h : s.Ok) (die : Nat) (v : Nat) :
    OutOk (execStrctlKill die v s) := by
  unfold execStrctlKill
  try dsimp only
  repeat' with_reducible first | assumption | apply next_ok | apply State.strctl_ok

theorem State.dwWrite_ok {s : State} (h : s.Ok) (die : Nat) (sel : Nat) (v : Nat) (l : List Byte) :
    (State.dwWrite s die sel v l).Ok := by
  unfold State.dwWrite
  try dsimp only
  repeat' first
    | with_reducible first
        | assumption | apply State.ite_ok | apply Task.readParts_gate | apply State.modTask_ok | apply State.modCell_ok
    | split
    | intro _

theorem State.dwAccess_ok {s : State} (h : s.Ok) (die : Nat) (wr : Option Nat) :
    (State.dwAccess s die wr).2.Ok := by
  unfold State.dwAccess
  try dsimp only
  repeat' first | (with_reducible first | assumption | apply State.modDie_ok | apply State.dwWrite_ok) | split

theorem execDwdataAccess_ok {s : State} (h : s.Ok) (die : Nat) (wr : Option Nat) :
    OutOk (execDwdataAccess die wr s) := by
  unfold execDwdataAccess
  try dsimp only
  repeat' with_reducible first | assumption | apply next_ok | apply State.dwAccess_ok

theorem State.migrelh_ok {s : State} (h : s.Ok) (die : Nat) (v : Nat) :
    (State.migrelh s die v).Ok := by
  unfold State.migrelh
  try dsimp only
  repeat' with_reducible first | assumption | apply State.releasePage_ok

theorem execMigrelh_ok {s : State} (h : s.Ok) (die : Nat) (v : Nat) :
    OutOk (execMigrelh die v s) := by
  unfold execMigrelh
  try dsimp only
  repeat' with_reducible first | assumption | apply next_ok | apply State.migrelh_ok

end Sys2Proof.Machine
end

