-- ==== Sys2Proof/Laws/OkPackage.lean ====
section
/-! SUPPORT. The operations of Machine/Package.lean keep what Laws/Ok.lean names. -/

namespace Sys2Proof.Machine

theorem State.Ok.withPkg {s : State} (h : s.Ok) (p : Pkg) : ({ s with pkg := p } : State).Ok := { h with }

theorem bootTask_gate (c : Nat) : (bootTask c).Gate := Task.gate_default

theorem State.bootCore_ok {s : State} (h : s.Ok) (die n : Nat) : (s.bootCore die n).Ok := by
  unfold State.bootCore
  exact State.foldl_ok _ (fun s c hs => State.modTask_ok hs _ fun _ _ => bootTask_gate _) (State.modTile_ok h _ _)

theorem State.bootDie_ok {s : State} (h : s.Ok) (l : List Byte) (die : Nat) :
    (State.bootDie s l die).Ok := by
  unfold State.bootDie
  try dsimp only
  repeat' with_reducible first | assumption | apply State.writeQuiet_ok | apply State.bootCore_ok

theorem State.bootWith_ok {s : State} (h : s.Ok) (slot : Nat) (l : List Byte) : (s.bootWith slot l).Ok := by
  unfold State.bootWith
  apply State.Ok.withPkg
  exact State.foldl_ok _ (fun s d hs => State.bootDie_ok hs _ _) h

theorem State.powerCycle_ok {s : State} (h : s.Ok) : s.powerCycle.Ok where
  mem := Sparse.wf_filter h.mem _
  tasks := rfl
  tiles := rfl
  cells := rfl
  cmds := rfl
  locks := rfl
  fields := rfl
  dies := rfl
  gates := fun _ hx => nomatch hx
  gate := SliceFile.gate_one

theorem State.bootSlots_ok {s : State} (h : s.Ok) (a b : Option (List Byte)) : (s.bootSlots a b).Ok := by
  unfold State.bootSlots
  split
  · exact State.bootWith_ok h _ _
  · exact State.bootWith_ok h _ _
  · exact State.Ok.withPkg h _

theorem State.powerOn_ok {s : State} (h : s.Ok) : s.powerOn.Ok := State.bootSlots_ok (State.powerCycle_ok h) _ _

theorem execPowerOn_ok {s : State} (h : s.Ok) :
    OutOk (execPowerOn s) := by
  unfold execPowerOn
  try dsimp only
  repeat' with_reducible first | assumption | apply next_ok | apply State.powerOn_ok

theorem State.readyDie_ok {s : State} (h : s.Ok) (die : Nat) :
    (State.readyDie s die).Ok := by
  unfold State.readyDie
  try dsimp only
  repeat' first
    | with_reducible first
        | assumption | apply State.ite_ok | apply State.modDie_ok | apply State.Ok.of | apply State.Ok.mem
        | apply State.Ok.tasks | apply State.Ok.tiles | apply State.Ok.cells | apply State.Ok.cmds | apply State.Ok.locks
        | apply State.Ok.fields | apply State.Ok.dies | apply State.Ok.gates | apply State.Ok.gate

theorem State.haltPkg_ok {s : State} (h : s.Ok) :
    (State.haltPkg s).Ok := by
  unfold State.haltPkg
  try dsimp only
  repeat' first
    | with_reducible first
        | assumption | apply State.Ok.of | apply State.Ok.mem | apply State.Ok.tasks | apply State.Ok.tiles
        | apply State.Ok.cells | apply State.Ok.cmds | apply State.Ok.locks | apply State.Ok.fields | apply State.Ok.dies
        | apply State.Ok.gates | apply State.Ok.gate

theorem State.pkgctl_ok {s : State} (h : s.Ok) (die : Nat) (v : Nat) :
    (State.pkgctl s die v).Ok := by
  unfold State.pkgctl
  try dsimp only
  repeat' with_reducible first | assumption | apply State.ite_ok | apply State.readyDie_ok | apply State.haltPkg_ok

theorem execReady_ok {s : State} (h : s.Ok) (die : Nat) :
    OutOk (execReady die s) := by
  unfold execReady
  try dsimp only
  repeat' with_reducible first | assumption | apply next_ok | apply State.pkgctl_ok

theorem execHalt_ok {s : State} (h : s.Ok) (die : Nat) :
    OutOk (execHalt die s) := by
  unfold execHalt
  try dsimp only
  repeat' with_reducible first | assumption | apply next_ok | apply State.pkgctl_ok

theorem State.attreq_ok {s : State} (h : s.Ok) (die : Nat) (a : Nat) :
    (State.attreq s die a).Ok := by
  unfold State.attreq
  try dsimp only
  repeat' with_reducible first | assumption | apply State.modDie_ok

theorem execAttreq_ok {s : State} (h : s.Ok) (die : Nat) (a : Nat) :
    OutOk (execAttreq die a s) := by
  unfold execAttreq
  try dsimp only
  repeat' with_reducible first | assumption | apply next_ok | apply State.attreq_ok

theorem State.attDone_ok {s : State} (h : s.Ok) (die : Nat) :
    (State.attDone s die).Ok := by
  unfold State.attDone
  try dsimp only
  repeat' first
    | with_reducible first
        | assumption | apply State.ite_ok | apply State.modDie_ok | apply State.write_ok | apply State.Ok.of
        | apply State.Ok.mem | apply State.Ok.tasks | apply State.Ok.tiles | apply State.Ok.cells | apply State.Ok.cmds
        | apply State.Ok.locks | apply State.Ok.fields | apply State.Ok.dies | apply State.Ok.gates | apply State.Ok.gate

theorem execAttestationComplete_ok {s : State} (h : s.Ok) (die : Nat) :
    OutOk (execAttestationComplete die s) := by
  unfold execAttestationComplete
  try dsimp only
  repeat' with_reducible first | assumption | apply next_ok | apply State.attDone_ok

theorem State.stepFields_ok {s : State} (h : s.Ok) (p : Nat → Field → Bool) (g : Field → Nat) :
    (State.stepFields s p g).Ok := by
  unfold State.stepFields
  try dsimp only
  repeat' first
    | with_reducible first
        | assumption | apply State.Ok.of | apply Sparse.wf_mapAll | apply State.Ok.mem | apply State.Ok.tasks
        | apply State.Ok.tiles | apply State.Ok.cells | apply State.Ok.cmds | apply State.Ok.locks | apply State.Ok.fields
        | apply State.Ok.dies | apply State.Ok.gates | apply State.Ok.gate

theorem State.stepsel_ok {s : State} (h : s.Ok) (die : Nat) (v : Nat) :
    (State.stepsel s die v).Ok := by
  unfold State.stepsel
  try dsimp only
  repeat' with_reducible first | assumption | apply State.modField_ok | apply State.modDie_ok

theorem execStepselCeiling_ok {s : State} (h : s.Ok) (die : Nat) (v : Nat) :
    OutOk (execStepselCeiling die v s) := by
  unfold execStepselCeiling
  try dsimp only
  repeat' with_reducible first | assumption | apply next_ok | apply State.stepsel_ok

theorem State.hotter_ok {s : State} (h : s.Ok) (t : Nat) :
    (State.hotter s t).Ok := by
  unfold State.hotter
  try dsimp only
  repeat' first
    | with_reducible first
        | assumption | apply State.Ok.of | apply State.Ok.mem | apply State.Ok.tasks | apply State.Ok.tiles
        | apply State.Ok.cells | apply State.Ok.cmds | apply State.Ok.locks | apply State.Ok.fields | apply State.Ok.dies
        | apply State.Ok.gates | apply State.Ok.gate

theorem execJunction100C_ok {s : State} (h : s.Ok) (die : Nat) :
    OutOk (execJunction100C die s) := by
  unfold execJunction100C
  try dsimp only
  repeat' with_reducible first | assumption | apply next_ok | apply State.stepFields_ok | apply State.hotter_ok

theorem State.powerCap_ok {s : State} (h : s.Ok) :
    (State.powerCap s).Ok := by
  unfold State.powerCap
  try dsimp only
  repeat' first
    | with_reducible first
        | assumption | apply State.stepFields_ok
    | split
    | with_reducible first
        | apply State.Ok.of | apply State.Ok.mem | apply State.Ok.tasks | apply State.Ok.tiles | apply State.Ok.cells
        | apply State.Ok.cmds | apply State.Ok.locks | apply State.Ok.fields | apply State.Ok.dies | apply State.Ok.gates
        | apply State.Ok.gate

theorem execPowerCapExceeded_ok {s : State} (h : s.Ok) :
    OutOk (execPowerCapExceeded s) := by
  unfold execPowerCapExceeded
  try dsimp only
  repeat' with_reducible first | assumption | apply next_ok | apply State.powerCap_ok

theorem execStepRecovery_ok {s : State} (h : s.Ok) :
    OutOk (execStepRecovery s) := by
  unfold execStepRecovery
  try dsimp only
  repeat' with_reducible first | assumption | apply next_ok | apply State.stepFields_ok

theorem State.freezeLive_ok {s : State} (h : s.Ok) :
    (State.freezeLive s).Ok := by
  unfold State.freezeLive
  try dsimp only
  repeat' first | (with_reducible first | assumption | apply State.foldl_ok | apply State.fieldFault_ok) | intro _

theorem execJunction110C_ok {s : State} (h : s.Ok) :
    OutOk (execJunction110C s) := by
  unfold execJunction110C
  try dsimp only
  repeat' with_reducible first | assumption | apply next_ok | apply State.haltPkg_ok | apply State.hotter_ok | apply State.freezeLive_ok

theorem execPcieLinkDown_ok {s : State} (h : s.Ok) :
    OutOk (execPcieLinkDown s) := by
  unfold execPcieLinkDown
  try dsimp only
  repeat' first
    | with_reducible first
        | assumption | apply next_ok | apply State.freezeLive_ok | apply State.Ok.of | apply State.Ok.mem
        | apply State.Ok.tasks | apply State.Ok.tiles | apply State.Ok.cells | apply State.Ok.cmds | apply State.Ok.locks
        | apply State.Ok.fields | apply State.Ok.dies | apply State.Ok.gates | apply State.Ok.gate

theorem execPcieLinkRetrain_ok {s : State} (h : s.Ok) :
    OutOk (execPcieLinkRetrain s) := by
  unfold execPcieLinkRetrain
  try dsimp only
  repeat' first
    | with_reducible first
        | assumption | apply next_ok | apply State.Ok.of | apply State.Ok.mem | apply State.Ok.tasks | apply State.Ok.tiles
        | apply State.Ok.cells | apply State.Ok.cmds | apply State.Ok.locks | apply State.Ok.fields | apply State.Ok.dies
        | apply State.Ok.gates | apply State.Ok.gate

end Sys2Proof.Machine
end

