-- ==== Sys2Proof/Laws/OkSys.lean ====
section
/-! SUPPORT. The operations of Machine/Sys.lean keep what Laws/Ok.lean names. -/

namespace Sys2Proof.Machine

theorem State.sysRead_ok {s : State} (h : s.Ok) (r : Nat) :
    (State.sysRead s r).2.Ok := by
  unfold State.sysRead
  try dsimp only
  repeat' first
    | with_reducible first
        | assumption | apply State.dwAccess_ok | apply State.modTask_ok
    | split
    | with_reducible apply State.Ok.of
    | (with_reducible refine Task.Gate.upd rfl ?_; dsimp only)
    | with_reducible first
        | apply State.Ok.mem | apply State.Ok.tasks | apply State.Ok.tiles | apply State.Ok.cells | apply State.Ok.cmds
        | apply State.Ok.locks | apply State.Ok.fields | apply State.Ok.dies | apply State.Ok.gates | apply State.Ok.gate
        | apply Task.Gate.toSf
    | intro _

theorem execMfs_ok {s : State} (h : s.Ok) (c : Ctl) (d : Nat) (r : Nat) :
    OutOk (execMfs c d r s) := by
  unfold execMfs
  try dsimp only
  repeat' first
    | with_reducible first
        | assumption | apply slot_ok | apply slotPriv_ok | apply State.returnNow_ok | apply State.sysRead_ok
    | split
    | intro _

theorem execCycleRead_ok {s : State} (h : s.Ok) (tk : Nat) :
    OutOk (execCycleRead tk s) := by
  unfold execCycleRead
  try dsimp only
  repeat' first
    | with_reducible first
        | assumption | apply next_ok | apply State.modTask_ok
    | (with_reducible refine Task.Gate.upd rfl ?_; dsimp only)
    | with_reducible apply Task.Gate.toSf
    | intro _

theorem State.modPkg_ok {s : State} (h : s.Ok) (g : Pkg → Pkg) :
    (State.modPkg s g).Ok := by
  unfold State.modPkg
  try dsimp only
  repeat' first
    | with_reducible first
        | assumption | apply State.Ok.of | apply State.Ok.mem | apply State.Ok.tasks | apply State.Ok.tiles
        | apply State.Ok.cells | apply State.Ok.cmds | apply State.Ok.locks | apply State.Ok.fields | apply State.Ok.dies
        | apply State.Ok.gates | apply State.Ok.gate

theorem State.mgmtWrite_ok {s : State} (h : s.Ok) (die : Nat) (r : Nat) (v : Nat) :
    (State.mgmtWrite s die r v).Ok := by
  unfold State.mgmtWrite
  try dsimp only
  repeat' first
    | with_reducible first
        | assumption | apply State.ite_ok | apply State.fctl_ok | apply State.strctl_ok | apply State.dwAccess_ok
        | apply State.migrelh_ok | apply State.modField_ok | apply State.modDie_ok | apply State.modPkg_ok
    | split

theorem State.pkgWrite_ok {s : State} (h : s.Ok) (die : Nat) (r : Nat) (v : Nat) :
    (State.pkgWrite s die r v).Ok := by
  unfold State.pkgWrite
  try dsimp only
  repeat' first
    | with_reducible first
        | assumption | apply State.pkgctl_ok | apply State.attreq_ok | apply State.stepsel_ok | apply State.modPkg_ok
    | split

theorem State.sysWrite_ok {s : State} (h : s.Ok) (r : Nat) (v : Nat) :
    (State.sysWrite s r v).Ok := by
  unfold State.sysWrite
  try dsimp only
  repeat' first
    | with_reducible first
        | assumption | apply State.ite_ok | apply State.modTask_ok | apply State.modTile_ok | apply State.mgmtWrite_ok
        | apply State.pkgWrite_ok
    | (with_reducible refine Task.Gate.upd rfl ?_; dsimp only)
    | with_reducible apply Task.Gate.toSf
    | intro _

theorem execMts_ok {s : State} (h : s.Ok) (c : Ctl) (r : Nat) (sl : Nat) :
    OutOk (execMts c r sl s) := by
  unfold execMts
  try dsimp only
  repeat' first
    | with_reducible first
        | assumption | apply slotOr_ok | apply slotPriv_ok | apply State.modTask_ok | apply State.sysWrite_ok
    | split
    | (with_reducible refine Task.Gate.upd rfl ?_; dsimp only)
    | with_reducible apply Task.Gate.toSf
    | intro _

end Sys2Proof.Machine
end

