-- ==== Sys2Proof/Laws/OkHost.lean ====
section
/-! SUPPORT. The operations of Machine/Host.lean keep what Laws/Ok.lean names. -/

namespace Sys2Proof.Machine

theorem State.putDesc_getD_ok {s t : State} (h : s.Ok) (ht : t.Ok) (q o n v : Nat) : ((s.putDesc q o n v).getD t).Ok := by
  cases hp : s.putDesc q o n v with
  | none => exact ht
  | some u => exact State.writeDva_ok h hp

theorem State.modIntake_ok {s : State} (h : s.Ok) (g : Intake → Intake) :
    (State.modIntake s g).Ok := by
  unfold State.modIntake
  try dsimp only
  repeat' first
    | with_reducible first
        | assumption | apply State.Ok.of | apply State.Ok.mem | apply State.Ok.tasks | apply State.Ok.tiles
        | apply State.Ok.cells | apply State.Ok.cmds | apply State.Ok.locks | apply State.Ok.fields | apply State.Ok.dies
        | apply State.Ok.gates | apply State.Ok.gate

theorem State.modSlot_ok {s : State} (h : s.Ok) (i : Nat) (g : Slot → Slot) :
    (State.modSlot s i g).Ok := by
  unfold State.modSlot
  try dsimp only
  repeat' with_reducible first | assumption | apply State.modIntake_ok

theorem State.putDesc_ok {s t : State} (h : s.Ok) {q o n v : Nat} (ht : s.putDesc q o n v = some t) : t.Ok := State.writeDva_ok h ht

theorem State.badNotify_ok {s : State} (h : s.Ok) :
    (State.badNotify s).Ok := by
  unfold State.badNotify
  try dsimp only
  repeat' with_reducible first | assumption | apply State.modIntake_ok

theorem State.notifyNow_ok {s : State} (h : s.Ok) (v : Nat) : (s.notifyNow v).Ok := by
  unfold State.notifyNow
  dsimp only
  have hb : s.badNotify.Ok := State.badNotify_ok h
  split
  · exact hb
  split <;> split
  · exact hb
  · exact State.modSlot_ok h _ _
  · exact hb
  · exact State.putDesc_getD_ok h hb _ _ _ _

theorem State.notify_ok {s : State} (h : s.Ok) (v : Nat) : (s.notify v).Ok :=
  State.ite_ok (State.badNotify_ok h) (State.withLines_ok h _ fun _ ht => State.notifyNow_ok (State.noteDva_ok ht _ _) _)

theorem execNotify_ok {s : State} (h : s.Ok) (slot : Nat) (v : Nat) :
    OutOk (execNotify slot v s) := by
  unfold execNotify
  try dsimp only
  repeat' with_reducible first | assumption | apply State.ite_ok | apply next_ok | apply State.notify_ok

theorem State.mapQueue_ok {s : State} (h : s.Ok) (q : Nat) (slot : Nat) :
    (State.mapQueue s q slot).Ok := by
  unfold State.mapQueue
  try dsimp only
  repeat' first | (with_reducible first | assumption | apply State.noteDva_ok | apply State.modSlot_ok) | split

theorem execQueueMap_ok {s : State} (h : s.Ok) (q : Nat) (slot : Nat) :
    OutOk (execQueueMap q slot s) := by
  unfold execQueueMap
  try dsimp only
  repeat' first
    | with_reducible first
        | assumption | apply State.ite_ok | apply next_ok | apply State.withLines_ok | apply State.mapQueue_ok
    | intro _

theorem State.unmapQueue_ok {s : State} (h : s.Ok) (slot : Nat) : (s.unmapQueue slot).Ok := by
  unfold State.unmapQueue
  dsimp only
  split
  · split
    · next hp => exact State.modSlot_ok (State.putDesc_ok h hp) _ _
    · exact h
  · exact h

theorem execQueueUnmap_ok {s : State} (h : s.Ok) (slot : Nat) :
    OutOk (execQueueUnmap slot s) := by
  unfold execQueueUnmap
  try dsimp only
  repeat' with_reducible first | assumption | apply next_ok | apply State.unmapQueue_ok

theorem State.apLeaf_ok {s : State} (h : s.Ok) (a : Nat) :
    (State.apLeaf s a).2.Ok := by
  unfold State.apLeaf
  try dsimp only
  repeat' first
    | with_reducible first
        | assumption | apply State.noteWalk_ok
    | split
    | with_reducible first
        | apply State.Ok.of | apply State.Ok.mem | apply State.Ok.tasks | apply State.Ok.tiles | apply State.Ok.cells
        | apply State.Ok.cmds | apply State.Ok.locks | apply State.Ok.fields | apply State.Ok.dies | apply State.Ok.gates
        | apply State.Ok.gate

theorem State.apSpots_ok (wr : Bool) (n : Nat) : ∀ (a : Nat) {s : State}, s.Ok → (State.apSpots wr n a s).2.Ok := by
  induction n with
  | zero => exact fun a s h => h
  | succ n ih =>
    intro a s h
    unfold State.apSpots
    split
    · exact h
    · dsimp only
      have hl := State.apLeaf_ok h a
      split
      · exact hl
      · split
        · exact hl
        · exact ih _ hl

theorem State.apDrop_ok {s : State} (h : s.Ok) :
    (State.apDrop s).Ok := by
  unfold State.apDrop
  try dsimp only
  repeat' with_reducible first | assumption | apply State.modIntake_ok

theorem State.noteAp_ok {s : State} (h : s.Ok) (a : Nat) (n : Nat) :
    (State.noteAp s a n).Ok := by
  unfold State.noteAp
  try dsimp only
  repeat' first | (with_reducible first | assumption | apply State.foldl_ok | apply State.noteHops_ok) | split | intro _

theorem State.apWrite_ok {s : State} (h : s.Ok) (a : Nat) (l : List Byte) : (s.apWrite a l).Ok := by
  unfold State.apWrite
  extract_lets q r
  have hr : r.2.Ok := State.noteAp_ok (State.apSpots_ok _ _ _ h) _ _
  clear_value r
  split
  · exact State.apDrop_ok hr
  · dsimp only
    split
    · exact h
    · refine State.foldl_ok _ (fun s w hs => State.modCmd_ok (State.toPeer_ok hs _ _ _ _) _ _) (State.foldl_ok _ (fun s y hs => ?_) hr)
      split
      · exact State.write_ok hs _ _ _
      · exact hs

theorem State.apRead_ok {s : State} (h : s.Ok) (off a n : Nat) : (s.apRead off a n).Ok := by
  unfold State.apRead
  extract_lets ones q r
  have ho : ∀ s, State.Ok s → (ones s).Ok := fun s hs => { hs with }
  have hr : r.2.Ok := State.noteAp_ok (State.apSpots_ok _ _ _ h) _ _
  clear_value r ones
  split
  · exact ho _ (State.apDrop_ok hr)
  · split
    · exact State.askLine_ok hr _ _ _ _ _ _
    · exact ho _ (State.apDrop_ok hr)
    · extract_lets lines s1
      have h1 : s1.Ok := State.modCmd_ok (State.foldl_ok _ (fun s x hs => State.hbmRead_ok hs _ _) hr) _ _
      clear_value s1
      exact { h1 with }

theorem execHostApertureAccess_ok {s : State} (h : s.Ok) (off : Nat) (n : Nat) (wr : Option (List Byte)) :
    OutOk (execHostApertureAccess off n wr s) := by
  unfold execHostApertureAccess
  try dsimp only
  repeat' first | (with_reducible first | assumption | apply State.ite_ok | apply next_ok | apply State.apWrite_ok | apply State.apRead_ok) | split

theorem State.registerWrite_ok {s : State} (h : s.Ok) (off : Nat) (v : Nat) :
    (State.registerWrite s off v).Ok := by
  unfold State.registerWrite
  try dsimp only
  repeat' with_reducible first | assumption | apply State.ite_ok | apply State.regWrite_ok | apply State.modIntake_ok | apply State.notify_ok

theorem execRegisterWrite_ok {s : State} (h : s.Ok) (off : Nat) (v : Nat) :
    OutOk (execRegisterWrite off v s) := by
  unfold execRegisterWrite
  try dsimp only
  repeat' with_reducible first | assumption | apply next_ok | apply State.registerWrite_ok

theorem State.intakeTake_ok {s : State} (h : s.Ok) : s.intakeTake.Ok := by
  unfold State.intakeTake
  dsimp only
  split
  · exact h
  split
  · exact h
  split
  · exact h
  · have h0 := State.putDesc_getD_ok h h
    exact State.modIntake_ok (State.modSlot_ok (State.noteDva_ok (State.ite_ok (h0 _ _ _ _) (State.noteDva_ok (h0 _ _ _ _) _ _)) _ _) _ _) _

theorem execIntakeDecision_ok {s : State} (h : s.Ok) :
    OutOk (execIntakeDecision s) := by
  unfold execIntakeDecision
  try dsimp only
  repeat' with_reducible first | assumption | apply next_ok | apply State.withLines_ok | apply State.intakeTake_ok

theorem State.ageSlot_ok {s : State} (h : s.Ok) (slot : Nat) :
    (State.ageSlot s slot).Ok := by
  unfold State.ageSlot
  try dsimp only
  repeat' first | (with_reducible first | assumption | apply State.ite_ok | apply State.modSlot_ok) | split

theorem execIntakeAging_ok {s : State} (h : s.Ok) (slot : Nat) :
    OutOk (execIntakeAging slot s) := by
  unfold execIntakeAging
  try dsimp only
  repeat' with_reducible first | assumption | apply next_ok | apply State.ageSlot_ok

theorem State.rejectLaunch_ok {s : State} (h : s.Ok) (id : Nat) (die : Nat) (num : Nat) (ver : Nat) (reason : Nat) :
    (State.rejectLaunch s id die num ver reason).Ok := by
  unfold State.rejectLaunch
  try dsimp only
  repeat' with_reducible first | assumption | apply State.completeLaunch_ok | apply State.refuseRec_ok

theorem State.nameField_ok {s : State} (h : s.Ok) (id : Nat) (f : Nat) (st : LState) :
    (State.nameField s id f st).Ok := by
  unfold State.nameField
  try dsimp only
  repeat' with_reducible first | assumption | apply State.modLaunch_ok

theorem State.coldLaunch_ok {s : State} (h : s.Ok) (l : Launch) :
    (State.coldLaunch s l).Ok := by
  unfold State.coldLaunch
  try dsimp only
  repeat' first
    | with_reducible first
        | assumption | apply State.completeLaunch_ok | apply State.noteImageRead_ok | apply State.coldWave_ok
        | apply State.rejectLaunch_ok | apply State.nameField_ok
    | split

theorem State.reconfigure_ok {s : State} (h : s.Ok) (l : Launch) (f : Nat) :
    (State.reconfigure s l f).Ok := by
  unfold State.reconfigure
  try dsimp only
  repeat' first
    | with_reducible first
        | assumption | apply State.noteImageRead_ok | apply State.waveDue_ok | apply State.rejectLaunch_ok
        | apply State.nameField_ok
    | split

theorem State.launchReconfig_ok {s : State} (h : s.Ok) (l : Launch) (f : Nat) :
    (State.launchReconfig s l f).Ok := by
  unfold State.launchReconfig
  try dsimp only
  repeat' first
    | with_reducible first
        | assumption | apply State.ite_ok | apply State.askLines_ok | apply State.dropLines_ok | apply State.nameField_ok
        | apply State.reconfigure_ok

theorem State.launchStart_ok {s : State} (h : s.Ok) (id : Nat) :
    (State.launchStart s id).Ok := by
  unfold State.launchStart
  try dsimp only
  repeat' first
    | with_reducible first
        | assumption | apply State.ite_ok | apply State.completeLaunch_ok | apply State.withLines_ok
        | apply State.nameField_ok | apply State.coldLaunch_ok | apply State.launchReconfig_ok
    | split
    | intro _

theorem execLaunch_ok {s : State} (h : s.Ok) (id : Nat) :
    OutOk (execLaunch id s) := by
  unfold execLaunch
  try dsimp only
  repeat' with_reducible first | assumption | apply next_ok | apply State.launchStart_ok

theorem State.unloadLaunches_ok {s : State} (h : s.Ok) (id : Nat) (f : Nat) :
    (State.unloadLaunches s id f).Ok := by
  unfold State.unloadLaunches
  try dsimp only
  repeat' with_reducible first | assumption | apply State.ite_ok | apply State.completeAll_ok

theorem State.launchUnload_ok {s : State} (h : s.Ok) (id : Nat) :
    (State.launchUnload s id).Ok := by
  unfold State.launchUnload
  try dsimp only
  repeat' first
    | with_reducible first
        | assumption | apply State.ite_ok | apply State.completeLaunch_ok | apply State.unloadField_ok
        | apply State.nameField_ok | apply State.unloadLaunches_ok
    | split

theorem execUnload_ok {s : State} (h : s.Ok) (id : Nat) :
    OutOk (execUnload id s) := by
  unfold execUnload
  try dsimp only
  repeat' with_reducible first | assumption | apply next_ok | apply State.launchUnload_ok

theorem State.launchNop_ok {s : State} (h : s.Ok) (id : Nat) :
    (State.launchNop s id).Ok := by
  unfold State.launchNop
  try dsimp only
  repeat' first | (with_reducible first | assumption | apply State.ite_ok | apply State.completeLaunch_ok) | split

theorem execLaunchNop_ok {s : State} (h : s.Ok) (id : Nat) :
    OutOk (execLaunchNop id s) := by
  unfold execLaunchNop
  try dsimp only
  repeat' with_reducible first | assumption | apply next_ok | apply State.launchNop_ok

theorem State.seedDone_ok {s : State} (h : s.Ok) (l : Launch) :
    (State.seedDone s l).Ok := by
  unfold State.seedDone
  try dsimp only
  repeat' with_reducible first | assumption | apply State.modLaunch_ok

theorem State.seed_ok {s : State} (h : s.Ok) (id : Nat) :
    (State.seed s id).Ok := by
  unfold State.seed
  try dsimp only
  repeat' first
    | with_reducible first
        | assumption | apply State.ite_ok | apply State.discardWord_ok | apply State.portPut_ok | apply State.modLaunch_ok
        | apply State.vcPut_ok | apply State.seedDone_ok
    | split

theorem execSeedInject_ok {s : State} (h : s.Ok) (id : Nat) :
    OutOk (execSeedInject id s) := by
  unfold execSeedInject
  try dsimp only
  repeat' with_reducible first | assumption | apply next_ok | apply State.seed_ok

end Sys2Proof.Machine
end

