-- ==== Sys2Proof/Laws/OkIssue.lean ====
section
/-! SUPPORT. A core's cycle and the schedule keep what Laws/Ok.lean names, where the meanings of the instructions do. -/

namespace Sys2Proof.Machine

/-- A meaning keeps what Laws/Ok.lean names. -/
def Meaning.Ok (ex : Meaning) : Prop := ∀ i s, State.Ok s → OutOk (ex i s)

theorem sequencer_gate (a : Nat) (sf : SliceFile) (n : Nat) {t : Task} (h : t.Gate) : (sequencer a sf n t).1.Gate := by
  induction n generalizing t with
  | zero => exact h
  | succ n ih =>
    unfold sequencer
    extract_lets k v t1
    have h1 : t1.Gate := by
      dsimp only [t1]
      split <;> exact h
    clear_value t1
    split
    · exact h
    · split
      · exact h1
      · exact ih h1

theorem Task.afterBundle_gate {t : Task} (h : t.Gate) (i : Issue) : (t.afterBundle i).Gate := by
  unfold Task.afterBundle
  dsimp only
  split
  · exact h
  split
  · exact h
  split
  · exact h
  · exact sequencer_gate _ _ _ h

theorem State.finish_ok {s : State} (h : s.Ok) : s.finish.Ok := by
  unfold State.finish
  dsimp only
  apply State.takeAsyncs_ok
  have h0 : ({ s with issue := { s.issue with active := false } } : State).Ok := { h with gate := h.gate }
  apply State.modTask_ok h0
  intro t ht
  split
  · exact Task.afterBundle_gate ht _
  · exact Task.capture_gate (Task.afterBundle_gate ht _)

theorem finishOutcome_ok {o : Host.Outcome State Fault Refusal} (h : OutOk o) : OutOk (finishOutcome o) := by
  cases o with
  | next s => exact State.finish_ok h
  | fault f => trivial
  | refused r => trivial

theorem State.forSlot_ok {s : State} (h : s.Ok) (n : Nat) : (s.forSlot n).Ok := { h with gate := h.gate }

theorem runSlots_ok {ex : Meaning} (he : Meaning.Ok ex) (l : List (Nat × Instr)) {s : State} (h : s.Ok) : OutOk (runSlots ex l s) := by
  induction l generalizing s with
  | nil => exact h
  | cons x l ih =>
    obtain ⟨n, i⟩ := x
    unfold runSlots
    have h1 := he i _ (State.forSlot_ok h n)
    cases ho : ex i (s.forSlot n) with
    | next s1 => rw [ho] at h1; exact ih h1
    | fault f => trivial
    | refused r => trivial

theorem State.issued_ok {s : State} (h : s.Ok) (l : List Instr) : (s.issued l).Ok := by
  have h0 : ({ s with issue := { s.issue with active := true } } : State).Ok := { h with gate := h.gate }
  have h1 := State.modTask_ok h0 s.me fun _ hx => Task.countDown_gate hx
  unfold State.issued
  dsimp only
  split
  · exact h1.same rfl
  · exact h1

theorem runBundle_ok {ex : Meaning} (he : Meaning.Ok ex) {s : State} (h : s.Ok) (l : List Instr) : OutOk (runBundle ex s l) := by
  unfold runBundle
  cases s.bundleCause l with
  | some c => exact State.precise_ok h _ _
  | none => exact finishOutcome_ok (runSlots_ok he _ (State.issued_ok h l))

theorem State.issueState_ok {s : State} (h : s.Ok) (tk : Nat) : (s.issueState tk).Ok :=
  State.issueOf_ok (State.modTask_ok h _ fun _ => Task.landDue_gate) _ _ _

theorem issueTask_ok {ex : Meaning} (he : Meaning.Ok ex) (tk : Nat) {s : State} (h : s.Ok) : OutOk (issueTask ex tk s) := by
  unfold issueTask
  split
  · exact runBundle_ok he (State.issueState_ok h _) _
  · exact State.takeBad_ok h _

theorem State.fetchLines_ok {s : State} (h : s.Ok) (tk : Nat) : (s.fetchLines tk).Ok := State.modTask_ok h _ fun _ hx => hx

theorem State.sysWrites_ok {s : State} (h : s.Ok) (tk : Nat) : (s.sysWrites tk).Ok := by
  unfold State.sysWrites
  dsimp only
  split
  · exact h
  · refine State.foldl_ok _ (fun s x hs => ?_) (State.modTask_ok h _ fun _ hx => hx)
    apply State.sysWrite_ok
    exact { hs with gate := hs.gate }

theorem State.boundary_ok {s : State} (h : s.Ok) (tk : Nat) : (s.boundary tk).Ok := by
  unfold State.boundary
  dsimp only
  split
  · exact h
  · split
    · exact State.fetchLines_ok (State.takeAsyncs_ok (State.sysWrites_ok h _) _) _
    · exact State.takeAsyncs_ok (State.sysWrites_ok h _) _

theorem State.boundaries_ok {s : State} (h : s.Ok) (core : Nat) : (s.boundaries core).Ok :=
  State.foldl_ok _ (fun _ _ hs => State.boundary_ok hs _) h

theorem State.marks_ok {s : State} (h : s.Ok) (core : Nat) (l : List Nat) : (s.marks core l).Ok := by
  refine State.foldl_ok _ (fun s x hs => ?_) h
  apply State.modTask_ok hs
  exact fun t ht => ht

theorem State.countCycle_ok {s : State} (h : s.Ok) (core : Nat) : (s.countCycle core).Ok := State.modTile_ok h _ _

theorem State.taking_ok {s : State} (h : s.Ok) (core x : Nat) : (s.taking core x).Ok := State.modTile_ok h _ _

theorem coreTurn_ok {ex : Meaning} (he : Meaning.Ok ex) (core : Nat) {s : State} (h : s.Ok) : OutOk (coreTurn ex core s) := by
  unfold coreTurn
  dsimp only
  have h1 := State.marks_ok (State.boundaries_ok h core) core ((s.boundaries core).standing core .queue)
  split
  · exact h
  split
  · exact State.countCycle_ok h1 _
  · next x _ =>
    have h2 := issueTask_ok he (taskAt core x) (State.taking_ok h1 core x)
    split
    · next ht => rw [ht] at h2; exact State.countCycle_ok h2 _
    · exact h2

theorem State.flushGaps_ok {s : State} (h : s.Ok) : s.flushGaps.Ok := State.foldl_ok _ (fun _ _ hs => State.flushGap_ok hs _) h

theorem State.passCycles_ok {s : State} (h : s.Ok) (n : Nat) : (s.passCycles n).Ok := by
  unfold State.passCycles
  dsimp only
  apply State.flushGaps_ok
  refine State.foldl_ok _ (fun s c hs => State.modTile_ok hs _ _) ?_
  exact { h with locks := Sparse.wf_mapAll h.locks _, fields := Sparse.wf_mapAll h.fields _ }

theorem State.setLag_ok {s : State} (h : s.Ok) (tk : Nat) (b : Bool) : (s.setLag tk b).Ok := by
  have h1 : (s.modTask tk fun t => { t with lag := b }).Ok := State.modTask_ok h _ fun _ hx => hx
  unfold State.setLag
  dsimp only
  split
  · exact h1
  · exact State.drain_ok h1 _

theorem State.performTurn_ok {s : State} (h : s.Ok) (tk i : Nat) : (s.performTurn tk i).Ok :=
  State.ite_ok (State.performAt_ok h _ _) h

theorem State.pieceTurn_ok {s : State} (h : s.Ok) (tk i j : Nat) : (s.pieceTurn tk i j).Ok :=
  State.ite_ok (State.pieceAt_ok h _ _ _) h

theorem idleTurn_ok {ex : Meaning} (he : Meaning.Ok ex) {s : State} (h : s.Ok) : OutOk (idleTurn ex s) := by
  unfold idleTurn
  split
  · exact he _ _ h
  split
  · exact State.setLag_ok h _ _
  split
  · exact State.copyDone_ok h _ _
  · have h1 := coreTurn_ok he s.here h
    split
    · next ht => rw [ht] at h1; exact State.passCycles_ok h1 _
    · exact h1

theorem State.withAgenda_ok {s : State} (h : s.Ok) (l : List Turn) : ({ s with agenda := l } : State).Ok := { h with }

theorem stepWith_ok {ex : Meaning} (he : Meaning.Ok ex) {s : State} (h : s.Ok) : OutOk (stepWith ex s) := by
  unfold stepWith
  split
  · exact idleTurn_ok he h
  · split
    · exact coreTurn_ok he _ (State.withAgenda_ok h _)
    · trivial
  · split
    · exact State.withAgenda_ok h _
    · exact he _ _ (State.withAgenda_ok h _)
  · exact State.passCycles_ok (State.withAgenda_ok h _) _
  · exact State.copyDone_ok (State.withAgenda_ok h _) _ _
  · exact State.setLag_ok (State.withAgenda_ok h _) _ _
  · exact State.performTurn_ok (State.withAgenda_ok h _) _ _
  · exact State.pieceTurn_ok (State.withAgenda_ok h _) _ _ _

end Sys2Proof.Machine
end

