-- ==== Sys2Proof/Laws/State.lean ====
section
/-! SUPPORT. One lemma per field of the state per update, and what each table holds after an update of one of its entries. -/

namespace Sys2Proof.Machine

/-! ## modTask -/

@[simp] theorem State.modTask_mem (s : State) (k : Nat) (f : Task → Task) : (s.modTask k f).mem = s.mem := rfl
@[simp] theorem State.modTask_tiles (s : State) (k : Nat) (f : Task → Task) : (s.modTask k f).tiles = s.tiles := rfl
@[simp] theorem State.modTask_cells (s : State) (k : Nat) (f : Task → Task) : (s.modTask k f).cells = s.cells := rfl
@[simp] theorem State.modTask_cmds (s : State) (k : Nat) (f : Task → Task) : (s.modTask k f).cmds = s.cmds := rfl
@[simp] theorem State.modTask_locks (s : State) (k : Nat) (f : Task → Task) : (s.modTask k f).locks = s.locks := rfl
@[simp] theorem State.modTask_fields (s : State) (k : Nat) (f : Task → Task) : (s.modTask k f).fields = s.fields := rfl
@[simp] theorem State.modTask_dies (s : State) (k : Nat) (f : Task → Task) : (s.modTask k f).dies = s.dies := rfl
@[simp] theorem State.modTask_mesh (s : State) (k : Nat) (f : Task → Task) : (s.modTask k f).mesh = s.mesh := rfl
@[simp] theorem State.modTask_rx (s : State) (k : Nat) (f : Task → Task) : (s.modTask k f).rx = s.rx := rfl
@[simp] theorem State.modTask_intake (s : State) (k : Nat) (f : Task → Task) : (s.modTask k f).intake = s.intake := rfl
@[simp] theorem State.modTask_fab (s : State) (k : Nat) (f : Task → Task) : (s.modTask k f).fab = s.fab := rfl
@[simp] theorem State.modTask_pkg (s : State) (k : Nat) (f : Task → Task) : (s.modTask k f).pkg = s.pkg := rfl
@[simp] theorem State.modTask_health (s : State) (k : Nat) (f : Task → Task) : (s.modTask k f).health = s.health := rfl
@[simp] theorem State.modTask_cycle (s : State) (k : Nat) (f : Task → Task) : (s.modTask k f).cycle = s.cycle := rfl
@[simp] theorem State.modTask_agenda (s : State) (k : Nat) (f : Task → Task) : (s.modTask k f).agenda = s.agenda := rfl
@[simp] theorem State.modTask_here (s : State) (k : Nat) (f : Task → Task) : (s.modTask k f).here = s.here := rfl
@[simp] theorem State.modTask_issue (s : State) (k : Nat) (f : Task → Task) : (s.modTask k f).issue = s.issue := rfl
@[simp] theorem State.modTask_fresh (s : State) (k : Nat) (f : Task → Task) : (s.modTask k f).fresh = s.fresh := rfl
@[simp] theorem State.modTask_out (s : State) (k : Nat) (f : Task → Task) : (s.modTask k f).out = s.out := rfl
@[simp] theorem State.modTask_tile (s : State) (k : Nat) (f : Task → Task) (i : Nat) : (s.modTask k f).tile i = s.tile i := rfl
@[simp] theorem State.modTask_cell (s : State) (k : Nat) (f : Task → Task) (i : Nat) : (s.modTask k f).cell i = s.cell i := rfl
@[simp] theorem State.modTask_cmd (s : State) (k : Nat) (f : Task → Task) (i : Nat) : (s.modTask k f).cmd i = s.cmd i := rfl
@[simp] theorem State.modTask_lockBit (s : State) (k : Nat) (f : Task → Task) (i : Nat) : (s.modTask k f).lockBit i = s.lockBit i := rfl
@[simp] theorem State.modTask_field (s : State) (k : Nat) (f : Task → Task) (i : Nat) : (s.modTask k f).field i = s.field i := rfl
@[simp] theorem State.modTask_die (s : State) (k : Nat) (f : Task → Task) (i : Nat) : (s.modTask k f).die i = s.die i := rfl
@[simp] theorem State.modTask_me (s : State) (k : Nat) (f : Task → Task) : (s.modTask k f).me = s.me := rfl
@[simp] theorem State.modTask_myCore (s : State) (k : Nat) (f : Task → Task) : (s.modTask k f).myCore = s.myCore := rfl
theorem State.task_modTask {s : State} (h : Sparse.wf ({} : Task) s.tasks = true) (k i : Nat) (f : Task → Task) :
    (s.modTask k f).task i = if k = i then f (s.task k) else s.task i := Sparse.get_modify h k i f
theorem State.task_modTask_self {s : State} (h : Sparse.wf ({} : Task) s.tasks = true) (k : Nat) (f : Task → Task) :
    (s.modTask k f).task k = f (s.task k) := by rw [State.task_modTask h, if_pos rfl]
theorem State.task_modTask_ne {s : State} (h : Sparse.wf ({} : Task) s.tasks = true) {k i : Nat} (hi : i ≠ k) (f : Task → Task) :
    (s.modTask k f).task i = s.task i := by rw [State.task_modTask h, if_neg (Ne.symm hi)]

/-! ## modTile -/

@[simp] theorem State.modTile_mem (s : State) (k : Nat) (f : Tile → Tile) : (s.modTile k f).mem = s.mem := rfl
@[simp] theorem State.modTile_tasks (s : State) (k : Nat) (f : Tile → Tile) : (s.modTile k f).tasks = s.tasks := rfl
@[simp] theorem State.modTile_cells (s : State) (k : Nat) (f : Tile → Tile) : (s.modTile k f).cells = s.cells := rfl
@[simp] theorem State.modTile_cmds (s : State) (k : Nat) (f : Tile → Tile) : (s.modTile k f).cmds = s.cmds := rfl
@[simp] theorem State.modTile_locks (s : State) (k : Nat) (f : Tile → Tile) : (s.modTile k f).locks = s.locks := rfl
@[simp] theorem State.modTile_fields (s : State) (k : Nat) (f : Tile → Tile) : (s.modTile k f).fields = s.fields := rfl
@[simp] theorem State.modTile_dies (s : State) (k : Nat) (f : Tile → Tile) : (s.modTile k f).dies = s.dies := rfl
@[simp] theorem State.modTile_mesh (s : State) (k : Nat) (f : Tile → Tile) : (s.modTile k f).mesh = s.mesh := rfl
@[simp] theorem State.modTile_rx (s : State) (k : Nat) (f : Tile → Tile) : (s.modTile k f).rx = s.rx := rfl
@[simp] theorem State.modTile_intake (s : State) (k : Nat) (f : Tile → Tile) : (s.modTile k f).intake = s.intake := rfl
@[simp] theorem State.modTile_fab (s : State) (k : Nat) (f : Tile → Tile) : (s.modTile k f).fab = s.fab := rfl
@[simp] theorem State.modTile_pkg (s : State) (k : Nat) (f : Tile → Tile) : (s.modTile k f).pkg = s.pkg := rfl
@[simp] theorem State.modTile_health (s : State) (k : Nat) (f : Tile → Tile) : (s.modTile k f).health = s.health := rfl
@[simp] theorem State.modTile_cycle (s : State) (k : Nat) (f : Tile → Tile) : (s.modTile k f).cycle = s.cycle := rfl
@[simp] theorem State.modTile_agenda (s : State) (k : Nat) (f : Tile → Tile) : (s.modTile k f).agenda = s.agenda := rfl
@[simp] theorem State.modTile_here (s : State) (k : Nat) (f : Tile → Tile) : (s.modTile k f).here = s.here := rfl
@[simp] theorem State.modTile_issue (s : State) (k : Nat) (f : Tile → Tile) : (s.modTile k f).issue = s.issue := rfl
@[simp] theorem State.modTile_fresh (s : State) (k : Nat) (f : Tile → Tile) : (s.modTile k f).fresh = s.fresh := rfl
@[simp] theorem State.modTile_out (s : State) (k : Nat) (f : Tile → Tile) : (s.modTile k f).out = s.out := rfl
@[simp] theorem State.modTile_task (s : State) (k : Nat) (f : Tile → Tile) (i : Nat) : (s.modTile k f).task i = s.task i := rfl
@[simp] theorem State.modTile_cell (s : State) (k : Nat) (f : Tile → Tile) (i : Nat) : (s.modTile k f).cell i = s.cell i := rfl
@[simp] theorem State.modTile_cmd (s : State) (k : Nat) (f : Tile → Tile) (i : Nat) : (s.modTile k f).cmd i = s.cmd i := rfl
@[simp] theorem State.modTile_lockBit (s : State) (k : Nat) (f : Tile → Tile) (i : Nat) : (s.modTile k f).lockBit i = s.lockBit i := rfl
@[simp] theorem State.modTile_field (s : State) (k : Nat) (f : Tile → Tile) (i : Nat) : (s.modTile k f).field i = s.field i := rfl
@[simp] theorem State.modTile_die (s : State) (k : Nat) (f : Tile → Tile) (i : Nat) : (s.modTile k f).die i = s.die i := rfl
@[simp] theorem State.modTile_me (s : State) (k : Nat) (f : Tile → Tile) : (s.modTile k f).me = s.me := rfl
@[simp] theorem State.modTile_myCore (s : State) (k : Nat) (f : Tile → Tile) : (s.modTile k f).myCore = s.myCore := rfl
theorem State.tile_modTile {s : State} (h : Sparse.wf ({} : Tile) s.tiles = true) (k i : Nat) (f : Tile → Tile) :
    (s.modTile k f).tile i = if k = i then f (s.tile k) else s.tile i := Sparse.get_modify h k i f
theorem State.tile_modTile_self {s : State} (h : Sparse.wf ({} : Tile) s.tiles = true) (k : Nat) (f : Tile → Tile) :
    (s.modTile k f).tile k = f (s.tile k) := by rw [State.tile_modTile h, if_pos rfl]
theorem State.tile_modTile_ne {s : State} (h : Sparse.wf ({} : Tile) s.tiles = true) {k i : Nat} (hi : i ≠ k) (f : Tile → Tile) :
    (s.modTile k f).tile i = s.tile i := by rw [State.tile_modTile h, if_neg (Ne.symm hi)]

/-! ## modCell -/

@[simp] theorem State.modCell_mem (s : State) (k : Nat) (f : Cell → Cell) : (s.modCell k f).mem = s.mem := rfl
@[simp] theorem State.modCell_tasks (s : State) (k : Nat) (f : Cell → Cell) : (s.modCell k f).tasks = s.tasks := rfl
@[simp] theorem State.modCell_tiles (s : State) (k : Nat) (f : Cell → Cell) : (s.modCell k f).tiles = s.tiles := rfl
@[simp] theorem State.modCell_cmds (s : State) (k : Nat) (f : Cell → Cell) : (s.modCell k f).cmds = s.cmds := rfl
@[simp] theorem State.modCell_locks (s : State) (k : Nat) (f : Cell → Cell) : (s.modCell k f).locks = s.locks := rfl
@[simp] theorem State.modCell_fields (s : State) (k : Nat) (f : Cell → Cell) : (s.modCell k f).fields = s.fields := rfl
@[simp] theorem State.modCell_dies (s : State) (k : Nat) (f : Cell → Cell) : (s.modCell k f).dies = s.dies := rfl
@[simp] theorem State.modCell_mesh (s : State) (k : Nat) (f : Cell → Cell) : (s.modCell k f).mesh = s.mesh := rfl
@[simp] theorem State.modCell_rx (s : State) (k : Nat) (f : Cell → Cell) : (s.modCell k f).rx = s.rx := rfl
@[simp] theorem State.modCell_intake (s : State) (k : Nat) (f : Cell → Cell) : (s.modCell k f).intake = s.intake := rfl
@[simp] theorem State.modCell_fab (s : State) (k : Nat) (f : Cell → Cell) : (s.modCell k f).fab = s.fab := rfl
@[simp] theorem State.modCell_pkg (s : State) (k : Nat) (f : Cell → Cell) : (s.modCell k f).pkg = s.pkg := rfl
@[simp] theorem State.modCell_health (s : State) (k : Nat) (f : Cell → Cell) : (s.modCell k f).health = s.health := rfl
@[simp] theorem State.modCell_cycle (s : State) (k : Nat) (f : Cell → Cell) : (s.modCell k f).cycle = s.cycle := rfl
@[simp] theorem State.modCell_agenda (s : State) (k : Nat) (f : Cell → Cell) : (s.modCell k f).agenda = s.agenda := rfl
@[simp] theorem State.modCell_here (s : State) (k : Nat) (f : Cell → Cell) : (s.modCell k f).here = s.here := rfl
@[simp] theorem State.modCell_issue (s : State) (k : Nat) (f : Cell → Cell) : (s.modCell k f).issue = s.issue := rfl
@[simp] theorem State.modCell_fresh (s : State) (k : Nat) (f : Cell → Cell) : (s.modCell k f).fresh = s.fresh := rfl
@[simp] theorem State.modCell_out (s : State) (k : Nat) (f : Cell → Cell) : (s.modCell k f).out = s.out := rfl
@[simp] theorem State.modCell_task (s : State) (k : Nat) (f : Cell → Cell) (i : Nat) : (s.modCell k f).task i = s.task i := rfl
@[simp] theorem State.modCell_tile (s : State) (k : Nat) (f : Cell → Cell) (i : Nat) : (s.modCell k f).tile i = s.tile i := rfl
@[simp] theorem State.modCell_cmd (s : State) (k : Nat) (f : Cell → Cell) (i : Nat) : (s.modCell k f).cmd i = s.cmd i := rfl
@[simp] theorem State.modCell_lockBit (s : State) (k : Nat) (f : Cell → Cell) (i : Nat) : (s.modCell k f).lockBit i = s.lockBit i := rfl
@[simp] theorem State.modCell_field (s : State) (k : Nat) (f : Cell → Cell) (i : Nat) : (s.modCell k f).field i = s.field i := rfl
@[simp] theorem State.modCell_die (s : State) (k : Nat) (f : Cell → Cell) (i : Nat) : (s.modCell k f).die i = s.die i := rfl
@[simp] theorem State.modCell_me (s : State) (k : Nat) (f : Cell → Cell) : (s.modCell k f).me = s.me := rfl
@[simp] theorem State.modCell_myCore (s : State) (k : Nat) (f : Cell → Cell) : (s.modCell k f).myCore = s.myCore := rfl
theorem State.cell_modCell {s : State} (h : Sparse.wf ({} : Cell) s.cells = true) (k i : Nat) (f : Cell → Cell) :
    (s.modCell k f).cell i = if k = i then f (s.cell k) else s.cell i := Sparse.get_modify h k i f
theorem State.cell_modCell_self {s : State} (h : Sparse.wf ({} : Cell) s.cells = true) (k : Nat) (f : Cell → Cell) :
    (s.modCell k f).cell k = f (s.cell k) := by rw [State.cell_modCell h, if_pos rfl]
theorem State.cell_modCell_ne {s : State} (h : Sparse.wf ({} : Cell) s.cells = true) {k i : Nat} (hi : i ≠ k) (f : Cell → Cell) :
    (s.modCell k f).cell i = s.cell i := by rw [State.cell_modCell h, if_neg (Ne.symm hi)]

/-! ## modCmd -/

@[simp] theorem State.modCmd_mem (s : State) (k : Nat) (f : Cmd → Cmd) : (s.modCmd k f).mem = s.mem := rfl
@[simp] theorem State.modCmd_tasks (s : State) (k : Nat) (f : Cmd → Cmd) : (s.modCmd k f).tasks = s.tasks := rfl
@[simp] theorem State.modCmd_tiles (s : State) (k : Nat) (f : Cmd → Cmd) : (s.modCmd k f).tiles = s.tiles := rfl
@[simp] theorem State.modCmd_cells (s : State) (k : Nat) (f : Cmd → Cmd) : (s.modCmd k f).cells = s.cells := rfl
@[simp] theorem State.modCmd_locks (s : State) (k : Nat) (f : Cmd → Cmd) : (s.modCmd k f).locks = s.locks := rfl
@[simp] theorem State.modCmd_fields (s : State) (k : Nat) (f : Cmd → Cmd) : (s.modCmd k f).fields = s.fields := rfl
@[simp] theorem State.modCmd_dies (s : State) (k : Nat) (f : Cmd → Cmd) : (s.modCmd k f).dies = s.dies := rfl
@[simp] theorem State.modCmd_mesh (s : State) (k : Nat) (f : Cmd → Cmd) : (s.modCmd k f).mesh = s.mesh := rfl
@[simp] theorem State.modCmd_rx (s : State) (k : Nat) (f : Cmd → Cmd) : (s.modCmd k f).rx = s.rx := rfl
@[simp] theorem State.modCmd_intake (s : State) (k : Nat) (f : Cmd → Cmd) : (s.modCmd k f).intake = s.intake := rfl
@[simp] theorem State.modCmd_fab (s : State) (k : Nat) (f : Cmd → Cmd) : (s.modCmd k f).fab = s.fab := rfl
@[simp] theorem State.modCmd_pkg (s : State) (k : Nat) (f : Cmd → Cmd) : (s.modCmd k f).pkg = s.pkg := rfl
@[simp] theorem State.modCmd_health (s : State) (k : Nat) (f : Cmd → Cmd) : (s.modCmd k f).health = s.health := rfl
@[simp] theorem State.modCmd_cycle (s : State) (k : Nat) (f : Cmd → Cmd) : (s.modCmd k f).cycle = s.cycle := rfl
@[simp] theorem State.modCmd_agenda (s : State) (k : Nat) (f : Cmd → Cmd) : (s.modCmd k f).agenda = s.agenda := rfl
@[simp] theorem State.modCmd_here (s : State) (k : Nat) (f : Cmd → Cmd) : (s.modCmd k f).here = s.here := rfl
@[simp] theorem State.modCmd_issue (s : State) (k : Nat) (f : Cmd → Cmd) : (s.modCmd k f).issue = s.issue := rfl
@[simp] theorem State.modCmd_fresh (s : State) (k : Nat) (f : Cmd → Cmd) : (s.modCmd k f).fresh = s.fresh := rfl
@[simp] theorem State.modCmd_out (s : State) (k : Nat) (f : Cmd → Cmd) : (s.modCmd k f).out = s.out := rfl
@[simp] theorem State.modCmd_task (s : State) (k : Nat) (f : Cmd → Cmd) (i : Nat) : (s.modCmd k f).task i = s.task i := rfl
@[simp] theorem State.modCmd_tile (s : State) (k : Nat) (f : Cmd → Cmd) (i : Nat) : (s.modCmd k f).tile i = s.tile i := rfl
@[simp] theorem State.modCmd_cell (s : State) (k : Nat) (f : Cmd → Cmd) (i : Nat) : (s.modCmd k f).cell i = s.cell i := rfl
@[simp] theorem State.modCmd_lockBit (s : State) (k : Nat) (f : Cmd → Cmd) (i : Nat) : (s.modCmd k f).lockBit i = s.lockBit i := rfl
@[simp] theorem State.modCmd_field (s : State) (k : Nat) (f : Cmd → Cmd) (i : Nat) : (s.modCmd k f).field i = s.field i := rfl
@[simp] theorem State.modCmd_die (s : State) (k : Nat) (f : Cmd → Cmd) (i : Nat) : (s.modCmd k f).die i = s.die i := rfl
@[simp] theorem State.modCmd_me (s : State) (k : Nat) (f : Cmd → Cmd) : (s.modCmd k f).me = s.me := rfl
@[simp] theorem State.modCmd_myCore (s : State) (k : Nat) (f : Cmd → Cmd) : (s.modCmd k f).myCore = s.myCore := rfl
theorem State.cmd_modCmd {s : State} (h : Sparse.wf ({} : Cmd) s.cmds = true) (k i : Nat) (f : Cmd → Cmd) :
    (s.modCmd k f).cmd i = if k = i then f (s.cmd k) else s.cmd i := Sparse.get_modify h k i f
theorem State.cmd_modCmd_self {s : State} (h : Sparse.wf ({} : Cmd) s.cmds = true) (k : Nat) (f : Cmd → Cmd) :
    (s.modCmd k f).cmd k = f (s.cmd k) := by rw [State.cmd_modCmd h, if_pos rfl]
theorem State.cmd_modCmd_ne {s : State} (h : Sparse.wf ({} : Cmd) s.cmds = true) {k i : Nat} (hi : i ≠ k) (f : Cmd → Cmd) :
    (s.modCmd k f).cmd i = s.cmd i := by rw [State.cmd_modCmd h, if_neg (Ne.symm hi)]

/-! ## modLock -/

@[simp] theorem State.modLock_mem (s : State) (k : Nat) (f : Lock → Lock) : (s.modLock k f).mem = s.mem := rfl
@[simp] theorem State.modLock_tasks (s : State) (k : Nat) (f : Lock → Lock) : (s.modLock k f).tasks = s.tasks := rfl
@[simp] theorem State.modLock_tiles (s : State) (k : Nat) (f : Lock → Lock) : (s.modLock k f).tiles = s.tiles := rfl
@[simp] theorem State.modLock_cells (s : State) (k : Nat) (f : Lock → Lock) : (s.modLock k f).cells = s.cells := rfl
@[simp] theorem State.modLock_cmds (s : State) (k : Nat) (f : Lock → Lock) : (s.modLock k f).cmds = s.cmds := rfl
@[simp] theorem State.modLock_fields (s : State) (k : Nat) (f : Lock → Lock) : (s.modLock k f).fields = s.fields := rfl
@[simp] theorem State.modLock_dies (s : State) (k : Nat) (f : Lock → Lock) : (s.modLock k f).dies = s.dies := rfl
@[simp] theorem State.modLock_mesh (s : State) (k : Nat) (f : Lock → Lock) : (s.modLock k f).mesh = s.mesh := rfl
@[simp] theorem State.modLock_rx (s : State) (k : Nat) (f : Lock → Lock) : (s.modLock k f).rx = s.rx := rfl
@[simp] theorem State.modLock_intake (s : State) (k : Nat) (f : Lock → Lock) : (s.modLock k f).intake = s.intake := rfl
@[simp] theorem State.modLock_fab (s : State) (k : Nat) (f : Lock → Lock) : (s.modLock k f).fab = s.fab := rfl
@[simp] theorem State.modLock_pkg (s : State) (k : Nat) (f : Lock → Lock) : (s.modLock k f).pkg = s.pkg := rfl
@[simp] theorem State.modLock_health (s : State) (k : Nat) (f : Lock → Lock) : (s.modLock k f).health = s.health := rfl
@[simp] theorem State.modLock_cycle (s : State) (k : Nat) (f : Lock → Lock) : (s.modLock k f).cycle = s.cycle := rfl
@[simp] theorem State.modLock_agenda (s : State) (k : Nat) (f : Lock → Lock) : (s.modLock k f).agenda = s.agenda := rfl
@[simp] theorem State.modLock_here (s : State) (k : Nat) (f : Lock → Lock) : (s.modLock k f).here = s.here := rfl
@[simp] theorem State.modLock_issue (s : State) (k : Nat) (f : Lock → Lock) : (s.modLock k f).issue = s.issue := rfl
@[simp] theorem State.modLock_fresh (s : State) (k : Nat) (f : Lock → Lock) : (s.modLock k f).fresh = s.fresh := rfl
@[simp] theorem State.modLock_out (s : State) (k : Nat) (f : Lock → Lock) : (s.modLock k f).out = s.out := rfl
@[simp] theorem State.modLock_task (s : State) (k : Nat) (f : Lock → Lock) (i : Nat) : (s.modLock k f).task i = s.task i := rfl
@[simp] theorem State.modLock_tile (s : State) (k : Nat) (f : Lock → Lock) (i : Nat) : (s.modLock k f).tile i = s.tile i := rfl
@[simp] theorem State.modLock_cell (s : State) (k : Nat) (f : Lock → Lock) (i : Nat) : (s.modLock k f).cell i = s.cell i := rfl
@[simp] theorem State.modLock_cmd (s : State) (k : Nat) (f : Lock → Lock) (i : Nat) : (s.modLock k f).cmd i = s.cmd i := rfl
@[simp] theorem State.modLock_field (s : State) (k : Nat) (f : Lock → Lock) (i : Nat) : (s.modLock k f).field i = s.field i := rfl
@[simp] theorem State.modLock_die (s : State) (k : Nat) (f : Lock → Lock) (i : Nat) : (s.modLock k f).die i = s.die i := rfl
@[simp] theorem State.modLock_me (s : State) (k : Nat) (f : Lock → Lock) : (s.modLock k f).me = s.me := rfl
@[simp] theorem State.modLock_myCore (s : State) (k : Nat) (f : Lock → Lock) : (s.modLock k f).myCore = s.myCore := rfl
theorem State.lockBit_modLock {s : State} (h : Sparse.wf ({} : Lock) s.locks = true) (k i : Nat) (f : Lock → Lock) :
    (s.modLock k f).lockBit i = if k = i then f (s.lockBit k) else s.lockBit i := Sparse.get_modify h k i f
theorem State.lockBit_modLock_self {s : State} (h : Sparse.wf ({} : Lock) s.locks = true) (k : Nat) (f : Lock → Lock) :
    (s.modLock k f).lockBit k = f (s.lockBit k) := by rw [State.lockBit_modLock h, if_pos rfl]
theorem State.lockBit_modLock_ne {s : State} (h : Sparse.wf ({} : Lock) s.locks = true) {k i : Nat} (hi : i ≠ k) (f : Lock → Lock) :
    (s.modLock k f).lockBit i = s.lockBit i := by rw [State.lockBit_modLock h, if_neg (Ne.symm hi)]

/-! ## modField -/

@[simp] theorem State.modField_mem (s : State) (k : Nat) (f : Field → Field) : (s.modField k f).mem = s.mem := rfl
@[simp] theorem State.modField_tasks (s : State) (k : Nat) (f : Field → Field) : (s.modField k f).tasks = s.tasks := rfl
@[simp] theorem State.modField_tiles (s : State) (k : Nat) (f : Field → Field) : (s.modField k f).tiles = s.tiles := rfl
@[simp] theorem State.modField_cells (s : State) (k : Nat) (f : Field → Field) : (s.modField k f).cells = s.cells := rfl
@[simp] theorem State.modField_cmds (s : State) (k : Nat) (f : Field → Field) : (s.modField k f).cmds = s.cmds := rfl
@[simp] theorem State.modField_locks (s : State) (k : Nat) (f : Field → Field) : (s.modField k f).locks = s.locks := rfl
@[simp] theorem State.modField_dies (s : State) (k : Nat) (f : Field → Field) : (s.modField k f).dies = s.dies := rfl
@[simp] theorem State.modField_mesh (s : State) (k : Nat) (f : Field → Field) : (s.modField k f).mesh = s.mesh := rfl
@[simp] theorem State.modField_rx (s : State) (k : Nat) (f : Field → Field) : (s.modField k f).rx = s.rx := rfl
@[simp] theorem State.modField_intake (s : State) (k : Nat) (f : Field → Field) : (s.modField k f).intake = s.intake := rfl
@[simp] theorem State.modField_fab (s : State) (k : Nat) (f : Field → Field) : (s.modField k f).fab = s.fab := rfl
@[simp] theorem State.modField_pkg (s : State) (k : Nat) (f : Field → Field) : (s.modField k f).pkg = s.pkg := rfl
@[simp] theorem State.modField_health (s : State) (k : Nat) (f : Field → Field) : (s.modField k f).health = s.health := rfl
@[simp] theorem State.modField_cycle (s : State) (k : Nat) (f : Field → Field) : (s.modField k f).cycle = s.cycle := rfl
@[simp] theorem State.modField_agenda (s : State) (k : Nat) (f : Field → Field) : (s.modField k f).agenda = s.agenda := rfl
@[simp] theorem State.modField_here (s : State) (k : Nat) (f : Field → Field) : (s.modField k f).here = s.here := rfl
@[simp] theorem State.modField_issue (s : State) (k : Nat) (f : Field → Field) : (s.modField k f).issue = s.issue := rfl
@[simp] theorem State.modField_fresh (s : State) (k : Nat) (f : Field → Field) : (s.modField k f).fresh = s.fresh := rfl
@[simp] theorem State.modField_out (s : State) (k : Nat) (f : Field → Field) : (s.modField k f).out = s.out := rfl
@[simp] theorem State.modField_task (s : State) (k : Nat) (f : Field → Field) (i : Nat) : (s.modField k f).task i = s.task i := rfl
@[simp] theorem State.modField_tile (s : State) (k : Nat) (f : Field → Field) (i : Nat) : (s.modField k f).tile i = s.tile i := rfl
@[simp] theorem State.modField_cell (s : State) (k : Nat) (f : Field → Field) (i : Nat) : (s.modField k f).cell i = s.cell i := rfl
@[simp] theorem State.modField_cmd (s : State) (k : Nat) (f : Field → Field) (i : Nat) : (s.modField k f).cmd i = s.cmd i := rfl
@[simp] theorem State.modField_lockBit (s : State) (k : Nat) (f : Field → Field) (i : Nat) : (s.modField k f).lockBit i = s.lockBit i := rfl
@[simp] theorem State.modField_die (s : State) (k : Nat) (f : Field → Field) (i : Nat) : (s.modField k f).die i = s.die i := rfl
@[simp] theorem State.modField_me (s : State) (k : Nat) (f : Field → Field) : (s.modField k f).me = s.me := rfl
@[simp] theorem State.modField_myCore (s : State) (k : Nat) (f : Field → Field) : (s.modField k f).myCore = s.myCore := rfl
theorem State.field_modField {s : State} (h : Sparse.wf ({} : Field) s.fields = true) (k i : Nat) (f : Field → Field) :
    (s.modField k f).field i = if k = i then f (s.field k) else s.field i := Sparse.get_modify h k i f
theorem State.field_modField_self {s : State} (h : Sparse.wf ({} : Field) s.fields = true) (k : Nat) (f : Field → Field) :
    (s.modField k f).field k = f (s.field k) := by rw [State.field_modField h, if_pos rfl]
theorem State.field_modField_ne {s : State} (h : Sparse.wf ({} : Field) s.fields = true) {k i : Nat} (hi : i ≠ k) (f : Field → Field) :
    (s.modField k f).field i = s.field i := by rw [State.field_modField h, if_neg (Ne.symm hi)]

/-! ## modDie -/

@[simp] theorem State.modDie_mem (s : State) (k : Nat) (f : Die → Die) : (s.modDie k f).mem = s.mem := rfl
@[simp] theorem State.modDie_tasks (s : State) (k : Nat) (f : Die → Die) : (s.modDie k f).tasks = s.tasks := rfl
@[simp] theorem State.modDie_tiles (s : State) (k : Nat) (f : Die → Die) : (s.modDie k f).tiles = s.tiles := rfl
@[simp] theorem State.modDie_cells (s : State) (k : Nat) (f : Die → Die) : (s.modDie k f).cells = s.cells := rfl
@[simp] theorem State.modDie_cmds (s : State) (k : Nat) (f : Die → Die) : (s.modDie k f).cmds = s.cmds := rfl
@[simp] theorem State.modDie_locks (s : State) (k : Nat) (f : Die → Die) : (s.modDie k f).locks = s.locks := rfl
@[simp] theorem State.modDie_fields (s : State) (k : Nat) (f : Die → Die) : (s.modDie k f).fields = s.fields := rfl
@[simp] theorem State.modDie_mesh (s : State) (k : Nat) (f : Die → Die) : (s.modDie k f).mesh = s.mesh := rfl
@[simp] theorem State.modDie_rx (s : State) (k : Nat) (f : Die → Die) : (s.modDie k f).rx = s.rx := rfl
@[simp] theorem State.modDie_intake (s : State) (k : Nat) (f : Die → Die) : (s.modDie k f).intake = s.intake := rfl
@[simp] theorem State.modDie_fab (s : State) (k : Nat) (f : Die → Die) : (s.modDie k f).fab = s.fab := rfl
@[simp] theorem State.modDie_pkg (s : State) (k : Nat) (f : Die → Die) : (s.modDie k f).pkg = s.pkg := rfl
@[simp] theorem State.modDie_health (s : State) (k : Nat) (f : Die → Die) : (s.modDie k f).health = s.health := rfl
@[simp] theorem State.modDie_cycle (s : State) (k : Nat) (f : Die → Die) : (s.modDie k f).cycle = s.cycle := rfl
@[simp] theorem State.modDie_agenda (s : State) (k : Nat) (f : Die → Die) : (s.modDie k f).agenda = s.agenda := rfl
@[simp] theorem State.modDie_here (s : State) (k : Nat) (f : Die → Die) : (s.modDie k f).here = s.here := rfl
@[simp] theorem State.modDie_issue (s : State) (k : Nat) (f : Die → Die) : (s.modDie k f).issue = s.issue := rfl
@[simp] theorem State.modDie_fresh (s : State) (k : Nat) (f : Die → Die) : (s.modDie k f).fresh = s.fresh := rfl
@[simp] theorem State.modDie_out (s : State) (k : Nat) (f : Die → Die) : (s.modDie k f).out = s.out := rfl
@[simp] theorem State.modDie_task (s : State) (k : Nat) (f : Die → Die) (i : Nat) : (s.modDie k f).task i = s.task i := rfl
@[simp] theorem State.modDie_tile (s : State) (k : Nat) (f : Die → Die) (i : Nat) : (s.modDie k f).tile i = s.tile i := rfl
@[simp] theorem State.modDie_cell (s : State) (k : Nat) (f : Die → Die) (i : Nat) : (s.modDie k f).cell i = s.cell i := rfl
@[simp] theorem State.modDie_cmd (s : State) (k : Nat) (f : Die → Die) (i : Nat) : (s.modDie k f).cmd i = s.cmd i := rfl
@[simp] theorem State.modDie_lockBit (s : State) (k : Nat) (f : Die → Die) (i : Nat) : (s.modDie k f).lockBit i = s.lockBit i := rfl
@[simp] theorem State.modDie_field (s : State) (k : Nat) (f : Die → Die) (i : Nat) : (s.modDie k f).field i = s.field i := rfl
@[simp] theorem State.modDie_me (s : State) (k : Nat) (f : Die → Die) : (s.modDie k f).me = s.me := rfl
@[simp] theorem State.modDie_myCore (s : State) (k : Nat) (f : Die → Die) : (s.modDie k f).myCore = s.myCore := rfl
theorem State.die_modDie {s : State} (h : Sparse.wf ({} : Die) s.dies = true) (k i : Nat) (f : Die → Die) :
    (s.modDie k f).die i = if k = i then f (s.die k) else s.die i := Sparse.get_modify h k i f
theorem State.die_modDie_self {s : State} (h : Sparse.wf ({} : Die) s.dies = true) (k : Nat) (f : Die → Die) :
    (s.modDie k f).die k = f (s.die k) := by rw [State.die_modDie h, if_pos rfl]
theorem State.die_modDie_ne {s : State} (h : Sparse.wf ({} : Die) s.dies = true) {k i : Nat} (hi : i ≠ k) (f : Die → Die) :
    (s.modDie k f).die i = s.die i := by rw [State.die_modDie h, if_neg (Ne.symm hi)]

/-! ## modPeer -/

@[simp] theorem State.modPeer_mem (s : State) (k : Nat) (f : Peer → Peer) : (s.modPeer k f).mem = s.mem := rfl
@[simp] theorem State.modPeer_tasks (s : State) (k : Nat) (f : Peer → Peer) : (s.modPeer k f).tasks = s.tasks := rfl
@[simp] theorem State.modPeer_tiles (s : State) (k : Nat) (f : Peer → Peer) : (s.modPeer k f).tiles = s.tiles := rfl
@[simp] theorem State.modPeer_cells (s : State) (k : Nat) (f : Peer → Peer) : (s.modPeer k f).cells = s.cells := rfl
@[simp] theorem State.modPeer_cmds (s : State) (k : Nat) (f : Peer → Peer) : (s.modPeer k f).cmds = s.cmds := rfl
@[simp] theorem State.modPeer_locks (s : State) (k : Nat) (f : Peer → Peer) : (s.modPeer k f).locks = s.locks := rfl
@[simp] theorem State.modPeer_fields (s : State) (k : Nat) (f : Peer → Peer) : (s.modPeer k f).fields = s.fields := rfl
@[simp] theorem State.modPeer_dies (s : State) (k : Nat) (f : Peer → Peer) : (s.modPeer k f).dies = s.dies := rfl
@[simp] theorem State.modPeer_mesh (s : State) (k : Nat) (f : Peer → Peer) : (s.modPeer k f).mesh = s.mesh := rfl
@[simp] theorem State.modPeer_rx (s : State) (k : Nat) (f : Peer → Peer) : (s.modPeer k f).rx = s.rx := rfl
@[simp] theorem State.modPeer_intake (s : State) (k : Nat) (f : Peer → Peer) : (s.modPeer k f).intake = s.intake := rfl
@[simp] theorem State.modPeer_pkg (s : State) (k : Nat) (f : Peer → Peer) : (s.modPeer k f).pkg = s.pkg := rfl
@[simp] theorem State.modPeer_health (s : State) (k : Nat) (f : Peer → Peer) : (s.modPeer k f).health = s.health := rfl
@[simp] theorem State.modPeer_cycle (s : State) (k : Nat) (f : Peer → Peer) : (s.modPeer k f).cycle = s.cycle := rfl
@[simp] theorem State.modPeer_agenda (s : State) (k : Nat) (f : Peer → Peer) : (s.modPeer k f).agenda = s.agenda := rfl
@[simp] theorem State.modPeer_here (s : State) (k : Nat) (f : Peer → Peer) : (s.modPeer k f).here = s.here := rfl
@[simp] theorem State.modPeer_issue (s : State) (k : Nat) (f : Peer → Peer) : (s.modPeer k f).issue = s.issue := rfl
@[simp] theorem State.modPeer_fresh (s : State) (k : Nat) (f : Peer → Peer) : (s.modPeer k f).fresh = s.fresh := rfl
@[simp] theorem State.modPeer_out (s : State) (k : Nat) (f : Peer → Peer) : (s.modPeer k f).out = s.out := rfl
@[simp] theorem State.modPeer_task (s : State) (k : Nat) (f : Peer → Peer) (i : Nat) : (s.modPeer k f).task i = s.task i := rfl
@[simp] theorem State.modPeer_tile (s : State) (k : Nat) (f : Peer → Peer) (i : Nat) : (s.modPeer k f).tile i = s.tile i := rfl
@[simp] theorem State.modPeer_cell (s : State) (k : Nat) (f : Peer → Peer) (i : Nat) : (s.modPeer k f).cell i = s.cell i := rfl
@[simp] theorem State.modPeer_cmd (s : State) (k : Nat) (f : Peer → Peer) (i : Nat) : (s.modPeer k f).cmd i = s.cmd i := rfl
@[simp] theorem State.modPeer_lockBit (s : State) (k : Nat) (f : Peer → Peer) (i : Nat) : (s.modPeer k f).lockBit i = s.lockBit i := rfl
@[simp] theorem State.modPeer_field (s : State) (k : Nat) (f : Peer → Peer) (i : Nat) : (s.modPeer k f).field i = s.field i := rfl
@[simp] theorem State.modPeer_die (s : State) (k : Nat) (f : Peer → Peer) (i : Nat) : (s.modPeer k f).die i = s.die i := rfl
@[simp] theorem State.modPeer_me (s : State) (k : Nat) (f : Peer → Peer) : (s.modPeer k f).me = s.me := rfl
@[simp] theorem State.modPeer_myCore (s : State) (k : Nat) (f : Peer → Peer) : (s.modPeer k f).myCore = s.myCore := rfl

/-! ## modEntry -/

@[simp] theorem State.modEntry_mem (s : State) (k : Nat) (f : Entry → Entry) : (s.modEntry k f).mem = s.mem := rfl
@[simp] theorem State.modEntry_tasks (s : State) (k : Nat) (f : Entry → Entry) : (s.modEntry k f).tasks = s.tasks := rfl
@[simp] theorem State.modEntry_tiles (s : State) (k : Nat) (f : Entry → Entry) : (s.modEntry k f).tiles = s.tiles := rfl
@[simp] theorem State.modEntry_cells (s : State) (k : Nat) (f : Entry → Entry) : (s.modEntry k f).cells = s.cells := rfl
@[simp] theorem State.modEntry_cmds (s : State) (k : Nat) (f : Entry → Entry) : (s.modEntry k f).cmds = s.cmds := rfl
@[simp] theorem State.modEntry_locks (s : State) (k : Nat) (f : Entry → Entry) : (s.modEntry k f).locks = s.locks := rfl
@[simp] theorem State.modEntry_fields (s : State) (k : Nat) (f : Entry → Entry) : (s.modEntry k f).fields = s.fields := rfl
@[simp] theorem State.modEntry_dies (s : State) (k : Nat) (f : Entry → Entry) : (s.modEntry k f).dies = s.dies := rfl
@[simp] theorem State.modEntry_mesh (s : State) (k : Nat) (f : Entry → Entry) : (s.modEntry k f).mesh = s.mesh := rfl
@[simp] theorem State.modEntry_intake (s : State) (k : Nat) (f : Entry → Entry) : (s.modEntry k f).intake = s.intake := rfl
@[simp] theorem State.modEntry_fab (s : State) (k : Nat) (f : Entry → Entry) : (s.modEntry k f).fab = s.fab := rfl
@[simp] theorem State.modEntry_pkg (s : State) (k : Nat) (f : Entry → Entry) : (s.modEntry k f).pkg = s.pkg := rfl
@[simp] theorem State.modEntry_health (s : State) (k : Nat) (f : Entry → Entry) : (s.modEntry k f).health = s.health := rfl
@[simp] theorem State.modEntry_cycle (s : State) (k : Nat) (f : Entry → Entry) : (s.modEntry k f).cycle = s.cycle := rfl
@[simp] theorem State.modEntry_agenda (s : State) (k : Nat) (f : Entry → Entry) : (s.modEntry k f).agenda = s.agenda := rfl
@[simp] theorem State.modEntry_here (s : State) (k : Nat) (f : Entry → Entry) : (s.modEntry k f).here = s.here := rfl
@[simp] theorem State.modEntry_issue (s : State) (k : Nat) (f : Entry → Entry) : (s.modEntry k f).issue = s.issue := rfl
@[simp] theorem State.modEntry_fresh (s : State) (k : Nat) (f : Entry → Entry) : (s.modEntry k f).fresh = s.fresh := rfl
@[simp] theorem State.modEntry_out (s : State) (k : Nat) (f : Entry → Entry) : (s.modEntry k f).out = s.out := rfl
@[simp] theorem State.modEntry_task (s : State) (k : Nat) (f : Entry → Entry) (i : Nat) : (s.modEntry k f).task i = s.task i := rfl
@[simp] theorem State.modEntry_tile (s : State) (k : Nat) (f : Entry → Entry) (i : Nat) : (s.modEntry k f).tile i = s.tile i := rfl
@[simp] theorem State.modEntry_cell (s : State) (k : Nat) (f : Entry → Entry) (i : Nat) : (s.modEntry k f).cell i = s.cell i := rfl
@[simp] theorem State.modEntry_cmd (s : State) (k : Nat) (f : Entry → Entry) (i : Nat) : (s.modEntry k f).cmd i = s.cmd i := rfl
@[simp] theorem State.modEntry_lockBit (s : State) (k : Nat) (f : Entry → Entry) (i : Nat) : (s.modEntry k f).lockBit i = s.lockBit i := rfl
@[simp] theorem State.modEntry_field (s : State) (k : Nat) (f : Entry → Entry) (i : Nat) : (s.modEntry k f).field i = s.field i := rfl
@[simp] theorem State.modEntry_die (s : State) (k : Nat) (f : Entry → Entry) (i : Nat) : (s.modEntry k f).die i = s.die i := rfl
@[simp] theorem State.modEntry_me (s : State) (k : Nat) (f : Entry → Entry) : (s.modEntry k f).me = s.me := rfl
@[simp] theorem State.modEntry_myCore (s : State) (k : Nat) (f : Entry → Entry) : (s.modEntry k f).myCore = s.myCore := rfl

/-! ## modIntake -/

@[simp] theorem State.modIntake_mem (s : State) (f : Intake → Intake) : (s.modIntake f).mem = s.mem := rfl
@[simp] theorem State.modIntake_tasks (s : State) (f : Intake → Intake) : (s.modIntake f).tasks = s.tasks := rfl
@[simp] theorem State.modIntake_tiles (s : State) (f : Intake → Intake) : (s.modIntake f).tiles = s.tiles := rfl
@[simp] theorem State.modIntake_cells (s : State) (f : Intake → Intake) : (s.modIntake f).cells = s.cells := rfl
@[simp] theorem State.modIntake_cmds (s : State) (f : Intake → Intake) : (s.modIntake f).cmds = s.cmds := rfl
@[simp] theorem State.modIntake_locks (s : State) (f : Intake → Intake) : (s.modIntake f).locks = s.locks := rfl
@[simp] theorem State.modIntake_fields (s : State) (f : Intake → Intake) : (s.modIntake f).fields = s.fields := rfl
@[simp] theorem State.modIntake_dies (s : State) (f : Intake → Intake) : (s.modIntake f).dies = s.dies := rfl
@[simp] theorem State.modIntake_mesh (s : State) (f : Intake → Intake) : (s.modIntake f).mesh = s.mesh := rfl
@[simp] theorem State.modIntake_rx (s : State) (f : Intake → Intake) : (s.modIntake f).rx = s.rx := rfl
@[simp] theorem State.modIntake_fab (s : State) (f : Intake → Intake) : (s.modIntake f).fab = s.fab := rfl
@[simp] theorem State.modIntake_pkg (s : State) (f : Intake → Intake) : (s.modIntake f).pkg = s.pkg := rfl
@[simp] theorem State.modIntake_health (s : State) (f : Intake → Intake) : (s.modIntake f).health = s.health := rfl
@[simp] theorem State.modIntake_cycle (s : State) (f : Intake → Intake) : (s.modIntake f).cycle = s.cycle := rfl
@[simp] theorem State.modIntake_agenda (s : State) (f : Intake → Intake) : (s.modIntake f).agenda = s.agenda := rfl
@[simp] theorem State.modIntake_here (s : State) (f : Intake → Intake) : (s.modIntake f).here = s.here := rfl
@[simp] theorem State.modIntake_issue (s : State) (f : Intake → Intake) : (s.modIntake f).issue = s.issue := rfl
@[simp] theorem State.modIntake_fresh (s : State) (f : Intake → Intake) : (s.modIntake f).fresh = s.fresh := rfl
@[simp] theorem State.modIntake_out (s : State) (f : Intake → Intake) : (s.modIntake f).out = s.out := rfl
@[simp] theorem State.modIntake_task (s : State) (f : Intake → Intake) (i : Nat) : (s.modIntake f).task i = s.task i := rfl
@[simp] theorem State.modIntake_tile (s : State) (f : Intake → Intake) (i : Nat) : (s.modIntake f).tile i = s.tile i := rfl
@[simp] theorem State.modIntake_cell (s : State) (f : Intake → Intake) (i : Nat) : (s.modIntake f).cell i = s.cell i := rfl
@[simp] theorem State.modIntake_cmd (s : State) (f : Intake → Intake) (i : Nat) : (s.modIntake f).cmd i = s.cmd i := rfl
@[simp] theorem State.modIntake_lockBit (s : State) (f : Intake → Intake) (i : Nat) : (s.modIntake f).lockBit i = s.lockBit i := rfl
@[simp] theorem State.modIntake_field (s : State) (f : Intake → Intake) (i : Nat) : (s.modIntake f).field i = s.field i := rfl
@[simp] theorem State.modIntake_die (s : State) (f : Intake → Intake) (i : Nat) : (s.modIntake f).die i = s.die i := rfl
@[simp] theorem State.modIntake_me (s : State) (f : Intake → Intake) : (s.modIntake f).me = s.me := rfl
@[simp] theorem State.modIntake_myCore (s : State) (f : Intake → Intake) : (s.modIntake f).myCore = s.myCore := rfl

/-! ## modSlot -/

@[simp] theorem State.modSlot_mem (s : State) (k : Nat) (f : Slot → Slot) : (s.modSlot k f).mem = s.mem := rfl
@[simp] theorem State.modSlot_tasks (s : State) (k : Nat) (f : Slot → Slot) : (s.modSlot k f).tasks = s.tasks := rfl
@[simp] theorem State.modSlot_tiles (s : State) (k : Nat) (f : Slot → Slot) : (s.modSlot k f).tiles = s.tiles := rfl
@[simp] theorem State.modSlot_cells (s : State) (k : Nat) (f : Slot → Slot) : (s.modSlot k f).cells = s.cells := rfl
@[simp] theorem State.modSlot_cmds (s : State) (k : Nat) (f : Slot → Slot) : (s.modSlot k f).cmds = s.cmds := rfl
@[simp] theorem State.modSlot_locks (s : State) (k : Nat) (f : Slot → Slot) : (s.modSlot k f).locks = s.locks := rfl
@[simp] theorem State.modSlot_fields (s : State) (k : Nat) (f : Slot → Slot) : (s.modSlot k f).fields = s.fields := rfl
@[simp] theorem State.modSlot_dies (s : State) (k : Nat) (f : Slot → Slot) : (s.modSlot k f).dies = s.dies := rfl
@[simp] theorem State.modSlot_mesh (s : State) (k : Nat) (f : Slot → Slot) : (s.modSlot k f).mesh = s.mesh := rfl
@[simp] theorem State.modSlot_rx (s : State) (k : Nat) (f : Slot → Slot) : (s.modSlot k f).rx = s.rx := rfl
@[simp] theorem State.modSlot_fab (s : State) (k : Nat) (f : Slot → Slot) : (s.modSlot k f).fab = s.fab := rfl
@[simp] theorem State.modSlot_pkg (s : State) (k : Nat) (f : Slot → Slot) : (s.modSlot k f).pkg = s.pkg := rfl
@[simp] theorem State.modSlot_health (s : State) (k : Nat) (f : Slot → Slot) : (s.modSlot k f).health = s.health := rfl
@[simp] theorem State.modSlot_cycle (s : State) (k : Nat) (f : Slot → Slot) : (s.modSlot k f).cycle = s.cycle := rfl
@[simp] theorem State.modSlot_agenda (s : State) (k : Nat) (f : Slot → Slot) : (s.modSlot k f).agenda = s.agenda := rfl
@[simp] theorem State.modSlot_here (s : State) (k : Nat) (f : Slot → Slot) : (s.modSlot k f).here = s.here := rfl
@[simp] theorem State.modSlot_issue (s : State) (k : Nat) (f : Slot → Slot) : (s.modSlot k f).issue = s.issue := rfl
@[simp] theorem State.modSlot_fresh (s : State) (k : Nat) (f : Slot → Slot) : (s.modSlot k f).fresh = s.fresh := rfl
@[simp] theorem State.modSlot_out (s : State) (k : Nat) (f : Slot → Slot) : (s.modSlot k f).out = s.out := rfl
@[simp] theorem State.modSlot_task (s : State) (k : Nat) (f : Slot → Slot) (i : Nat) : (s.modSlot k f).task i = s.task i := rfl
@[simp] theorem State.modSlot_tile (s : State) (k : Nat) (f : Slot → Slot) (i : Nat) : (s.modSlot k f).tile i = s.tile i := rfl
@[simp] theorem State.modSlot_cell (s : State) (k : Nat) (f : Slot → Slot) (i : Nat) : (s.modSlot k f).cell i = s.cell i := rfl
@[simp] theorem State.modSlot_cmd (s : State) (k : Nat) (f : Slot → Slot) (i : Nat) : (s.modSlot k f).cmd i = s.cmd i := rfl
@[simp] theorem State.modSlot_lockBit (s : State) (k : Nat) (f : Slot → Slot) (i : Nat) : (s.modSlot k f).lockBit i = s.lockBit i := rfl
@[simp] theorem State.modSlot_field (s : State) (k : Nat) (f : Slot → Slot) (i : Nat) : (s.modSlot k f).field i = s.field i := rfl
@[simp] theorem State.modSlot_die (s : State) (k : Nat) (f : Slot → Slot) (i : Nat) : (s.modSlot k f).die i = s.die i := rfl
@[simp] theorem State.modSlot_me (s : State) (k : Nat) (f : Slot → Slot) : (s.modSlot k f).me = s.me := rfl
@[simp] theorem State.modSlot_myCore (s : State) (k : Nat) (f : Slot → Slot) : (s.modSlot k f).myCore = s.myCore := rfl

/-! ## modPkg -/

@[simp] theorem State.modPkg_mem (s : State) (f : Pkg → Pkg) : (s.modPkg f).mem = s.mem := rfl
@[simp] theorem State.modPkg_tasks (s : State) (f : Pkg → Pkg) : (s.modPkg f).tasks = s.tasks := rfl
@[simp] theorem State.modPkg_tiles (s : State) (f : Pkg → Pkg) : (s.modPkg f).tiles = s.tiles := rfl
@[simp] theorem State.modPkg_cells (s : State) (f : Pkg → Pkg) : (s.modPkg f).cells = s.cells := rfl
@[simp] theorem State.modPkg_cmds (s : State) (f : Pkg → Pkg) : (s.modPkg f).cmds = s.cmds := rfl
@[simp] theorem State.modPkg_locks (s : State) (f : Pkg → Pkg) : (s.modPkg f).locks = s.locks := rfl
@[simp] theorem State.modPkg_fields (s : State) (f : Pkg → Pkg) : (s.modPkg f).fields = s.fields := rfl
@[simp] theorem State.modPkg_dies (s : State) (f : Pkg → Pkg) : (s.modPkg f).dies = s.dies := rfl
@[simp] theorem State.modPkg_mesh (s : State) (f : Pkg → Pkg) : (s.modPkg f).mesh = s.mesh := rfl
@[simp] theorem State.modPkg_rx (s : State) (f : Pkg → Pkg) : (s.modPkg f).rx = s.rx := rfl
@[simp] theorem State.modPkg_intake (s : State) (f : Pkg → Pkg) : (s.modPkg f).intake = s.intake := rfl
@[simp] theorem State.modPkg_fab (s : State) (f : Pkg → Pkg) : (s.modPkg f).fab = s.fab := rfl
@[simp] theorem State.modPkg_health (s : State) (f : Pkg → Pkg) : (s.modPkg f).health = s.health := rfl
@[simp] theorem State.modPkg_cycle (s : State) (f : Pkg → Pkg) : (s.modPkg f).cycle = s.cycle := rfl
@[simp] theorem State.modPkg_agenda (s : State) (f : Pkg → Pkg) : (s.modPkg f).agenda = s.agenda := rfl
@[simp] theorem State.modPkg_here (s : State) (f : Pkg → Pkg) : (s.modPkg f).here = s.here := rfl
@[simp] theorem State.modPkg_issue (s : State) (f : Pkg → Pkg) : (s.modPkg f).issue = s.issue := rfl
@[simp] theorem State.modPkg_fresh (s : State) (f : Pkg → Pkg) : (s.modPkg f).fresh = s.fresh := rfl
@[simp] theorem State.modPkg_out (s : State) (f : Pkg → Pkg) : (s.modPkg f).out = s.out := rfl
@[simp] theorem State.modPkg_task (s : State) (f : Pkg → Pkg) (i : Nat) : (s.modPkg f).task i = s.task i := rfl
@[simp] theorem State.modPkg_tile (s : State) (f : Pkg → Pkg) (i : Nat) : (s.modPkg f).tile i = s.tile i := rfl
@[simp] theorem State.modPkg_cell (s : State) (f : Pkg → Pkg) (i : Nat) : (s.modPkg f).cell i = s.cell i := rfl
@[simp] theorem State.modPkg_cmd (s : State) (f : Pkg → Pkg) (i : Nat) : (s.modPkg f).cmd i = s.cmd i := rfl
@[simp] theorem State.modPkg_lockBit (s : State) (f : Pkg → Pkg) (i : Nat) : (s.modPkg f).lockBit i = s.lockBit i := rfl
@[simp] theorem State.modPkg_field (s : State) (f : Pkg → Pkg) (i : Nat) : (s.modPkg f).field i = s.field i := rfl
@[simp] theorem State.modPkg_die (s : State) (f : Pkg → Pkg) (i : Nat) : (s.modPkg f).die i = s.die i := rfl
@[simp] theorem State.modPkg_me (s : State) (f : Pkg → Pkg) : (s.modPkg f).me = s.me := rfl
@[simp] theorem State.modPkg_myCore (s : State) (f : Pkg → Pkg) : (s.modPkg f).myCore = s.myCore := rfl

end Sys2Proof.Machine
end

