-- ==== Sys2Proof/Laws/Inv.lean ====
section
/-! SUPPORT. What the frames of Safety.lean say of the operations, and the invariant as Laws/Ok.lean has it. -/

namespace Sys2Proof.Machine

theorem Sparse.get_of_mem {α : Type} [DecidableEq α] {d : α} {m : Sparse α} {lo : Nat} (h : Sparse.wfFrom d lo m = true) {k : Nat} {v : α}
    (hm : (k, v) ∈ m) : Sparse.get d m k = v := by
  induction m generalizing lo with
  | nil => cases hm
  | cons x m ih =>
    obtain ⟨j, w⟩ := x
    simp only [Sparse.wfFrom, Bool.and_eq_true, decide_eq_true_eq] at h
    simp only [Sparse.get]
    cases hm with
    | head => simp
    | tail _ hm =>
      have hk : j + 1 ≤ k := by
        clear ih
        have h2 := h.2
        clear h
        generalize j + 1 = lo' at *
        induction m generalizing lo' with
        | nil => cases hm
        | cons y m ih =>
          obtain ⟨i, u⟩ := y
          simp only [Sparse.wfFrom, Bool.and_eq_true, decide_eq_true_eq] at h2
          cases hm with
          | head => exact h2.1.1
          | tail _ hm => have := ih hm _ h2.2; omega
      rw [if_neg (by omega), if_neg (by omega)]
      exact ih h.2 hm

theorem State.ok_iff_inv (s : State) : s.Ok ↔ s.Inv := by
  constructor
  · intro h
    exact ⟨⟨h.mem, h.tasks, h.tiles, h.cells, h.cmds, h.locks, h.fields, h.dies⟩, h.task, h.gate⟩
  · rintro ⟨⟨h1, h2, h3, h4, h5, h6, h7, h8⟩, hg, hi⟩
    refine ⟨h1, h2, h3, h4, h5, h6, h7, h8, ?_, hi⟩
    rintro ⟨k, t⟩ hx
    have := hg k
    unfold State.task at this
    rw [Sparse.get_of_mem h2 hx] at this
    exact this

theorem State.modTask_onlyTask {s : State} (h : s.Canonical) (k : Nat) (f : Task → Task) : OnlyTask s (s.modTask k f) k :=
  ⟨rfl, fun _ hj => State.task_modTask_ne h.2.1 hj f⟩

theorem State.modTile_onlyTile {s : State} (h : s.Canonical) (k : Nat) (f : Tile → Tile) : OnlyTile s (s.modTile k f) k :=
  ⟨rfl, fun _ hj => State.tile_modTile_ne h.2.2.1 hj f⟩

/-- A landing result is what Lands says. -/
theorem State.land_lands {s : State} (h : s.Canonical) (d : Dst) (v lat : Nat) : Lands s (s.land d v lat) d v lat :=
  ⟨State.modTask_onlyTask h _ _, State.task_modTask_self h.2.1 _ _⟩

theorem State.landInt_lands {s : State} (h : s.Canonical) (d w : Nat) (r : Int) (lat : Nat) :
    Lands s (s.landInt d w r lat) (.range d (w / 4)) (lowBits r w) lat := State.land_lands h _ _ _

theorem State.landGate_lands {s : State} (h : s.Canonical) (g : Nat) (b : Bool) (lat : Nat) :
    Lands s (s.landGate g b lat) (.gate g) (b2n b) lat := State.land_lands h _ _ _

theorem State.returnNow_returns {s : State} (h : s.Canonical) (d n v : Nat) : Returns s (s.returnNow d n v) d n v :=
  ⟨State.modTask_onlyTask h _ _, State.task_modTask_self h.2.1 _ _⟩

/-- A slot that acts and raises no cause has its effect. -/
theorem slot_true (s : State) (f : State → State) : slot s true f = .next (f s) := rfl
theorem slot_false (s : State) (f : State → State) : slot s false f = .next s := rfl
theorem slotOr_none (s : State) (f : State → State) : slotOr s true none f = .next (f s) := rfl
theorem slotOr_some (s : State) (c : Cause × Nat) (f : State → State) : slotOr s true (some c) f = .next (s.precise c.1 c.2) := rfl
theorem slotOr_false (s : State) (c : Option (Cause × Nat)) (f : State → State) : slotOr s false c f = .next s := rfl

end Sys2Proof.Machine
end

