-- ==== Sys2Proof/Laws/Memory.lean ====
section
/-! SUPPORT. Memory and the slice file: a read after a write, and what a write leaves alone. -/

namespace Sys2Proof.Machine

/-! ## Bytes -/

theorem Memory.byte_put {m : Memory} (h : m.wf = true) (p q : Nat) (b : Byte) :
    (m.put p b).byte q = if p = q then b else m.byte q := Sparse.get_set h p q b

theorem Memory.wf_put' {m : Memory} (h : m.wf = true) (p : Nat) (b : Byte) : (m.put p b).wf = true := Sparse.wf_set h _ _

/-- A write leaves every byte outside it alone. -/
theorem Memory.byte_putAll_out {m : Memory} (h : m.wf = true) (p q : Nat) (l : List Byte) (hq : q < p ∨ p + l.length ≤ q) :
    (m.putAll p l).byte q = m.byte q := by
  induction l generalizing m p with
  | nil => rfl
  | cons b l ih =>
    simp only [List.length_cons] at hq
    rw [Memory.putAll, ih (Memory.wf_put' h p b) _ (by omega), Memory.byte_put h, if_neg (by omega)]

/-- A write is read back. -/
theorem Memory.byte_putAll_in {m : Memory} (h : m.wf = true) (p i : Nat) (l : List Byte) (hi : i < l.length) :
    (m.putAll p l).byte (p + i) = l.getD i 0 := by
  induction l generalizing m p i with
  | nil => simp at hi
  | cons b l ih =>
    rw [Memory.putAll]
    cases i with
    | zero => rw [Memory.byte_putAll_out (Memory.wf_put' h p b) _ _ _ (by omega), Memory.byte_put h, if_pos (by omega)]; rfl
    | succ i =>
      have := ih (Memory.wf_put' h p b) (p + 1) i (by simpa using hi)
      rw [show p + (i + 1) = p + 1 + i by omega, this]
      rfl

theorem Memory.bytes_putAll {m : Memory} (h : m.wf = true) (p : Nat) (l : List Byte) : (m.putAll p l).bytes p l.length = l := by
  induction l generalizing m p with
  | nil => rfl
  | cons b l ih =>
    simp only [List.length_cons, Memory.bytes, Memory.putAll]
    rw [ih (Memory.wf_put' h p b), Memory.byte_putAll_out (Memory.wf_put' h p b) _ _ _ (by omega), Memory.byte_put h, if_pos rfl]

theorem bytesOfNat_length (n v : Nat) : (bytesOfNat n v).length = n := by
  induction n generalizing v with
  | zero => rfl
  | succ n ih => simp [bytesOfNat, ih]

/-- A little-endian value is read back, in the width it was written. -/
theorem Memory.le_putLE {m : Memory} (h : m.wf = true) (p n v : Nat) : (m.putLE p n v).le p n = v % 256 ^ n := by
  unfold Memory.putLE
  induction n generalizing m p v with
  | zero => simp [Memory.le, Nat.mod_one]
  | succ n ih =>
    simp only [bytesOfNat, Memory.putAll, Memory.le]
    rw [ih (Memory.wf_put' h _ _), Memory.byte_putAll_out (Memory.wf_put' h _ _) _ _ _ (by omega), Memory.byte_put h, if_pos rfl]
    rw [BitVec.toNat_ofNat, show (2 : Nat) ^ 8 = 256 from rfl, Nat.pow_succ, Nat.mul_comm (256 ^ n) 256, Nat.mod_mul]

/-- Places of different storages are apart. -/
theorem Memory.le_putAll_out {m : Memory} (h : m.wf = true) (p q n : Nat) (l : List Byte) (hq : q + n ≤ p ∨ p + l.length ≤ q) :
    (m.putAll p l).le q n = m.le q n := by
  induction n generalizing q with
  | zero => rfl
  | succ n ih =>
    simp only [Memory.le]
    rw [ih (q + 1) (by omega), Memory.byte_putAll_out h _ _ _ (by omega)]

/-! ## The slice file -/

/-- Bit i of a slice file after a range of slices is written. -/
theorem sfWrite_getLsbD (sf : SliceFile) (a n v i : Nat) (hi : i < 512) :
    (sfWrite sf a n v).getLsbD i =
      (decide (i = 0) || if 4 * a ≤ i ∧ i < 4 * (a + n) then (v % 2 ^ (4 * n)).testBit (i - 4 * a) else sf.getLsbD i) := by
  unfold sfWrite
  simp only [BitVec.getLsbD_or, BitVec.getLsbD_and, BitVec.getLsbD_not, BitVec.getLsbD_shiftLeft, BitVec.getLsbD_ofNat, hi,
    decide_true, Bool.true_and, Nat.testBit_two_pow_sub_one]
  have h0 : Nat.testBit 1 i = decide (i = 0) := by
    have := Nat.testBit_two_pow (n := 0) (m := i)
    simpa [eq_comm] using this
  rw [h0]
  by_cases h1 : 4 * a ≤ i
  · have h3 : i - 4 * a < 512 := by omega
    by_cases h2 : i < 4 * (a + n)
    · have h4 : i - 4 * a < 4 * n := by omega
      simp [h1, h2, h3, h4, Nat.not_lt.mpr h1, Nat.testBit_mod_two_pow, Bool.or_comm]
    · have h4 : ¬ i - 4 * a < 4 * n := by omega
      simp [h1, h2, h3, h4, Nat.not_lt.mpr h1, Nat.testBit_mod_two_pow, Bool.or_comm]
  · have : i < 4 * a := by omega
    simp [h1, this, Bool.or_comm]

end Sys2Proof.Machine
end

