-- ==== Sys2Proof/Laws/Monitor.lean ====
section
/-! SUPPORT. What the health monitors' samples can do: nothing but change the monitors (R430). One lemma for each operation that takes
samples; no proof above them need unfold one. -/

namespace Sys2Proof.Machine

theorem foldl_health {α : Type} {g : State → α → State} (hg : ∀ s x, ∃ h, g s x = { s with health := h }) (l : List α) (s : State) :
    ∃ h, l.foldl g s = { s with health := h } := by
  induction l generalizing s with
  | nil => exact ⟨s.health, rfl⟩
  | cons x l ih =>
    obtain ⟨h, e⟩ := hg s x
    rw [List.foldl_cons, e]
    exact ih _

theorem State.sample_health (s : State) (m v : Nat) : ∃ h, s.sample m v = { s with health := h } := ⟨_, rfl⟩

theorem State.sampleFree_health (s : State) (m : Nat) : ∃ h, s.sampleFree m = { s with health := h } := ⟨_, rfl⟩

theorem State.hbmRead_health (s : State) (a n : Nat) : ∃ h, s.hbmRead a n = { s with health := h } :=
  foldl_health (fun s _ => s.sampleFree_health _) _ s

theorem State.noteWalk_health (s : State) (cache : Sparse Nat) (dva : Nat) : ∃ h, s.noteWalk cache dva = { s with health := h } :=
  foldl_health (fun s x => s.hbmRead_health x 8) _ s

theorem State.noteHops_health (s : State) (l : Leaf) (a : Nat) : ∃ h, s.noteHops l a = { s with health := h } :=
  foldl_health (fun s x => s.noteWalk_health [] x) _ s

theorem State.noteWalks_health (s : State) (dva : Nat) : ∃ h, s.noteWalks dva = { s with health := h } := by
  obtain ⟨h, e⟩ := s.noteWalk_health [] dva
  unfold State.noteWalks
  rw [e]
  split
  · exact State.noteHops_health _ _ _
  · exact State.noteHops_health _ _ _
  · exact ⟨h, rfl⟩

theorem State.notePages_health (s : State) (l : List Nat) : ∃ h, s.notePages l = { s with health := h } :=
  foldl_health (fun s k => s.noteWalks_health (k * 2 ^ 16)) _ s

theorem State.noteLines_health (s : State) (l : List Nat) : ∃ h, s.noteLines l = { s with health := h } := by
  obtain ⟨h, e⟩ := s.notePages_health (l.map (64 * ·))
  rw [State.noteLines, e]
  refine foldl_health (fun s x => ?_) l { s with health := h }
  split
  · exact s.hbmRead_health _ 64
  · exact ⟨s.health, rfl⟩

theorem State.noteDva_health (s : State) (a n : Nat) : ∃ h, s.noteDva a n = { s with health := h } := s.noteLines_health _

theorem State.noteServe_health (s : State) (a : Nat) : ∃ h, s.noteServe a = { s with health := h } := by
  unfold State.noteServe
  split
  · exact ⟨s.health, rfl⟩
  · exact s.noteWalks_health a

end Sys2Proof.Machine
end

