-- ==== Sys2Proof/Laws/Port.lean ====
section
/-! SUPPORT. What a task port does when nothing waits in it: an access performs at once. -/

namespace Sys2Proof.Machine

/-! ## Canonical maps -/

/-- Canonical maps that read alike are equal. -/
theorem Sparse.ext {α : Type} [DecidableEq α] {d : α} {m n : Sparse α} {lo : Nat} (hm : Sparse.wfFrom d lo m = true)
    (hn : Sparse.wfFrom d lo n = true) (h : ∀ i, Sparse.get d m i = Sparse.get d n i) : m = n := by
  induction m generalizing lo n with
  | nil =>
    cases n with
    | nil => rfl
    | cons y n =>
      obtain ⟨j, w⟩ := y
      simp only [Sparse.wfFrom, Bool.and_eq_true, decide_eq_true_eq, Bool.not_eq_true', decide_eq_false_iff_not] at hn
      have := h j
      simp only [Sparse.get, if_true] at this
      exact absurd this.symm hn.1.2
  | cons x m ih =>
    obtain ⟨k, v⟩ := x
    simp only [Sparse.wfFrom, Bool.and_eq_true, decide_eq_true_eq, Bool.not_eq_true', decide_eq_false_iff_not] at hm
    cases n with
    | nil =>
      have := h k
      simp only [Sparse.get, if_true] at this
      exact absurd this hm.1.2
    | cons y n =>
      obtain ⟨j, w⟩ := y
      simp only [Sparse.wfFrom, Bool.and_eq_true, decide_eq_true_eq, Bool.not_eq_true', decide_eq_false_iff_not] at hn
      have hkj : k = j := by
        rcases Nat.lt_trichotomy k j with hlt | he | hlt
        · have := h k
          simp only [Sparse.get, if_true] at this
          rw [if_neg (by omega), if_pos hlt] at this
          exact absurd this hm.1.2
        · exact he
        · have := h j
          simp only [Sparse.get, if_true] at this
          rw [if_neg (by omega), if_pos hlt] at this
          exact absurd this.symm hn.1.2
      subst hkj
      have hv : v = w := by simpa [Sparse.get] using h k
      subst hv
      have : m = n := ih hm.2 hn.2 fun i => by
        by_cases hi : i < k + 1
        · rw [Sparse.get_below hm.2 hi, Sparse.get_below hn.2 hi]
        · have := h i
          simpa only [Sparse.get, if_neg (show ¬ k = i by omega), if_neg (show ¬ i < k by omega)] using this
      rw [this]

/-- Writing what is there changes nothing. -/
theorem Sparse.modify_same {α : Type} [DecidableEq α] {d : α} {m : Sparse α} (h : Sparse.wf d m = true) (i : Nat) {f : α → α}
    (hf : f (Sparse.get d m i) = Sparse.get d m i) : Sparse.modify d m i f = m :=
  Sparse.ext (Sparse.wf_modify h i f) h fun j => by
    rw [Sparse.get_modify h]
    split
    · rename_i e; subst e; exact hf
    · rfl

theorem Sparse.modify_modify {α : Type} [DecidableEq α] {d : α} {m : Sparse α} (h : Sparse.wf d m = true) (i : Nat) (f g : α → α) :
    Sparse.modify d (Sparse.modify d m i f) i g = Sparse.modify d m i fun v => g (f v) :=
  Sparse.ext (Sparse.wf_modify (Sparse.wf_modify h _ _) _ _) (Sparse.wf_modify h _ _) fun j => by
    rw [Sparse.get_modify (Sparse.wf_modify h i f), Sparse.get_modify h, Sparse.get_modify h, Sparse.get_modify h]
    split <;> simp_all

/-- Two changes of one task are one. -/
theorem State.modTask_modTask {s : State} (h : s.Canonical) (k : Nat) (f g : Task → Task) :
    (s.modTask k f).modTask k g = s.modTask k fun t => g (f t) := by
  unfold State.modTask
  simp only [Sparse.modify_modify h.2.1]

theorem State.modTask_same {s : State} (h : s.Canonical) (k : Nat) {f : Task → Task} (hf : f (s.task k) = s.task k) :
    s.modTask k f = s := by
  unfold State.modTask
  rw [Sparse.modify_same h.2.1 k hf]

/-- A change of a task depends on what the function does to it only. -/
theorem State.modTask_congr {s : State} (k : Nat) {f g : Task → Task} (h : f (s.task k) = g (s.task k)) :
    s.modTask k f = s.modTask k g := by
  unfold State.modTask Sparse.modify
  have h' : f (Sparse.get {} s.tasks k) = g (Sparse.get {} s.tasks k) := h
  rw [h']

theorem State.modCmd_same {s : State} (h : s.Canonical) (k : Nat) {f : Cmd → Cmd} (hf : f (s.cmd k) = s.cmd k) :
    s.modCmd k f = s := by
  unfold State.modCmd
  rw [Sparse.modify_same h.2.2.2.2.1 k hf]

theorem State.modTask_canonical {s : State} (h : s.Canonical) (k : Nat) (f : Task → Task) : (s.modTask k f).Canonical :=
  ⟨h.1, Sparse.wf_modify h.2.1 _ _, h.2.2.1, h.2.2.2.1, h.2.2.2.2.1, h.2.2.2.2.2.1, h.2.2.2.2.2.2.1, h.2.2.2.2.2.2.2⟩

/-! ## The port -/

theorem List.map_same {α : Type} (l : List α) {f : α → α} (h : ∀ x ∈ l, f x = x) : l.map f = l := by
  have : l.map f = l.map id := List.map_congr_left h
  simpa using this

/-- With nothing counted behind it, dropping an access of the port changes the task alone. -/
theorem State.popPort_free {s : State} (h : s.Canonical) (tk : Nat) (hb : NoneBehind s tk) :
    s.popPort tk = s.modTask tk fun t => { t with port := t.port.eraseIdx 0, waitLock := none } := by
  obtain ⟨hc, hr, hm⟩ := hb
  have hops : s.rx.ops.map (fun (o : RxReq) => if o.task = tk then { o with behind := nearer 0 o.behind } else o) = s.rx.ops := by
    apply List.map_same
    intro o ho
    split
    · have := hr o ho ‹_›
      cases o
      simp_all [nearer]
    · rfl
  have hmesh : s.mesh.map (fun (m : MeshWord) => if m.src = some tk then { m with behind := nearer 0 m.behind } else m) = s.mesh := by
    apply List.map_same
    intro m hmm
    split
    · have := hm m hmm ‹_›
      cases m
      simp_all [nearer]
    · rfl
  have hfold : ∀ (l : List Nat) (u : State), u.Canonical → u.cmds = s.cmds → (∀ e ∈ l, e < 16) →
      l.foldl (fun s e => s.modCmd (cmdAt tk e) fun c => { c with behind := nearer 0 c.behind, rel := nearer 0 c.rel }) u = u := by
    intro l
    induction l with
    | nil => intros; rfl
    | cons e l ih =>
      intro u hu hcm hl
      rw [List.foldl_cons]
      have hb : (u.cmd (cmdAt tk e)).behind = 0 ∧ (u.cmd (cmdAt tk e)).rel = 0 := by
        unfold State.cmd
        rw [hcm]
        exact hc e (hl e List.mem_cons_self)
      rw [State.modCmd_same hu _ (by obtain ⟨h1, h2⟩ := hb; cases hx : u.cmd (cmdAt tk e); simp_all [nearer])]
      exact ih u hu hcm fun e he => hl e (List.mem_cons_of_mem _ he)
  unfold State.popPort State.dropPort
  simp only [hops, hmesh, if_true]
  apply hfold
  · exact State.modTask_canonical h _ _
  · rfl
  · intro e he; exact List.mem_range.1 he

/-- A watchpoint that is not enabled is not hit. -/
theorem State.watch_off {s : State} {core : Nat} (h : ∀ w, w < 8 → bitB ((s.die (dieOf core)).reg (0x132 + 4 * w)) 0 = false)
    (ctx : Nat) (tk : Option Nat) (space tile a n : Nat) (rd wr : Bool) : s.watch core ctx tk space tile a n rd wr = s := by
  unfold State.watch State.watchBy
  have : (List.range 8).find? (fun w => (s.die (dieOf core)).watchHit w (s.fieldNum core) space tile a n rd wr) = none := by
    rw [List.find?_eq_none]
    intro w hw
    have := h w (List.mem_range.1 hw)
    simp [Die.watchHit, this]
  simp only [this]

theorem State.watchLocal_off {s : State} {core : Nat}
    (h : ∀ w, w < 8 → bitB ((s.die (dieOf core)).reg (0x132 + 4 * w)) 0 = false)
    (ctx : Nat) (tk : Option Nat) (a n : Nat) (rd wr : Bool) : s.watchLocal core ctx tk a n rd wr = s := by
  unfold State.watchLocal
  split <;> exact State.watch_off h ..

/-- The state with one access in the issuing task's port. -/
def State.withPort (s : State) (a : Access) : State := s.modTask s.me fun t => { t with port := [a] }

theorem State.withPort_task {s : State} (h : s.Canonical) (a : Access) :
    (s.withPort a).task s.me = { s.task s.me with port := [a] } := State.task_modTask_self h.2.1 _ _

/-- What holds of some other entry does not depend on one entry. -/
theorem Sparse.any_set {α : Type} [DecidableEq α] {d : α} (m : Sparse α) (k : Nat) (v : α) {p : Nat × α → Bool} (hp : ∀ v, p (k, v) = false) :
    (Sparse.set d m k v).any p = m.any p := by
  induction m with
  | nil => unfold Sparse.set; split <;> simp [hp]
  | cons x m ih =>
    obtain ⟨j, w⟩ := x
    unfold Sparse.set
    split
    · split <;> simp_all
    split
    · split <;> simp [hp]
    · simp [ih]

/-- Whether an earlier .sc atomic waits elsewhere does not depend on the task itself. -/
theorem State.scWaits_modTask (s : State) (tk : Nat) (f : Task → Task) (a : Access) : (s.modTask tk f).scWaits tk a = s.scWaits tk a := by
  unfold State.scWaits
  split
  · exact Sparse.any_set _ _ _ fun _ => by simp
  · rfl

/-- An access to a free port performs at once and leaves the port, when neither a lock bit nor an earlier .sc atomic keeps it. -/
theorem State.access_free {s : State} (h : s.Canonical) (hp : PortFree s) (a : Access) (hh : (s.task s.me).held a = false)
    (hsc : s.scWaits s.me a = false) (hl : ∀ k, lockNeed s.myCore a = some k → (s.lockBit k).openTo s.me = true) :
    s.access a = ((s.withPort a).perform s.me a).popPort s.me := by
  have hpush : (s.modTask s.me fun t => { t with port := t.port ++ [a] }) = s.withPort a := by
    apply State.modTask_congr
    rw [hp.1]
    rfl
  have hheld : ((s.withPort a).task s.me).held a = false := by
    rw [State.withPort_task h]
    exact hh
  unfold State.access
  simp only [hpush]
  have hport : ((s.withPort a).task s.me).port = [a] := by rw [State.withPort_task h]
  have hwait : ((s.withPort a).task s.me).waitLock = none := by rw [State.withPort_task h]; exact hp.2.1
  have hver : (s.withPort a).verHold (coreOf s.me) = false := hp.2.2.2.1
  have hsc' : (s.withPort a).scWaits s.me a = false := (s.scWaits_modTask _ _ a).trans hsc
  rw [hport, hp.2.2.1]
  simp only [List.length_singleton, State.drainPort, hport, hwait, State.accWaits, hheld, hsc', hver, Option.isSome_none, Bool.or_self, Bool.false_eq_true,
    if_false]
  split
  · rename_i k hk
    have : ((s.withPort a).lockBit k).openTo s.me = true := hl k hk
    rw [if_pos this]
  · rfl

/-- An access that neither takes nor frees a lock bit performs its own effect, where no watchpoint is enabled. -/
theorem State.perform_plain {s : State} {tk : Nat} (h : ∀ w, w < 8 → bitB ((s.die (dieOf (coreOf tk))).reg (0x132 + 4 * w)) 0 = false)
    (a : Access) (hd : a.did = []) (hl : ∀ n, a.kind ≠ .ldl n) (hu : ∀ n v, a.kind ≠ .stu n v) : s.perform tk a = s.doAccess tk a := by
  unfold State.perform State.performWhole
  simp only [hd, List.isEmpty_nil, if_true]
  rw [State.watchLocal_off h]
  split
  · exact absurd ‹_› (hl _)
  · exact absurd ‹_› (hu _ _)
  · rfl

/-! ## Accesses to a free port -/

/-- An access performs at once and leaves the port: it has the effect of a task update that does not look at the port. -/
theorem State.access_task {s : State} (h : s.Canonical) (hp : PortFree s) (a : Access) (f : Task → Task)
    (hh : (s.task s.me).held a = false) (hsc : s.scWaits s.me a = false) (hn : lockNeed s.myCore a = none)
    (hperf : (s.withPort a).perform s.me a = (s.withPort a).modTask s.me f)
    (hf : ∀ (p : List Access) (w : Option Nat), f { s.task s.me with port := p, waitLock := w } =
      { f (s.task s.me) with port := p, waitLock := w }) : s.access a = s.modTask s.me f := by
  have hc := State.modTask_canonical h s.me fun t => { t with port := [a] }
  have hpop : ((s.withPort a).modTask s.me f).popPort s.me = s.modTask s.me f := by
    have hpp := State.popPort_free (s := (s.withPort a).modTask s.me f) (State.modTask_canonical hc _ _) s.me hp.2.2.2.2
    rw [hpp]
    unfold State.withPort
    rw [State.modTask_modTask hc, State.modTask_modTask h]
    apply State.modTask_congr
    have h1 := hf [a] none
    have h2 := hf [] none
    have hp1 := hp.1
    have hp2 := hp.2.1
    have e : s.task s.me = { s.task s.me with port := [], waitLock := none } := by rw [← hp1, ← hp2]
    have e1 : ({ s.task s.me with port := [a] } : Task) = { s.task s.me with port := [a], waitLock := none } := by rw [← hp2]
    simp only [e1, h1, List.eraseIdx_zero, List.tail_cons]
    conv => rhs; rw [e, h2]
  rw [State.access_free h hp a hh hsc (fun k hk => by rw [hn] at hk; cases hk), hperf, hpop]

/-- A load from local memory to a free port returns its bytes. -/
theorem State.accessRet_ld {s : State} (h : s.Canonical) (hp : PortFree s) (hw : Unwatched s) (n addr d m : Nat) :
    Returns s (s.accessRet (.ld n) addr d m) d m (s.readLocal s.myCore addr n) := by
  have hc := State.modTask_canonical h s.me fun t => t.addRet (some (d, m)) none none
  have hp' : PortFree (s.modTask s.me fun t => t.addRet (some (d, m)) none none) := by
    obtain ⟨a, b, l, v, c⟩ := hp
    refine ⟨?_, ?_, ?_, v, c⟩
    · rw [State.modTask_me, State.task_modTask_self h.2.1]; exact a
    · rw [State.modTask_me, State.task_modTask_self h.2.1]; exact b
    · rw [State.modTask_me, State.task_modTask_self h.2.1]; exact l
  have key : s.accessRet (.ld n) addr d m = s.modTask s.me fun t =>
      (t.addRet (some (d, m)) none none).fillRet (s.task s.me).nextRet (s.readLocal s.myCore addr n) false := by
    unfold State.accessRet
    simp only
    rw [State.access_task hc hp' _ (fun t => t.fillRet (s.task s.me).nextRet (s.readLocal s.myCore addr n) false) rfl rfl rfl ?_ ?_]
    · exact State.modTask_modTask h _ _ _
    · refine (State.perform_plain (s := (s.modTask s.me fun t => t.addRet (some (d, m)) none none).withPort _) (tk := s.me) hw _
        rfl (by intro _ hk; cases hk) (by intro _ _ hk; cases hk)).trans rfl
    · intro p w; rfl
  rw [key]
  exact ⟨State.modTask_onlyTask h _ _, State.task_modTask_self h.2.1 _ _⟩

end Sys2Proof.Machine
end

