-- ==== Sys2Proof/Tests/Slice0.lean ====
section
/-! SUPPORT. The model's own tests: what well-formedness refuses, a word of every slot operation, small cases of the operations with
results worked out by hand from the spec, and for each statement states and operands that meet its hypotheses. -/

namespace Sys2Proof.Tests

open Sys2Proof.Machine

set_option Elab.async false

/-- What the words decode to. -/
def decoded (ws : List Nat) : Option (List Instr) :=
  match decodeBundle ws with
  | .ok l => some l
  | .error _ => none

/-! ## Words written out from the spec's encodings -/

/-- A class, X = 0 (R87, R93, R99): no header, so always enabled; ADDI and LD with the 7-bit immediate -5 (b = 0x7B), ST with the 13-bit immediate 1000 (R104's 0x47 in L), SEL under a header that names !g7, MUL with w_d = 4 (7 + 1). -/
theorem test_decode_a0 :
    decoded [0x80E02859] = some [.add ⟨LoopCond.none, ⟨false, 0⟩, 3, 64, 40, 44, true⟩] ∧
    decoded [0x82E02859] = some [.sub ⟨LoopCond.none, ⟨false, 0⟩, 3, 64, 40, 44, true⟩] ∧
    decoded [0x88E02859] = some [.logAnd ⟨LoopCond.none, ⟨false, 0⟩, 3, 64, 40, 44, true⟩] ∧
    decoded [0x8AE02859] = some [.logOr ⟨LoopCond.none, ⟨false, 0⟩, 3, 64, 40, 44, true⟩] ∧
    decoded [0x8CE02859] = some [.logXor ⟨LoopCond.none, ⟨false, 0⟩, 3, 64, 40, 44, true⟩] ∧
    decoded [0x8EE02859] = some [.shl ⟨LoopCond.none, ⟨false, 0⟩, 3, 64, 40, 44, true⟩] ∧
    decoded [0x90E02859] = some [.shr ⟨LoopCond.none, ⟨false, 0⟩, 3, 64, 40, 44, true⟩] ∧
    decoded [0x98E02859] = some [.minS ⟨LoopCond.none, ⟨false, 0⟩, 3, 64, 40, 44, true⟩] ∧
    decoded [0x9AE02859] = some [.maxS ⟨LoopCond.none, ⟨false, 0⟩, 3, 64, 40, 44, true⟩] ∧
    decoded [0x84E028F7] = some [.addi ⟨LoopCond.none, ⟨false, 0⟩, false, -5, 3, 64, 40, true⟩] ∧
    decoded [0x64700000, 0x86E02858] = some [.mul ⟨LoopCond.none, ⟨false, 0⟩, some 7, 3, 64, 40, 44, false⟩] ∧
    decoded [0x93A02800] = some [.mov ⟨LoopCond.none, ⟨false, 0⟩, none, 6, 64, 40, 0, false⟩] ∧
    decoded [0x61700000, 0x94E02858] = some [.sel ⟨LoopCond.none, ⟨true, 7⟩, 3, 64, 40, 44, false⟩] ∧
    decoded [0x96ECA858] = some [.cmp ⟨LoopCond.none, ⟨false, 0⟩, 3, 89, 40, 44, false⟩] ∧
    decoded [0x9DA028F6] = some [.ld ⟨LoopCond.none, ⟨false, 0⟩, false, -5, 6, 64, 40, false⟩] ∧
    decoded [0x64700000, 0x9FA028D0] = some [.st ⟨LoopCond.none, ⟨false, 0⟩, true, 1000, 6, 64, 40, false⟩] := by
  decide +kernel

/-- A class, X = 1 (R99), under a header whose group is L = {N 1, G 2} and X = 1: the predicate is !g2. -/
theorem test_decode_a1 :
    decoded [0x61240000, 0x8120285B] = some [.mulh ⟨LoopCond.none, ⟨true, 2⟩, 4, 64, 40, 45, true⟩] ∧
    decoded [0x61240000, 0x8320285B] = some [.mulhu ⟨LoopCond.none, ⟨true, 2⟩, 4, 64, 40, 45, true⟩] ∧
    decoded [0x61240000, 0x8520285B] = some [.adds ⟨LoopCond.none, ⟨true, 2⟩, 4, 64, 40, 45, true⟩] ∧
    decoded [0x61240000, 0x8720285B] = some [.subs ⟨LoopCond.none, ⟨true, 2⟩, 4, 64, 40, 45, true⟩] ∧
    decoded [0x61240000, 0x8920285B] = some [.addsu ⟨LoopCond.none, ⟨true, 2⟩, 4, 64, 40, 45, true⟩] ∧
    decoded [0x61240000, 0x8B20285B] = some [.subsu ⟨LoopCond.none, ⟨true, 2⟩, 4, 64, 40, 45, true⟩] ∧
    decoded [0x61240000, 0x9120285B] = some [.andn ⟨LoopCond.none, ⟨true, 2⟩, 4, 64, 40, 45, true⟩] ∧
    decoded [0x61240000, 0x9520285B] = some [.rol ⟨LoopCond.none, ⟨true, 2⟩, 4, 64, 40, 45, true⟩] ∧
    decoded [0x61240000, 0x9720285B] = some [.ror ⟨LoopCond.none, ⟨true, 2⟩, 4, 64, 40, 45, true⟩] ∧
    decoded [0x60340000, 0x8D202800] = some [.neg ⟨LoopCond.none, ⟨false, 3⟩, 4, 64, 40, 0, false⟩] ∧
    decoded [0x60340000, 0x8F202800] = some [.abs ⟨LoopCond.none, ⟨false, 3⟩, 4, 64, 40, 0, false⟩] ∧
    decoded [0x60340000, 0x93202800] = some [.logNot ⟨LoopCond.none, ⟨false, 3⟩, 4, 64, 40, 0, false⟩] ∧
    decoded [0x60340000, 0x9F202800] = some [.brev ⟨LoopCond.none, ⟨false, 3⟩, 4, 64, 40, 0, false⟩] ∧
    decoded [0x64140000, 0x99E02800] = some [.clz ⟨LoopCond.none, ⟨false, 0⟩, some 1, 7, 64, 40, 0, false⟩] ∧
    decoded [0x64140000, 0x9BE02800] = some [.ctz ⟨LoopCond.none, ⟨false, 0⟩, some 1, 7, 64, 40, 0, false⟩] ∧
    decoded [0x64140000, 0x9DE02800] = some [.popc ⟨LoopCond.none, ⟨false, 0⟩, some 1, 7, 64, 40, 0, false⟩] := by
  decide +kernel

/-- A class, X = 2 (R97, R99): the floating-point operations have W = 6; FCVT converts FP32 to E4M3 toward zero (b = 0x58) under w_d = 8; MOVI's immediate -2 fills L, a and b with ones but for the last bit. -/
theorem test_decode_a2 :
    decoded [0x60180000, 0x8DA02860] = some [.fadd ⟨LoopCond.none, ⟨false, 1⟩, 6, 64, 40, 48, false⟩] ∧
    decoded [0x60180000, 0x8FA02860] = some [.fsub ⟨LoopCond.none, ⟨false, 1⟩, 6, 64, 40, 48, false⟩] ∧
    decoded [0x60180000, 0x91A02860] = some [.fmul ⟨LoopCond.none, ⟨false, 1⟩, 6, 64, 40, 48, false⟩] ∧
    decoded [0x60180000, 0x93A02860] = some [.fma ⟨LoopCond.none, ⟨false, 1⟩, 6, 64, 40, 48, false⟩] ∧
    decoded [0x60180000, 0x95A02860] = some [.fmin ⟨LoopCond.none, ⟨false, 1⟩, 6, 64, 40, 48, false⟩] ∧
    decoded [0x60180000, 0x97A02860] = some [.fmax ⟨LoopCond.none, ⟨false, 1⟩, 6, 64, 40, 48, false⟩] ∧
    decoded [0x60180000, 0x99A02860] = some [.fsgn ⟨LoopCond.none, ⟨false, 1⟩, 6, 64, 40, 48, false⟩] ∧
    decoded [0x60080000, 0x81A02801] = some [.ext ⟨LoopCond.none, ⟨false, 0⟩, none, 6, 64, 40, 0, true⟩] ∧
    decoded [0x64580000, 0x83A02861] = some [.bfx ⟨LoopCond.none, ⟨false, 0⟩, some 5, 6, 64, 40, 48, true⟩] ∧
    decoded [0x60080000, 0x85A02860] = some [.bfi ⟨LoopCond.none, ⟨false, 0⟩, 6, 64, 40, 48, false⟩] ∧
    decoded [0x64F80000, 0x87A02860] = some [.pack ⟨LoopCond.none, ⟨false, 0⟩, some 15, 6, 64, 40, 48, false⟩] ∧
    decoded [0x67F80000, 0x88E07FFC] = some [.movi ⟨LoopCond.none, -2, 3, 64⟩] ∧
    decoded [0x60080000, 0x8ACCA858] = some [.tst ⟨LoopCond.none, ⟨false, 0⟩, 3, 25, 40, 44, false⟩] ∧
    decoded [0x60080000, 0x9BA7A860] = some [.fcmp ⟨LoopCond.none, ⟨false, 0⟩, 6, 79, 40, 48, false⟩] ∧
    decoded [0x64180000, 0x9DA028B1] = some [.fcvt ⟨LoopCond.none, ⟨false, 0⟩, some 1, 6, 64, 40, 88, true⟩] ∧
    decoded [0x60080000, 0x9FA02800] = some [.frcp ⟨LoopCond.none, ⟨false, 0⟩, 6, 64, 40, 0, false⟩] := by
  decide +kernel

/-- A class, X = 3 (R97-R99): TOPK with k = 4 and tag code 1 (L = 0x31); LDL and STU with the 13-bit immediate -4096 (L[5:0] = 0x20), SPILL and FILL with the 7-bit one 63; PUSH to fq, POP from vin, HFLD of h11's field 17, HFSET of h11's field 13. -/
theorem test_decode_a3 :
    decoded [0x600C0000, 0x81A02800] = some [.frsq ⟨LoopCond.none, ⟨false, 0⟩, 6, 64, 40, 0, false⟩] ∧
    decoded [0x631C0000, 0x82E02859] = some [.topk ⟨LoopCond.none, 4, 1, 3, 64, 40, 44, true⟩] ∧
    decoded [0x673C0000, 0x84500800] = some [.topkc ⟨LoopCond.none, 8, 3, 1, 32, 8, 0, false⟩] ∧
    decoded [0x660C0000, 0x87A02800] = some [.ldl ⟨LoopCond.none, ⟨false, 0⟩, true, -4096, 6, 64, 40, false⟩] ∧
    decoded [0x660C0000, 0x89A02800] = some [.stu ⟨LoopCond.none, ⟨false, 0⟩, true, -4096, 6, 64, 40, false⟩] ∧
    decoded [0x605C0000, 0x8AA0287E] = some [.spill ⟨LoopCond.none, ⟨false, 5⟩, false, 63, 2, 64, 40, false⟩] ∧
    decoded [0x605C0000, 0x8CA0287E] = some [.fill ⟨LoopCond.none, ⟨false, 5⟩, false, 63, 2, 64, 40, false⟩] ∧
    decoded [0x600C0000, 0x8FC02804] = some [.push ⟨LoopCond.none, ⟨false, 0⟩, 7, 0, 40, 2, false⟩] ∧
    decoded [0x600C0000, 0x91E00000] = some [.pop ⟨LoopCond.none, ⟨false, 0⟩, 7, 64, 0, 0, false⟩] ∧
    decoded [0x600C0000, 0x93E00B22] = some [.hfld ⟨LoopCond.none, ⟨false, 0⟩, 7, 64, 11, 17, false⟩] ∧
    decoded [0x600C0000, 0x95C5A81A] = some [.hfset ⟨LoopCond.none, ⟨false, 0⟩, 7, 11, 40, 13, false⟩] := by
  decide +kernel

/-- Stream commands and the queue (R88, R94, R198, R199): h3, H2 = h4 and NT = 9 with NK = 1 where the command takes them. -/
theorem test_decode_streams :
    decoded [0x62500000, 0xA01A5515] = some [.sld ⟨LoopCond.none, 3, 4, 9, 37, 40, true, false, 2, true⟩] ∧
    decoded [0x62500000, 0xA09FF50D] = some [.sst ⟨LoopCond.none, 3, 4, 9, 127, 40, false, true, 2, true⟩] ∧
    decoded [0x62500000, 0xA1180505] = some [.scp ⟨LoopCond.none, 3, 4, 9, 0, 40, false, false, 2, true⟩] ∧
    decoded [0x62500000, 0xA19FF505] = some [.sga ⟨LoopCond.none, 3, 4, 9, 127, 40, false, false, 2, true⟩] ∧
    decoded [0x62400000, 0xA21E0505] = some [.ssc ⟨LoopCond.none, 3, 0, 9, 96, 40, false, false, 2, true⟩] ∧
    decoded [0x62500000, 0xA299F50D] = some [.srec ⟨LoopCond.none, 3, 4, 9, 31, 40, false, true, 2, true⟩] ∧
    decoded [0x62500000, 0xA31BF50D] = some [.smc ⟨LoopCond.none, 3, 4, 9, 63, 40, false, true, 2, true⟩] ∧
    decoded [0xA3980506] = some [.sfil ⟨LoopCond.none, 3, 0, 0, 0, 40, false, false, 3, false⟩] ∧
    decoded [0x67C00000, 0xA4180001] = some [.scfg LoopCond.none 3 31 true] ∧
    decoded [0x67C00000, 0xA4800013] = some [.sbar LoopCond.none 9 31 true] ∧
    decoded [0xA500001F] = some [.skil LoopCond.none true 15] ∧
    decoded [0xA5800E0F] = some [.ssta LoopCond.none 112 15] := by
  decide +kernel

/-- Tokens, counters, cards, futures and rings (R88, R101, R199). -/
theorem test_decode_tokens :
    decoded [0xA805FE04] = some [.sig LoopCond.none 31 112 4] ∧
    decoded [0xA8840E02] = some [.sigm LoopCond.none 0 112 2] ∧
    decoded [0xA905F007] = some [.bind LoopCond.none 31 7] ∧
    decoded [0xA985F000] = some [.unbind LoopCond.none 31] ∧
    decoded [0xAA000F1F] = some [.dcset LoopCond.none 120 31] ∧
    decoded [0xAA80001F] = some [.dcdec LoopCond.none 31] ∧
    decoded [0xAB780E00] = some [.draw ⟨LoopCond.none, 15, 112⟩] ∧
    decoded [0xABF80E00] = some [.fput ⟨LoopCond.none, 15, 112⟩] ∧
    decoded [0xAC780E00] = some [.resv ⟨LoopCond.none, 15, 112⟩] ∧
    decoded [0xACF80F00] = some [.publ ⟨LoopCond.none, 15, 120⟩] ∧
    decoded [0xAD780E1F] = some [.rtake ⟨LoopCond.none, 15, 112⟩ 31] := by
  decide +kernel

/-- Atomics (R229): h5, operand s40, 8 bytes, order .sc, scope group; ACAS of 4 bytes with failure order .acq; ALD .acq and AST .rel. -/
theorem test_decode_atomics :
    decoded [0xB02E5513] = some [.aadd ⟨LoopCond.none, 5, 40, 3, 4, 5, 0⟩] ∧
    decoded [0xB0AE5513] = some [.amin ⟨LoopCond.none, 5, 40, 3, 4, 5, 0⟩] ∧
    decoded [0xB12E5513] = some [.amax ⟨LoopCond.none, 5, 40, 3, 4, 5, 0⟩] ∧
    decoded [0xB1AE5513] = some [.aminu ⟨LoopCond.none, 5, 40, 3, 4, 5, 0⟩] ∧
    decoded [0xB22E5513] = some [.amaxu ⟨LoopCond.none, 5, 40, 3, 4, 5, 0⟩] ∧
    decoded [0xB2AE5513] = some [.aand ⟨LoopCond.none, 5, 40, 3, 4, 5, 0⟩] ∧
    decoded [0xB32E5513] = some [.aor ⟨LoopCond.none, 5, 40, 3, 4, 5, 0⟩] ∧
    decoded [0xB3AE5513] = some [.axor ⟨LoopCond.none, 5, 40, 3, 4, 5, 0⟩] ∧
    decoded [0xB42E5513] = some [.aswp ⟨LoopCond.none, 5, 40, 3, 4, 5, 0⟩] ∧
    decoded [0xB4AED512] = some [.acas ⟨LoopCond.none, 5, 40, 2, 4, 5, 1⟩] ∧
    decoded [0xB52E0507] = some [.ald ⟨LoopCond.none, 5, 40, 3, 1, 0, 0⟩] ∧
    decoded [0xB5AE0508] = some [.ast ⟨LoopCond.none, 5, 40, 0, 2, 0, 0⟩] := by
  decide +kernel

/-- Matching, handles, RSYN and TINV (R199). -/
theorem test_decode_messages :
    decoded [0xB8280F00] = some [.mpost ⟨LoopCond.none, 5, 120⟩] ∧
    decoded [0xB8A80F00] = some [.msend ⟨LoopCond.none, 5, 120⟩] ∧
    decoded [0xB9000F00] = some [.mprobe ⟨LoopCond.none, 120⟩] ∧
    decoded [0xB9800F00] = some [.mcancel ⟨LoopCond.none, 120⟩] ∧
    decoded [0xBA000F00] = some [.mtest ⟨LoopCond.none, 120⟩] ∧
    decoded [0xBC280F00] = some [.hld ⟨LoopCond.none, 5, 120⟩] ∧
    decoded [0xBCA80F00] = some [.hst ⟨LoopCond.none, 5, 120⟩] ∧
    decoded [0x60240000, 0xBD280000] = some [.hmov LoopCond.none 5 9] ∧
    decoded [0xBD800F00] = some [.rsyn ⟨LoopCond.none, 120⟩] ∧
    decoded [0xBE000E01] = some [.tinv LoopCond.none 112 true] := by
  decide +kernel

/-- C class (R89, R95, R102) under the predicate !g3. LOOPI's count is 300 = 2 * 128 + 44, R163's own example but for the predicate; LIND's stride -300 is {0x1FD, 84}. -/
theorem test_decode_control :
    decoded [0xC1300000] = some [.nop ⟨LoopCond.none, ⟨true, 3⟩⟩] ∧
    decoded [0xC33FFFF8] = some [.br ⟨LoopCond.none, ⟨true, 3⟩⟩ (-8)] ∧
    decoded [0x61F00000, 0xC5380000] = some [.brl ⟨LoopCond.none, ⟨true, 3⟩⟩ 124 (-524288)] ∧
    decoded [0xC73F8000] = some [.jmp ⟨LoopCond.none, ⟨true, 3⟩⟩ 124] ∧
    decoded [0xC9358006] = some [.loop ⟨LoopCond.none, ⟨true, 3⟩⟩ 44 6] ∧
    decoded [0x60080000, 0xCB358006] = some [.loopi ⟨LoopCond.none, ⟨true, 3⟩⟩ 300 6] ∧
    decoded [0x67F40000, 0xCD3515D4] = some [.lind ⟨LoopCond.none, ⟨true, 3⟩⟩ 40 5 3 (-300)] ∧
    decoded [0xCF300005] = some [.lbrk ⟨LoopCond.none, ⟨true, 3⟩⟩ 5] ∧
    decoded [0xD1300000] = some [.endTask ⟨LoopCond.none, ⟨true, 3⟩⟩] ∧
    decoded [0xD3300000] = some [.yield ⟨LoopCond.none, ⟨true, 3⟩⟩] ∧
    decoded [0xD530001F] = some [.waitc ⟨LoopCond.none, ⟨true, 3⟩⟩ 31] ∧
    decoded [0xD73F0A3C] = some [.waitf ⟨LoopCond.none, ⟨true, 3⟩⟩ 120 40 15] ∧
    decoded [0xD9300015] = some [.fence ⟨LoopCond.none, ⟨true, 3⟩⟩ 2 5] ∧
    decoded [0xDB30FFFF] = some [.trap ⟨LoopCond.none, ⟨true, 3⟩⟩ 65535] ∧
    decoded [0xDD308001] = some [.bkpt ⟨LoopCond.none, ⟨true, 3⟩⟩ 32769] := by
  decide +kernel

/-- SYS sub-operations (R103), the predicate g0: MFS of TCYCLE, MTS of PICKFLOOR. -/
theorem test_decode_sys :
    decoded [0xDE000003] = some [.prio ⟨LoopCond.none, ⟨false, 0⟩⟩ 3] ∧
    decoded [0xDE01F002] = some [.mfs ⟨LoopCond.none, ⟨false, 0⟩⟩ 120 2] ∧
    decoded [0xDE02F010] = some [.mts ⟨LoopCond.none, ⟨false, 0⟩⟩ 16 120] ∧
    decoded [0xDE03F001] = some [.eret ⟨LoopCond.none, ⟨false, 0⟩⟩ 120 true] ∧
    decoded [0xDE04E000] = some [.ipage ⟨LoopCond.none, ⟨false, 0⟩⟩ 112] ∧
    decoded [0xDE05F000] = some [.hold ⟨LoopCond.none, ⟨false, 0⟩⟩ 120] := by
  decide +kernel

/-! ## What well-formedness refuses, one ill-formed term for each check -/

/-- An operand record that every A-class check accepts, of 32 bits at s64, s40 and s48. -/
def okP : OpP := ⟨LoopCond.none, Pred.always, 6, 64, 40, 48, false⟩
def okW : OpW := ⟨LoopCond.none, Pred.always, none, 6, 64, 40, 0, false⟩
def okI : OpI := ⟨LoopCond.none, Pred.always, false, 0, 6, 64, 40, false⟩
def okK : OpK := ⟨LoopCond.none, 4, 1, 3, 64, 40, 44, true⟩
def okS : OpStr := ⟨LoopCond.none, 1, 0, 0, 0, 40, false, false, 0, false⟩
def okA : OpAt := ⟨LoopCond.none, 1, 40, 2, 0, 0, 0⟩
def okH : OpHS := ⟨LoopCond.none, 1, 40⟩
def c0 : Ctl := ⟨LoopCond.none, Pred.always⟩

/-- None of a list of instructions is well formed. -/
def allIll (l : List Instr) : Bool := l.all fun i => !i.wf

/-- The records the tests start from are well formed. -/
theorem test_wf_accepts :
    [Instr.add okP, .mov okW, .addi okI, .topk okK, .sld { okS with port := 5 }, .aadd okA, .draw okH, .nop c0].all Instr.wf = true := by
  decide +kernel

/-- Loop conditions (R91): a level above 5; a level without a flag. -/
theorem test_wf_loopCond : allIll [.nop { c0 with lc := ⟨true, false, 6⟩ }, .nop { c0 with lc := ⟨false, false, 1⟩ }] = true := by decide +kernel

/-- Predicates (R89): gate 16. Under a loop flag L has two bits (R95): gate 4, an inverted gate. -/
theorem test_wf_predicate : allIll [.nop { c0 with p := ⟨false, 16⟩ }, .add { okP with p := ⟨false, 16⟩ },
    .add { okP with lc := ⟨true, false, 0⟩, p := ⟨false, 4⟩ }, .add { okP with lc := ⟨true, false, 0⟩, p := ⟨true, 1⟩ }] = true := by decide +kernel

/-- Field ranges of the A forms (R87, R93): W 8; slice 128; a width code beside a predicate, or above 15; immediates past 7, 13 and
21 bits, a 13-bit one beside a predicate; k of 0 and 9; tag code 16. -/
theorem test_wf_aFields : allIll [.add { okP with w := 8 }, .add { okP with d := 128 }, .add { okP with a := 128 }, .add { okP with b := 128 },
    .mul { okW with c := some 3, p := ⟨false, 1⟩ }, .mul { okW with c := some 16 }, .addi { okI with imm := 64 }, .addi { okI with imm := -65 },
    .addi { okI with long := true, imm := 4096 }, .addi { okI with long := true, p := ⟨true, 2⟩ }, .movi ⟨LoopCond.none, 1048576, 3, 64⟩,
    .topk { okK with k := 0 }, .topk { okK with k := 9, w := 0, t := 0 }, .topk { okK with t := 16 }] = true := by decide +kernel

/-- What the opcode map fixes (R96, R97, R149): b of a unary form, x where it must be 0, the conditions, W of a floating-point form,
format widths, widths of LD and ST, the FIFOs and the handle fields. -/
theorem test_wf_aMap : allIll [.neg okP, .mov { okW with b := 1 }, .sel { okP with x := true }, .cmp { okP with d := 6 * 16 },
    .tst { okP with d := 2 * 16 }, .fcmp { okP with d := 5 * 16 }, .fadd { okP with w := 5 }, .fadd { okP with x := true }, .fcmp { okP with d := 0, w := 7 },
    .frcp okP, .fcvt { okW with b := 1 }, .fcvt { okW with b := 8 }, .topkc okK, .ld { okI with w := 2 }, .st { okI with w := 0 },
    .push { okP with d := 0, b := 0 }, .push { okP with d := 1, b := 1 }, .pop { okP with a := 0, b := 1 }, .pop { okP with a := 1, b := 0 },
    .hfld { okP with a := 16, b := 0 }, .hfld { okP with a := 1, b := 18 }, .hfset { okP with d := 16, b := 0 }, .hfset { okP with d := 1, b := 18 }] =
    true := by decide +kernel

/-- Stream commands (R199, R200): the port of each, lockstep and PK where they do not stand, NT without NK, H2 where it must be 0. -/
theorem test_wf_streams : allIll [.sld { okS with port := 0x60 }, .sld { okS with port := 0x40, pk := true }, .sld { okS with port := 0x40, ls := true },
    .sst okS, .sst { okS with port := 0x60, ls := true }, .scp { okS with port := 1 }, .scp { okS with pk := true }, .sga { okS with port := 0x7E },
    .sga { okS with h2 := 1 }, .ssc { okS with port := 0x60, h2 := 1 }, .srec { okS with port := 0x40 }, .smc { okS with ls := true },
    .sfil { okS with pk := true }, .sld { okS with nt := 1 }, .sld { okS with h := 16 }, .sld { okS with h2 := 16 }, .sld { okS with nk := true, nt := 32 },
    .sld { okS with cls := 4 }, .scfg LoopCond.none 1 1 false, .sbar LoopCond.none 16 0 false, .skil LoopCond.none false 16,
    .ssta LoopCond.none 40 16] = true := by decide +kernel

/-- Other E commands (R101, R199, R229): channel 32, scope 5 of SIG, context 8, counter 32, RTAKE maximum code 32; sizes, orders and
failure orders of the atomics; handle 16. -/
theorem test_wf_eMap : allIll [.sig LoopCond.none 32 40 0, .sig LoopCond.none 0 40 5, .bind LoopCond.none 0 8, .unbind LoopCond.none 32, .dcset LoopCond.none 40 32,
    .dcdec LoopCond.none 32, .rtake okH 32, .aadd { okA with ord := 5 }, .aadd { okA with scope := 6 }, .aadd { okA with size := 4 },
    .aadd { okA with ford := 1 }, .acas { okA with size := 3 }, .acas { okA with ford := 2 }, .ald { okA with ord := 2 }, .ast { okA with ord := 1 },
    .hmov LoopCond.none 16 0, .draw { okH with h := 16 }] = true := by decide +kernel

/-- C forms (R102, R103, R168): offsets past 20 bits, link start 0, levels, LOOPI counts and LIND strides under a flag, counters,
WAITF's gate 0, kinds, scopes and codes, priorities, system registers that are not assigned or not writable. -/
theorem test_wf_cMap : allIll [.br c0 524288, .brl c0 0 0, .jmp c0 128, .loop c0 40 8192, .loopi c0 65536 1,
    .loopi { c0 with lc := ⟨true, false, 0⟩ } 2048 1, .lind c0 40 6 3 0, .lind c0 40 0 3 32768, .lind { c0 with lc := ⟨true, false, 0⟩ } 40 0 3 1024,
    .lbrk c0 6, .waitc c0 32, .waitf c0 120 40 0, .waitf c0 120 40 16, .fence c0 3 0, .fence c0 0 6, .trap c0 65536, .bkpt c0 65536, .prio c0 4, .mfs c0 40 6,
    .mfs c0 40 512, .mts c0 6 40, .mts c0 0 40, .mts c0 0x40 40, .brl { c0 with lc := ⟨true, false, 0⟩ } 16 0] = true := by decide +kernel

/-- Slice ranges that pass s127 (R66): each operand in turn, the whole list of TOPK, a handle command's operand. -/
theorem test_wf_slices : allIll [.add { okP with d := 121 }, .add { okP with a := 121 }, .add { okP with b := 121 }, .mul { okW with c := some 15, d := 113 },
    .addi { okI with a := 121 }, .movi ⟨LoopCond.none, 0, 3, 125⟩, .topk { okK with d := 105 }, .sld { okS with s := 113 }, .srec { okS with s := 125 },
    .aadd { okA with s := 113 }, .draw { okH with s := 113 }, .publ { okH with s := 121 }, .brl c0 125 0, .jmp c0 125, .loop c0 123 2,
    .waitf c0 121 40 1, .waitf c0 40 113 1, .mfs c0 121 0, .eret c0 121 false, .ipage c0 113] = true := by decide +kernel

/-- Events name dies below 4, fields below 256, fibres below 64, slots below 16, intake slots below 64 and queues below 4,096. -/
theorem test_wf_events : allIll [.ready 4, .faultRecordWrite 4, .stepselCeiling 4 0, .preempt 4 0, .preempt 0 256, .rotorSlot 64 0, .rotorSlot 0 16,
    .flitReceive 0 0 [], .wavelengthDegrade 64, .queueMap 4096 0, .queueUnmap 64, .notify 64 0, .notify 0 (2 ^ 64)] = true := by decide +kernel

/-! ## Small cases: one slot on one state -/

/-- A slice file with values at ranges: start, width in bits, value. -/
def slices (l : List (Nat × Nat × Nat)) : SliceFile := l.foldl (fun sf x => sfWrite sf x.1 (x.2.1 / 4) x.2.2) 1

/-- Task 0 of die 0's management core issues a bundle that reads these slices. -/
def issuing (l : List (Nat × Nat × Nat)) : State :=
  { State.reset with
    tasks := [(2040, { st := .runnable, vc := some 0 })]
    issue := { task := 2040, addr := 0x120, next := 0x128, sf := slices l, vc := some 0 } }

/-- The one result a slot sends: latency, destination, value. -/
def landing (i : Instr) (s : State) : Option (Nat × Dst × Nat) :=
  match exec i s with
  | .next t => match (t.task 2040).flight with
    | [f] => some (f.rc + 1, f.dst, f.val.toNat)
    | _ => none
  | _ => none

/-- A property of the next state; false on a stop. -/
def after (i : Instr) (s : State) (p : State → Bool) : Bool :=
  match exec i s with
  | .next t => p t
  | _ => false

/-- Operands a at s8, b at s24, the old destination at s40, of width code w. -/
def abd (w a b d : Nat) : State := issuing [(8, wBits w, a), (24, wBits w, b), (40, wBits w, d)]
def pForm (w : Nat) (x : Bool) : OpP := ⟨LoopCond.none, Pred.always, w, 40, 8, 24, x⟩
def wForm (w : Nat) (c : Option Nat) (x : Bool) : OpW := ⟨LoopCond.none, Pred.always, c, w, 40, 8, 24, x⟩
/-- A result of w bits at s40, with its latency. -/
def at40 (lat bits v : Nat) : Option (Nat × Dst × Nat) := some (lat, .range 40 (bits / 4), v)

/-- Sums wrap at w_d, and clamp where the table says so (R139): 0xF0 + 0x20; 3 - 5 in 4 bits; 0x7F + 1 and 0x80 - 1 signed; 0xFF + 1 and
1 - 2 unsigned; ADDI of 13 bits. -/
theorem test_sums :
    landing (.add (pForm 1 false)) (abd 1 0xF0 0x20 0) = at40 1 8 0x10 ∧ landing (.sub (pForm 0 false)) (abd 0 3 5 0) = at40 1 4 0xE ∧
    landing (.adds (pForm 1 true)) (abd 1 0x7F 1 0) = at40 1 8 0x7F ∧ landing (.subs (pForm 1 true)) (abd 1 0x80 1 0) = at40 1 8 0x80 ∧
    landing (.addsu (pForm 1 true)) (abd 1 0xFF 1 0) = at40 1 8 0xFF ∧ landing (.subsu (pForm 1 true)) (abd 1 1 2 0) = at40 1 8 0 ∧
    landing (.addi ⟨LoopCond.none, Pred.always, true, -1000, 3, 40, 8, false⟩) (abd 3 1 0 0) = at40 1 16 0xFC19 := by decide +kernel

/-- R139's own products, 0xFFFF by 2 into 32 bits; the high halves of -1 * 1 signed and of 255 * 255; latency 5. -/
theorem test_products :
    landing (.mul (wForm 3 (some 7) true)) (abd 3 0xFFFF 2 0) = at40 5 32 0xFFFFFFFE ∧
    landing (.mul (wForm 3 (some 7) false)) (abd 3 0xFFFF 2 0) = at40 5 32 0x0001FFFE ∧
    landing (.mulh (pForm 1 true)) (abd 1 0xFF 1 0) = at40 5 8 0xFF ∧ landing (.mulhu (pForm 1 true)) (abd 1 0xFF 0xFF 0) = at40 5 8 0xFE := by decide +kernel

/-- NEG and ABS of the most negative value return it; MIN and MAX are signed with x = 0 (R139). -/
theorem test_signs :
    landing (.neg { pForm 1 true with b := 0 }) (abd 1 0x80 0 0) = at40 1 8 0x80 ∧ landing (.abs { pForm 1 true with b := 0 }) (abd 1 0x80 0 0) = at40 1 8 0x80 ∧
    landing (.minS (pForm 1 false)) (abd 1 0x80 1 0) = at40 1 8 0x80 ∧ landing (.minS (pForm 1 true)) (abd 1 0x80 1 0) = at40 1 8 1 ∧
    landing (.maxS (pForm 1 false)) (abd 1 0x80 1 0) = at40 1 8 1 ∧ landing (.maxS (pForm 1 true)) (abd 1 0x80 1 0) = at40 1 8 0x80 := by decide +kernel

/-- Logic on 0xC and 0xA; MOV sign-extends into 16 bits; EXT clamps -32768 to 8 bits; MOVI; SEL under !g2 with g2 = 0 takes A (R139). -/
theorem test_logic :
    landing (.logAnd (pForm 0 false)) (abd 0 0xC 0xA 0) = at40 1 4 8 ∧ landing (.logOr (pForm 0 false)) (abd 0 0xC 0xA 0) = at40 1 4 0xE ∧
    landing (.logXor (pForm 0 false)) (abd 0 0xC 0xA 0) = at40 1 4 6 ∧ landing (.andn (pForm 0 false)) (abd 0 0xC 0xA 0) = at40 1 4 4 ∧
    landing (.logNot { pForm 0 false with b := 0 }) (abd 0 0xC 0xA 0) = at40 1 4 3 ∧
    landing (.mov { wForm 1 (some 3) true with b := 0 }) (abd 1 0x80 0 0) = at40 1 16 0xFF80 ∧
    landing (.ext { wForm 3 (some 1) true with b := 0 }) (abd 3 0x8000 0 0) = at40 1 8 0x80 ∧
    landing (.movi ⟨LoopCond.none, -2, 3, 40⟩) (abd 3 0 0 0) = at40 1 16 0xFFFE ∧
    landing (.sel { pForm 0 false with p := ⟨true, 2⟩ }) (abd 0 0xC 0xA 0) = at40 1 4 0xC := by decide +kernel

/-- Shifts by less and by more than the width, rotates, reversal (R140). -/
theorem test_shifts :
    landing (.shl (pForm 1 false)) (abd 1 0x81 1 0) = at40 1 8 2 ∧ landing (.shl (pForm 1 true)) (abd 1 0x81 200 0) = at40 1 8 0 ∧
    landing (.shr (pForm 1 true)) (abd 1 0x80 7 0) = at40 1 8 0xFF ∧ landing (.shr (pForm 1 false)) (abd 1 0x80 7 0) = at40 1 8 1 ∧
    landing (.rol (pForm 1 false)) (abd 1 0x81 9 0) = at40 1 8 3 ∧ landing (.ror (pForm 1 false)) (abd 1 0x81 1 0) = at40 1 8 0xC0 ∧
    landing (.brev { pForm 1 false with b := 0 }) (abd 1 0x13 0 0) = at40 1 8 0xC8 := by decide +kernel

/-- Counts, R140's own BFX and BFI; PACK puts b above a. -/
theorem test_fields :
    landing (.clz { wForm 1 none false with b := 0 }) (abd 1 0 0 0) = at40 1 8 8 ∧ landing (.ctz { wForm 1 none false with b := 0 }) (abd 1 0x50 0 0) = at40 1 8 4 ∧
    landing (.popc { wForm 1 none false with b := 0 }) (abd 1 0xFE 0 0) = at40 1 8 7 ∧
    landing (.bfx (wForm 3 none true)) (abd 3 0xABCD 0x0184 0) = at40 1 16 0x003C ∧
    landing (.bfi (pForm 3 false)) (abd 3 0x007F 0x0184 0xABCD) = at40 1 16 0xAFFD ∧
    landing (.pack (wForm 1 (some 3) false)) (abd 1 0x34 0x12 0) = at40 1 16 0x1234 := by decide +kernel

/-- Gates (R141): -1 < 0 under x = 1 and not under x = 0; TST.z of disjoint bits; FCMP.un of a NaN, with latency 5. -/
theorem test_compares :
    landing (.cmp { pForm 1 true with d := 2 * 16 + 7 }) (abd 1 0xFF 0 0) = some (1, .gate 7, 1) ∧
    landing (.cmp { pForm 1 false with d := 2 * 16 + 7 }) (abd 1 0xFF 0 0) = some (1, .gate 7, 0) ∧
    landing (.tst { pForm 1 false with d := 16 + 15 }) (abd 1 0xF0 0x0F 0) = some (1, .gate 15, 1) ∧
    landing (.fcmp { pForm 6 false with d := 4 * 16 + 1 }) (abd 6 0x7FC00000 0 0) = some (5, .gate 1, 1) := by decide +kernel

/-- FP32 (R142): 1 + 2; 1 - 1 = +0; 2 * 0.5; 2 * 3 + 1; the smaller of -0 and +0; the larger of 1 and a NaN; the sign of -2 on 1; 1/2; 1/sqrt 4.
-/
theorem test_floats :
    landing (.fadd (pForm 6 false)) (abd 6 0x3F800000 0x40000000 0) = at40 5 32 0x40400000 ∧
    landing (.fsub (pForm 6 false)) (abd 6 0x3F800000 0x3F800000 0) = at40 5 32 0 ∧
    landing (.fmul (pForm 6 false)) (abd 6 0x40000000 0x3F000000 0) = at40 5 32 0x3F800000 ∧
    landing (.fma (pForm 6 false)) (abd 6 0x40000000 0x40400000 0x3F800000) = at40 5 32 0x40E00000 ∧
    landing (.fmin (pForm 6 false)) (abd 6 0 0x80000000 0) = at40 5 32 0x80000000 ∧
    landing (.fmax (pForm 6 false)) (abd 6 0x3F800000 0xBF800000 0) = at40 5 32 0x3F800000 ∧
    landing (.fsgn (pForm 6 false)) (abd 6 0x3F800000 0xC0000000 0) = at40 5 32 0xBF800000 ∧
    landing (.frcp { pForm 6 false with b := 0 }) (abd 6 0x40000000 0 0) = at40 5 32 0x3F000000 ∧
    landing (.frsq { pForm 6 false with b := 0 }) (abd 6 0x40800000 0 0) = at40 5 32 0x3F000000 := by decide +kernel

/-- R143's own conversions of 150.0 to 8-bit integers, with and without saturation, and of infinity to itself with saturation. -/
theorem test_fcvt :
    landing (.fcvt { wForm 6 (some 1) true with b := 0x30 }) (abd 6 0x43160000 0 0) = at40 5 8 0x7F ∧
    landing (.fcvt { wForm 6 (some 1) false with b := 0x30 }) (abd 6 0x43160000 0 0) = at40 5 8 0x80 ∧
    landing (.fcvt { wForm 6 none true with b := 0 }) (abd 6 0x7F800000 0 0) = at40 5 32 0x7F7FFFFF := by decide +kernel

/-- R146's list before its last insertion takes (100, 9) after the (100, 3) it already holds; TOPKC's list is keys 0x8000 with tags of
ones. -/
theorem test_topk :
    landing (.topk ⟨LoopCond.none, 4, 1, 3, 64, 40, 44, true⟩) (issuing [(64, 96, 0x8000FF8000FF00640300FA07), (40, 16, 100), (44, 16, 9)]) =
      some (2, .list 64 24, 0x8000FF00640900640300FA07) ∧
    landing (.topkc ⟨LoopCond.none, 4, 1, 3, 64, 40, 0, true⟩) (issuing [(40, 16, 0x8000)]) = some (2, .list 64 24, 0x8000FF8000FF8000FF8000FF) := by
  decide +kernel

/-- A dense one-dimensional row handle (R61). -/
def hnd (base space fmt ext str : Nat) : Handle :=
  BitVec.ofNat 256 (base + space * 2 ^ 48 + fmt * 2 ^ 51 + ext * 2 ^ 72 + str * 2 ^ 152)

/-- The issuing task with slices, with a handle as h1, and with bytes from granary address 0x1000_0000 on. -/
def withGranary (l : List (Nat × Nat × Nat)) (h : Handle) (bytes : List Byte) : State :=
  let s := issuing l
  { s with
    mem := Memory.putAll [] (place (.granary 0) 0) bytes
    tasks := [(2040, { st := .runnable, vc := some 0, hs := [(1, h)] })]
    issue := { s.issue with hs := [(1, h)] } }

/-- The value of the task's only return. -/
def returned (i : Instr) (s : State) : Option Nat :=
  match exec i s with
  | .next t => match (t.task 2040).rets with
    | [r] => r.val.map BitVec.toNat
    | _ => none
  | _ => none

/-- n bytes of the granary, from offset o on, after a slot. -/
def granary (i : Instr) (s : State) (o n : Nat) : Option (List Byte) :=
  match exec i s with
  | .next t => some (t.read (.granary 0) o n)
  | _ => none

def mForm (w : Nat) (imm : Int) : OpI := ⟨LoopCond.none, Pred.always, true, imm, w, 40, 8, false⟩
def hForm : OpHS := ⟨LoopCond.none, 1, 40⟩

/-- LD and ST are little-endian with a signed offset (R149): the 16 bits at 0x1000_0004 - 3; 0xABCD at 0x1000_0000 + 1. -/
theorem test_ld_st :
    returned (.ld (mForm 3 (-3))) (withGranary [(8, 32, 0x10000004)] 0 [0x11, 0x22, 0x33, 0x44]) = some 0x3322 ∧
    granary (.st (mForm 3 1)) (withGranary [(8, 32, 0x10000000), (40, 16, 0xABCD)] 0 [0x11, 0x22, 0x33, 0x44]) 0 4 = some [0x11, 0xCD, 0xAB, 0x44] := by
  decide +kernel

/-- R79's own SPILL of 12 bits at an odd nibble, in the granary, and the FILL after it. -/
theorem test_spill_fill :
    granary (.spill (mForm 2 1)) (withGranary [(8, 32, 0x10000000), (40, 12, 0xCBA)] 0 [0x12, 0x34]) 0 2 = some [0xA2, 0xCB] ∧
    returned (.fill (mForm 2 1)) (withGranary [(8, 32, 0x10000000)] 0 [0xA2, 0xCB]) = some 0xCBA := by decide +kernel

/-- LDL at offset 0x410 of tile 0's bin takes lock bit 0x41 XOR 1 = 0 of 64 (R150); an STU of the holder frees it. -/
theorem test_ldl_stu :
    (after (.ldl (mForm 6 0)) (withGranary [(8, 32, 0x20000410)] 0 []) fun t =>
      (t.lockBit 0).held && decide ((t.lockBit 0).holder = 2040) && decide (t.locks.length = 1)) = true ∧
    (after (.stu (mForm 6 0)) { withGranary [(8, 32, 0x20000410), (40, 32, 7)] 0 [] with locks := [(0, { held := true, holder := 2040 })] } fun t =>
      decide (t.locks = []) && decide (t.read (.bin 0) 0x410 4 = [7, 0, 0, 0])) = true := by decide +kernel

/-- PUSH to vout goes to the tile and channel of VOUTDST, to fq it waits there; POP takes the oldest word (R152, R153). -/
theorem test_fifos :
    (let s := issuing [(8, 16, 0xBEEF)]
     after (.push { pForm 3 false with d := 0, b := 1 }) { s with issue := { s.issue with voutdst := 0x00020511#32 } } fun t =>
       decide (t.mesh = [⟨some 2040, 2 * 256 + 5, 17, 0xBEEF, true, 0, 0⟩])) = true ∧
    (after (.push { pForm 3 false with d := 0, b := 2 }) (issuing [(8, 16, 0xBEEF)]) fun t => decide ((t.task 2040).fq = [0xBEEF])) = true ∧
    returned (.pop { pForm 3 false with a := 0, b := 0 }) { issuing [] with tiles := [(255, { vcs := [(0, [0x12345, 6])] })] } = some 0x12345 ∧
    (after (.pop { pForm 3 false with a := 0, b := 0 }) { issuing [] with tiles := [(255, { vcs := [(0, [0x12345, 6])] })] } fun t =>
      decide ((t.tile 255).vc 0 = [6])) = true := by decide +kernel

/-- Handle fields (R61, R156): a stride of -4 is sign-extended into 64 bits; HFSET of EXT0 keeps the other fields; HMOV copies; HLD and
HST move 32 bytes. -/
theorem test_handles :
    landing (.hfld { pForm 7 false with a := 1, b := 13 }) (withGranary [] (hnd 0 2 6 1 (2 ^ 26 - 4)) []) = some (1, .range 40 16, 2 ^ 64 - 4) ∧
    (after (.hfset { pForm 7 false with d := 1, b := 9 }) (withGranary [(8, 64, 0x300007)] (hnd 0x10 2 6 1 1) []) fun t =>
      decide ((t.task 2040).hs = [(1, hnd 0x10 2 6 7 1)])) = true ∧
    (after (.hmov LoopCond.none 9 1) (withGranary [] (hnd 0x10 2 6 1 1) []) fun t =>
      decide ((t.task 2040).hs = [(1, hnd 0x10 2 6 1 1), (9, hnd 0x10 2 6 1 1)])) = true ∧
    returned (.hld hForm) (withGranary [(40, 32, 0x10000000)] 0 [1, 2]) = some 0x201 ∧
    granary (.hst hForm) (withGranary [(40, 32, 0x10000000)] 0x0706#256 []) 0 3 = some [6, 7, 0] := by decide +kernel

/-- A card of 100 elements, 4 takers and a minimum of 8 gives ceil(100 / 8) = 13 elements from 0; of 10 more than its next, 8 (R44). -/
theorem test_draw :
    returned (.draw hForm) (withGranary [] (hnd 0x10000000 2 6 64 1) [0, 0, 0, 0, 100, 0, 0, 0, 8, 0, 0, 0, 4, 0]) = some (13 * 2 ^ 32) ∧
    returned (.draw hForm) (withGranary [] (hnd 0x10000000 2 6 64 1) [90, 0, 0, 0, 100, 0, 0, 0, 8, 0, 0, 0, 4, 0]) = some (8 * 2 ^ 32 + 90) := by
  decide +kernel

/-- R228's ring, block at 0x1000_0000, lg 2, slot size 64, slots at 0x1000_0040, after two RESVs (step 3 and 4, and step 6's state). -/
def ring (tail take stamp0 stamp1 : Nat) : List Byte :=
  bytesOfNat 4 tail ++ bytesOfNat 4 take ++ bytesOfNat 4 0 ++ [2, 0, 0, 0] ++ bytesOfNat 4 64 ++ bytesOfNat 4 0x10000040 ++ List.replicate 40 0 ++
    bytesOfNat 4 stamp0 ++ List.replicate 60 0 ++ bytesOfNat 4 stamp1

theorem test_rings :
    returned (.resv hForm) (withGranary [] (hnd 0x10000000 2 6 64 1) (ring 1 0 0 0)) = some (0x10000080 * 2 ^ 32 + 1) ∧
    granary (.publ hForm) (withGranary [(40, 32, 1)] (hnd 0x10000000 2 6 64 1) (ring 2 0 0 0)) 128 4 = some [2, 0, 0, 0] ∧
    returned (.rtake hForm 7) (withGranary [] (hnd 0x10000000 2 6 64 1) (ring 2 0 0 2)) = some 0 ∧
    returned (.rtake hForm 7) (withGranary [] (hnd 0x10000000 2 6 64 1) (ring 2 0 1 2)) = some (2 * 2 ^ 32) := by decide +kernel

/-- FPUT fills a future and sets its full flag; WAITF of a full future returns its value, of an empty one parks (R38, R39). -/
theorem test_futures :
    granary (.fput hForm) (withGranary [(40, 64, 0x0102)] (hnd 0x10000000 2 6 16 1) []) 0 9 = some [2, 1, 0, 0, 0, 0, 0, 0, 1] ∧
    returned (.waitf c0 8 40 3) (withGranary [(8, 32, 0x10000000)] 0 [9, 0, 0, 0, 0, 0, 0, 0, 1]) = some 9 ∧
    (after (.waitf c0 8 40 3) (withGranary [(8, 32, 0x10000000)] 0 []) fun t => decide ((t.task 2040).st = .parked)) = true := by decide +kernel

/-- One atomic of one byte (R229): 0xF0 in memory, operand o in slices. -/
def byteAtomic (i : OpAt → Instr) (v : Nat) : Option (List Byte) :=
  granary (i ⟨LoopCond.none, 1, 40, 0, 0, 0, 0⟩) (withGranary [(40, 64, v)] (hnd 0x10000000 2 6 64 1) [0xF0]) 0 1

/-- R229's table on 0xF0 (-16): sums wrap, AMIN and AMAX are signed; ACAS swaps only on the expected value; ALD leaves the byte. -/
theorem test_atomics :
    byteAtomic .aadd 0x20 = some [0x10] ∧ byteAtomic .amin 1 = some [0xF0] ∧ byteAtomic .amax 1 = some [1] ∧ byteAtomic .aminu 1 = some [1] ∧
    byteAtomic .amaxu 1 = some [0xF0] ∧ byteAtomic .aand 0x3C = some [0x30] ∧ byteAtomic .aor 0x0C = some [0xFC] ∧ byteAtomic .axor 0xFF = some [0x0F] := by
  decide +kernel

theorem test_swaps :
    byteAtomic .aswp 5 = some [5] ∧ byteAtomic .acas (0xF0 * 2 ^ 32 + 5) = some [5] ∧ byteAtomic .acas (0xF1 * 2 ^ 32 + 5) = some [0xF0] ∧
    byteAtomic .ald 5 = some [0xF0] ∧ byteAtomic .ast 5 = some [5] ∧
    returned (.aadd ⟨LoopCond.none, 1, 40, 0, 0, 0, 0⟩) (withGranary [(40, 64, 0x20)] (hnd 0x10000000 2 6 64 1) [0xF0]) = some 0xF0 := by decide +kernel

/-- Task 0 of tile 1 of a LIVE field of two tiles (0 and 1) of die 0 issues a bundle, with handle h as h1. -/
def fieldTask (l : List (Nat × Nat × Nat)) (h : Handle) : State :=
  { State.reset with
    tasks := [(8, { st := .runnable, vc := some 0, hs := [(1, h)] })]
    tiles := [(0, { fld := some 0, ver := 1 }), (1, { fld := some 0, ver := 1 })]
    fields := [(0, { st := .live, w := 2, h := 1, ver := 1, gwbase := 0x10000000, gwsize := 0x10000 })]
    issue := { task := 8, addr := 0x120, next := 0x128, sf := slices l, hs := [(1, h)], vc := some 0 } }

/-- After a slot over a handle of n elements, entry 0 of the issuing task's queue waits with an operation code, a slice value and the
commands counted. -/
def queued (i : Instr) (op v : Nat) (n : Nat := 64) : Bool :=
  after i (fieldTask [(40, 64, v)] (hnd 0x10000000 2 6 n 1)) fun t =>
    decide ((t.cmd 128).st = .waiting) && decide ((t.cmd 128).op = op) && decide ((t.cmd 128).sop = BitVec.ofNat 64 v) && decide ((t.task 8).q = 1)

/-- Every queue command takes entry q mod 16 with its slice value as it stood (R201, R202). -/
theorem test_queue :
    queued (.sld { okS with port := 5 }) 0 0 = true ∧ queued (.sst { okS with port := 0x61 }) 1 0 = true ∧
    queued (.scp { okS with h2 := 1 }) 2 0 = true ∧ queued (.sga { okS with port := 0x7F, h2 := 1 }) 3 0xFF00 1 = true ∧
    queued (.ssc { okS with port := 0x70 }) 4 0xFF0100 = true ∧ queued (.smc { okS with port := 5 }) 6 0x0101000000000000 = true ∧
    queued (.sfil okS) 7 0xAB = true := by decide +kernel

theorem test_queue_more :
    queued (.scfg LoopCond.none 1 0 false) 8 0 = true ∧ queued (.sbar LoopCond.none 9 0 false) 9 0 = true ∧
    queued (.msend okH) 0x31 0x10000100 = true := by decide +kernel

/-- SKIL ends a waiting command KILLED; SSTA of a waiting SFIL reports STATE 1 and OP 7 (R203, R204). -/
theorem test_skil_ssta :
    let s := { fieldTask [] 0 with cmds := [(128, { st := .waiting, op := 7 })] }
    (after (.skil LoopCond.none false 0) s fun t => decide ((t.cmd 128).st = .killed)) = true ∧
    (after (.ssta LoopCond.none 40 0) s fun t => decide ((t.task 8).rets.map (fun r => r.val.map BitVec.toNat) = [some (1 + 7 * 2 ^ 10)])) = true := by
  decide +kernel

/-- SIG to tile 0x20 of die 3, channel 4: payload in [31:0], sender's module tile 1 and context 0 above; SIGM reaches both tiles (R221). -/
theorem test_sig :
    (after (.sig LoopCond.none 4 40 0) (fieldTask [(40, 64, 0x030055667788 + 0x20 * 2 ^ 32)] 0) fun t =>
      decide (t.mesh = [⟨some 8, 3 * 256 + 0x20, 4, 0x155667788, false, 0, 0⟩])) = true ∧
    (after (.sigm LoopCond.none 4 40 0) (fieldTask [(40, 64, 0x0102000000000007)] 0) fun t =>
      decide (t.mesh = [⟨some 8, 0, 4, 0x100000007, false, 0, 0⟩, ⟨some 8, 1, 4, 0x100000007, false, 0, 0⟩])) = true := by decide +kernel

/-- BIND takes the channel from the task that held it, and a FREE context is left alone; UNBIND (R17). -/
theorem test_bind :
    let s := { fieldTask [] 0 with tasks := [(8, { st := .runnable, vc := some 0 }), (9, { st := .parked, kind := .endK })] }
    (after (.bind LoopCond.none 0 1) s fun t => decide ((t.task 8).vc = none) && decide ((t.task 9).vc = some 0)) = true ∧
    (after (.bind LoopCond.none 0 2) s fun t => decide (t = s)) = true ∧
    (after (.unbind LoopCond.none 0) s fun t => decide ((t.task 8).vc = none)) = true := by decide +kernel

/-- DCSET binds counter 3 to context 2 with value 5; DCDEC of 1 wakes the task that waits on it; of 0 it sets UF (R34, R35). -/
theorem test_counters :
    let s := { fieldTask [(40, 32, 0xA0005)] 0 with
      tasks := [(8, { st := .runnable, vc := some 0 }), (10, { st := .parked, kind := .waitc, waitDc := 3, pc := 0x40 })]
      tiles := [(1, { fld := some 0, ver := 1, counters := [(3, { val := 1, bound := some 2 })] })] }
    (after (.dcset LoopCond.none 40 3) s fun t => decide ((t.tile 1).counter 3 = { val := 5, bound := some 2 })) = true ∧
    (after (.dcdec LoopCond.none 3) s fun t => decide ((t.task 10).st = .runnable) && decide ((t.task 10).pc = 0x40)) = true ∧
    (after (.dcdec LoopCond.none 4) s fun t => ((t.tile 1).counter 4).uf) = true := by decide +kernel

/-- The match operations go to the matching unit with the values they read (R184). -/
theorem test_match_sends :
    let s := fieldTask [(40, 32, 0x10000100)] (hnd 0x10000000 2 6 64 1)
    (after (.mpost okH) s fun t => decide (t.rx.ops = [⟨8, 0, .post 0x10000100 (hnd 0x10000000 2 6 64 1)⟩])) = true ∧
    (after (.mprobe ⟨LoopCond.none, 40⟩) s fun t => decide (t.rx.ops = [⟨8, 0, .probe 0x10000100⟩])) = true ∧
    (after (.mcancel ⟨LoopCond.none, 40⟩) s fun t => decide (t.rx.ops = [⟨8, 0, .cancel 0x10000100⟩])) = true ∧
    (after (.mtest ⟨LoopCond.none, 40⟩) s fun t => decide (t.rx.ops = [⟨8, 0, .test 0x10000100 0⟩])) = true := by decide +kernel

/-- RSYN with no request outstanding returns the number pushed, here 3; TINV with size code 3 returns 1 (R238, R239). -/
theorem test_rsyn_tinv :
    (let s := issuing []
     after (.rsyn ⟨LoopCond.none, 40⟩) { s with issue := { s.issue with reqNo := 65539 } } fun t =>
       decide ((t.task 2040).rets.map (fun r => r.val.map BitVec.toNat) = [some 3])) = true ∧
    returned (.tinv LoopCond.none 40 false) (issuing [(40, 64, 3 * 2 ^ 48)]) = some 1 := by decide +kernel

/-- Branches (R158): R104's own BR of -8 words from 0x0120 goes to 0x0100; BRL links 0x0128; JMP clears bits [1:0]. NOP changes nothing. -/
theorem test_branches :
    (after (.br c0 (-8)) (issuing []) fun t => decide (t.issue.taken = some 0x100)) = true ∧
    landing (.brl c0 40 4) (issuing []) = some (1, .range 40 4, 0x128) ∧
    (after (.jmp c0 40) (issuing [(40, 16, 0xFFFF)]) fun t => decide (t.issue.taken = some 0xFFFC)) = true ∧
    (after (.nop c0) (issuing []) fun t => decide (t = issuing [])) = true := by decide +kernel

/-- LOOP and LOOPI activate level 0 from the bundle after to the end they name; LIND binds; LBRK leaves one pass (R160, R163). -/
theorem test_loops :
    (after (.loop c0 40 6) (issuing [(40, 24, 3)]) fun t => decide ((t.task 2040).levels = [(0, { bs := 0x128, be := 0x138, remaining := 3 })])) = true ∧
    (after (.loopi c0 300 6) (issuing []) fun t => decide ((levelOf (t.task 2040).levels 0).remaining = 300)) = true ∧
    (after (.loopi c0 0 6) (issuing []) fun t => decide (t.issue.zeroLoop = some 0x138)) = true ∧
    (after (.lind c0 40 0 3 (-2)) (issuing []) fun t => decide ((levelOf (t.task 2040).levels 0).ind = some ⟨40, 3, 0xFFFE⟩)) = true ∧
    (after (.lbrk c0 0) { issuing [] with tasks := [(2040, { st := .runnable, levels := [(0, { remaining := 9 })] })] } fun t =>
      decide ((levelOf (t.task 2040).levels 0).remaining = 1)) = true := by decide +kernel

/-- END parks without a word and runs on with one; YIELD; WAITC of a counter that is not zero parks; PRIO; FENCE with nothing owed (R32-R36,
R164, R166). -/
theorem test_parking :
    (after (.endTask c0) (issuing []) fun t => decide ((t.task 2040).st = .parked)) = true ∧
    (after (.endTask c0) { issuing [] with tiles := [(255, { vcs := [(0, [5])] })] } fun t => decide ((t.task 2040).st = .runnable)) = true ∧
    (after (.yield c0) (issuing []) fun t => decide ((t.tile 255).last = [(0, 0)])) = true ∧
    (after (.waitc c0 3) { issuing [] with tiles := [(255, { counters := [(3, { val := 1 })] })] } fun t =>
      decide ((t.task 2040).kind = .waitc)) = true ∧
    (after (.prio c0 3) (issuing []) fun t => decide ((t.task 2040).prio = 3)) = true ∧
    (after (.fence c0 0 0) (issuing []) fun t => decide (t = issuing [])) = true := by decide +kernel

/-- TRAP resumes after its bundle, BKPT at its own; on a task of a field both leave a record with their code (R50, R167). -/
theorem test_traps :
    (after (.trap c0 7) (fieldTask [] 0) fun t => decide ((t.task 8).st = .held) && decide ((t.task 8).pc = 0x128) &&
      decide ((t.die 0).recs.map (fun r => (r.cause, r.info, r.addr)) = [(.trap, 7, 0x120)])) = true ∧
    (after (.bkpt c0 9) (fieldTask [] 0) fun t => decide ((t.task 8).st = .held) && decide ((t.task 8).pc = 0x120) &&
      decide ((t.die 0).recs.map (fun r => (r.cause, r.info)) = [(.bkpt, 9)])) = true := by decide +kernel

set_option maxRecDepth 100000 in
/-- R170's own IPAGE of 0x1020_0000 into page 1 of tile 17: its loaded bit is clear while the copy runs. -/
theorem test_ipage :
    (after (.ipage c0 40) { issuing [(40, 64, 0x0000011110200000)] with mem := [(place (.granary 0) 0x200005, 0x5A)], tiles := [(17, { pages := 3 })] } fun t =>
      decide ((t.tile 17).pages = 1) && (let u := t.copyDone 17 2040
        decide ((u.tile 17).pages = 3) && decide (u.read (.istore 17) 0x1005 1 = [0x5A]))) = true := by decide +kernel

/-- R170's own ERET of tile 17's context 3. MFS of TASKID, MTS of PICKFLOOR, HOLD of a RUNNABLE task (R168, R169). -/
theorem test_sys :
    (after (.eret c0 56 false) { issuing [(56, 32, 0x311)] with tasks := [(139, { st := .held, rem := .runnable })] } fun t =>
      decide ((t.task 139).st = .runnable)) = true ∧
    (after (.hold c0 56) { issuing [(56, 32, 0x311)] with tasks := [(139, { st := .runnable })] } fun t =>
      decide ((t.task 139).st = .held) && decide ((t.task 139).rem = .runnable)) = true ∧
    returned (.mfs c0 40 0) (issuing []) = some (2 ^ 26 + 255 * 2 ^ 16 + 255 * 2 ^ 8) ∧
    (after (.mts c0 0x10 40) (issuing [(40, 32, 0xFFFFFFFF)]) fun t => decide ((t.tile 255).pickfloor = 0x003F3F3F)) = true := by decide +kernel

/-! ## Witnesses: states and operands that meet the hypotheses of each statement -/

/-- The canonical form, as a computation. -/
def canonB (s : State) : Bool :=
  s.mem.wf && Sparse.wf ({} : Task) s.tasks && Sparse.wf ({} : Tile) s.tiles && Sparse.wf ({} : Cell) s.cells && Sparse.wf ({} : Cmd) s.cmds &&
    Sparse.wf ({} : Lock) s.locks && Sparse.wf ({} : Field) s.fields && Sparse.wf ({} : Die) s.dies

theorem canonical_of {s : State} (h : canonB s = true) : s.Canonical := by
  simpa [canonB, State.Canonical, and_assoc] using h

/-- A free port, as a computation. -/
def portB (s : State) : Bool :=
  decide ((s.task s.me).port = []) && decide ((s.task s.me).waitLock = none) && decide ((s.task s.me).lag = false) &&
    decide (s.verHold s.myCore = false) &&
    (List.range 16).all (fun e => decide ((s.cmd (cmdAt s.me e)).behind = 0 ∧ (s.cmd (cmdAt s.me e)).rel = 0)) && decide (s.rx.ops = []) &&
    s.mesh.all (fun m => decide (m.src = some s.me → m.behind = 0))

theorem portFree_of {s : State} (h : portB s = true) : PortFree s := by
  simp only [portB, Bool.and_eq_true, decide_eq_true_eq, List.all_eq_true, List.mem_range] at h
  exact ⟨h.1.1.1.1.1.1, h.1.1.1.1.1.2, h.1.1.1.1.2, h.1.1.1.2, h.1.1.2, by simp [h.1.2], h.2⟩

/-- No watchpoint, as a computation. -/
def quietB (s : State) (c : Nat) : Bool := (List.range 8).all fun w => !bitB ((s.die (dieOf c)).reg (0x132 + 4 * w)) 0

theorem quiet_of {s : State} {c : Nat} (h : quietB s c = true) : ∀ w, w < 8 → bitB ((s.die (dieOf c)).reg (0x132 + 4 * w)) 0 = false := by
  simpa [quietB] using h

theorem unwatched_of {s : State} (h : quietB s s.myCore = true) : Unwatched s := quiet_of h

/-- A stop is no next state. -/
def isNext (o : Host.Outcome State Fault Refusal) : Bool :=
  match o with
  | .next _ => true
  | _ => false

theorem next_of {o : Host.Outcome State Fault Refusal} (h : isNext o = true) : ∃ t, o = .next t := by
  cases o with
  | next t => exact ⟨t, rfl⟩
  | fault _ => cases h
  | refused _ => cases h

/-- A state and a slot that acts on it, over operands of every kind. -/
def base : State := withGranary [(8, 32, 0x10000000), (40, 32, 0x10000000)] (hnd 0x10000000 2 6 64 1) []

theorem witness_DecodingUndoesEncoding :
    (∃ i : Instr, i.isSlot = true ∧ i.wf = true ∧ i.standsAlone = true) ∧ ∃ i : Instr, i.isSlot = true ∧ i.wf = true ∧ i.standsAlone = false :=
  ⟨⟨.brl c0 124 (-524288), by decide +kernel⟩, ⟨.loopi c0 65535 1, by decide +kernel⟩⟩

/-- Die 0's management core with a NOP at its task's pc, its turn next. -/
def nopCore : State :=
  { issuing [] with
    mem := Memory.putAll [] (place (.istore 255) 0) (bytesOfNat 4 0xC0000000)
    tiles := [(255, { pages := 1 })]
    pkg := { started := true }
    agenda := [.core 255] }

theorem witness_StepTakesItsTurn :
    (∃ (s : State) (i : Instr) (l : List Turn), s.agenda = .run i :: l ∧ i.isSlot = false) ∧
    ∃ (s : State) (c x : Nat) (l : List Turn) (b : List Instr),
      s.agenda = .core c :: l ∧ coreExists c = true ∧
      let a : State := { s with agenda := l }
      let e := a.boundaries c
      a.coreRuns c = true ∧ e.pick c (e.standing c .yes) = some x ∧
      let f := (e.marks c (e.standing c .queue)).taking c x
      ((f.modTask (taskAt c x) Task.landDue).bundleAt (taskAt c x)).1 = .good b ∧
      let g := f.issueState (taskAt c x)
      g.bundleCause b = none ∧ ∃ u, runSlots exec (slotOrder b) (g.issued b) = .next u :=
  ⟨⟨{ State.reset with agenda := [.run .stepRecovery] }, .stepRecovery, [], rfl, rfl⟩,
   nopCore, 255, 0, [], [.nop c0], rfl, rfl, by decide +kernel, by decide +kernel, by decide +kernel, by decide +kernel, next_of (by decide +kernel)⟩

theorem witness_EveryStepKeepsTheInvariant : ∃ s t : State, s.Inv ∧ step s = .next t := by
  obtain ⟨t, h⟩ : ∃ t, step { State.reset with agenda := [.tick 1] } = .next t := next_of (by decide +kernel)
  exact ⟨{ State.reset with agenda := [.tick 1] }, t, ⟨canonical_of (by decide +kernel), fun _ => (by decide +kernel : gateRead (1#512) 0 = true), by decide +kernel⟩, h⟩

theorem witness_SliceWritesReadBack :
    (∃ (sf : SliceFile) (a n : Nat), a + n ≤ 128 ∧ gateRead sf 0 = true ∧ 1 ≤ a ∧ ∃ b m, b + m ≤ a ∧ b + m ≤ 128) ∧
    (∃ (sf : SliceFile) (a n : Nat), a + n ≤ 128 ∧ gateRead sf 0 = true ∧ a = 0 ∧ 1 ≤ n ∧ ∃ b m, a + n ≤ b ∧ b + m ≤ 128) ∧
    ∃ (sf : SliceFile) (g : Nat), g < 16 ∧ gateRead sf 0 = true ∧ ∃ i, i < 512 ∧ i ≠ g :=
  ⟨⟨1, 1, 127, by decide +kernel, by decide +kernel, by decide, 0, 1, by decide, by decide⟩,
   ⟨1, 0, 128, by decide, by decide +kernel, rfl, by decide, 128, 0, by decide, by decide⟩, 1, 15, by decide, by decide +kernel, 511, by decide, by decide⟩

theorem witness_ResultsLandAfterTheirLatency :
    ∃ (t : Task) (d : Dst) (v : BitVec 512) (lat : Nat), 1 ≤ lat ∧ t.replay = [] ∧ t.flight = [⟨lat - 1, d, v⟩] ∧ ∃ k, k + 1 < lat :=
  ⟨{ flight := [⟨4, .range 40 8, 7⟩] }, .range 40 8, 7, 5, by decide, rfl, rfl, 3, by decide⟩

/-- The base state acts on every form whose predicate is g0. -/
theorem base_acts : base.Canonical ∧ base.acts LoopCond.none Pred.always = true := ⟨canonical_of (by decide +kernel), by decide +kernel⟩

theorem witness_ArithmeticResultsLand :
    ∃ s : State, s.Canonical ∧ (∃ o : OpP, s.acts o.lc o.p = true) ∧ (∃ o : OpI, s.acts o.lc o.p = true) ∧ ∃ o : OpW, s.acts o.lc o.p = true :=
  ⟨base, base_acts.1, ⟨okP, base_acts.2⟩, ⟨okI, base_acts.2⟩, okW, base_acts.2⟩

theorem witness_LogicAndMovesLand :
    ∃ s : State, s.Canonical ∧ (∃ o : OpP, s.acts o.lc o.p = true ∧ s.acts o.lc Pred.always = true) ∧
      (∃ o : OpW, s.acts o.lc o.p = true ∧ o.x = true) ∧ (∃ o : OpW, s.acts o.lc o.p = true ∧ o.x = false) ∧ ∃ o : OpM, s.acts o.lc Pred.always = true :=
  ⟨base, base_acts.1, ⟨okP, base_acts.2, base_acts.2⟩, ⟨{ okW with x := true }, base_acts.2, rfl⟩, ⟨okW, base_acts.2, rfl⟩, ⟨LoopCond.none, 0, 3, 40⟩,
    base_acts.2⟩

/-- Shift counts of 63 and 64. -/
theorem witness_ShiftsAndFieldsLand :
    (∃ (s : State) (o : OpP), s.Canonical ∧ s.acts o.lc o.p = true ∧ s.rd o.b (wBits o.w) < 64) ∧
    (∃ (s : State) (o : OpP), s.Canonical ∧ s.acts o.lc o.p = true ∧ 64 ≤ s.rd o.b (wBits o.w)) ∧
    ∃ (s : State) (o : OpW), s.Canonical ∧ s.acts o.lc o.p = true :=
  ⟨⟨abd 3 1 63 0, pForm 3 false, canonical_of (by decide +kernel), by decide +kernel, by decide +kernel⟩,
   ⟨abd 3 1 64 0, pForm 3 true, canonical_of (by decide +kernel), by decide +kernel, by decide +kernel⟩, base, okW, base_acts⟩

theorem witness_ComparesWriteOneGate :
    ∃ (s : State) (o : OpP), s.Canonical ∧ s.acts o.lc o.p = true ∧ o.d / 16 < 6 ∧ ∃ o' : OpP, s.acts o'.lc o'.p = true ∧ o'.d / 16 < 2 :=
  ⟨base, { okP with d := 95 }, base_acts.1, base_acts.2, by decide, { okP with d := 31 }, base_acts.2, by decide⟩

theorem witness_FloatResultsLand :
    (∃ (s : State) (o : OpP), s.Canonical ∧ s.acts o.lc o.p = true ∧ (fdec fp32 (s.rd o.a 32)).isNan = true) ∧
    (∃ (s : State) (o : OpP), s.Canonical ∧ s.acts o.lc o.p = true ∧ (fdec fp32 (s.rd o.a 32)).isNan = false) ∧
    ∃ (s : State) (o : OpW), s.Canonical ∧ s.acts o.lc o.p = true :=
  ⟨⟨abd 6 0x7F800001 0 0, pForm 6 false, canonical_of (by decide +kernel), by decide +kernel, by decide +kernel⟩,
   ⟨abd 6 0x7F800000 0 0, pForm 6 false, canonical_of (by decide +kernel), by decide +kernel, by decide +kernel⟩, base, okW, base_acts⟩

/-- A code that is a NaN and one that is not. -/
theorem witness_CodesSurviveDecodingAndRounding :
    (∃ f ∈ [fp32, fp16, bf16, e4m3, e5m2, e2m1], ∃ c, c < 2 ^ f.w ∧ (fdec f c).isNan = true) ∧
    ∃ f ∈ [fp32, fp16, bf16, e4m3, e5m2, e2m1], ∃ c, c < 2 ^ f.w ∧ (fdec f c).isNan = false :=
  ⟨⟨e4m3, by decide +kernel, 0xFF, by decide +kernel, by decide +kernel⟩, ⟨e2m1, by decide +kernel, 15, by decide +kernel, by decide +kernel⟩⟩

/-- A key's rank, and key i of a list, as the statement has them. -/
def topkRank (w : Nat) (x : Bool) (k : Nat) : Int := if x = true then (if k.testBit (w - 1) = true then (k : Int) - 2 ^ w else (k : Int)) else (k : Int)
def topkKey (s : State) (o : OpK) (i : Nat) : Nat :=
  s.rd o.d (o.k * (wBits o.w + 4 * (o.t + 1))) / 2 ^ (i * (wBits o.w + 4 * (o.t + 1)) + 4 * (o.t + 1)) % 2 ^ wBits o.w

/-- A list whose every key is at least the new one, and one into which the new key goes first. -/
theorem witness_TopkInsertsInOrder :
    (∃ (s : State) (o : OpK), s.Canonical ∧ s.acts o.lc Pred.always = true ∧ 1 ≤ o.k ∧
      ∀ j < o.k, topkRank (wBits o.w) o.x (s.rd o.a (wBits o.w)) ≤ topkRank (wBits o.w) o.x (topkKey s o j)) ∧
    ∃ (s : State) (o : OpK) (i : Nat), s.Canonical ∧ s.acts o.lc Pred.always = true ∧ 1 ≤ o.k ∧ i < o.k ∧
      (∀ j < i, topkRank (wBits o.w) o.x (s.rd o.a (wBits o.w)) ≤ topkRank (wBits o.w) o.x (topkKey s o j)) ∧
      topkRank (wBits o.w) o.x (topkKey s o i) < topkRank (wBits o.w) o.x (s.rd o.a (wBits o.w)) ∧ ∃ j, i < j ∧ j < o.k :=
  ⟨⟨issuing [(64, 96, 0), (40, 16, 0x8000)], okK, canonical_of (by decide +kernel), by and_intros <;> decide +kernel⟩,
   issuing [(64, 96, 0), (40, 16, 1)], okK, 0, canonical_of (by decide +kernel), by decide +kernel, by decide, by decide, by decide, by decide +kernel, 3,
   by decide, by decide⟩

/-- What every slot statement assumes of a state: canonical, an empty port, no watchpoint, and g0's predicate acting. -/
def ready (s : State) : Prop := s.Canonical ∧ PortFree s ∧ Unwatched s ∧ s.acts LoopCond.none Pred.always = true

theorem ready_of {s : State} (h : (canonB s && portB s && quietB s s.myCore && s.acts LoopCond.none Pred.always) = true) : ready s := by
  simp only [Bool.and_eq_true] at h
  exact ⟨canonical_of h.1.1.1, portFree_of h.1.1.2, unwatched_of h.1.2, h.2⟩

/-- LD of the last word of the granary; LDL of a bin granule with its bit free; FILL of 16 nibbles that end the granary. -/
theorem witness_LoadsReturnMemory :
    (∃ (s : State) (o : OpI), s.Canonical ∧ PortFree s ∧ Unwatched s ∧ s.acts o.lc o.p = true ∧
      s.chk s.myCore (((s.rd o.a 32 : Int) + o.imm) % 2 ^ 32).toNat (wBits o.w / 8) = none) ∧
    (∃ (s : State) (o : OpI) (k : Nat), s.Canonical ∧ PortFree s ∧ Unwatched s ∧ s.acts o.lc o.p = true ∧
      let a := (((s.rd o.a 32 : Int) + o.imm) % 2 ^ 32).toNat
      let n := wBits o.w / 8
      s.chk s.myCore a n = none ∧ a / 16 = (a + n - 1) / 16 ∧ ¬ (0x10000000 ≤ a ∧ a < 0x16000000) ∧ lockOf s.myCore a = some k ∧
        (s.lockBit k).openTo s.me = true) ∧
    ∃ (s : State) (o : OpI), s.Canonical ∧ PortFree s ∧ Unwatched s ∧ s.acts o.lc o.p = true ∧
      let na := ((2 * (s.rd o.a 32 : Int) + o.imm) % 2 ^ 33).toNat
      s.chk s.myCore (na / 2) ((na + wBits o.w / 4 - 1) / 2 - na / 2 + 1) = none := by
  obtain ⟨h1, h2, h3, h4⟩ : ready (withGranary [(8, 32, 0x15FFFFFC)] 0 []) := ready_of (by decide +kernel)
  obtain ⟨g1, g2, g3, g4⟩ : ready (withGranary [(8, 32, 0x200BFFFC)] 0 []) := ready_of (by decide +kernel)
  obtain ⟨f1, f2, f3, f4⟩ : ready (withGranary [(8, 32, 0x15FFFFF8)] 0 []) := ready_of (by decide +kernel)
  exact ⟨⟨_, mForm 6 0, h1, h2, h3, h4, by decide +kernel⟩, ⟨_, mForm 6 0, 976, g1, g2, g3, g4, by decide +kernel⟩, _, mForm 7 0, f1, f2, f3, f4,
    by decide +kernel⟩

/-- The same three places for ST, STU (whose bit the task holds, or does not) and SPILL. -/
theorem witness_StoresWriteMemory :
    (∃ (s : State) (o : OpI) (k : Nat), s.Canonical ∧ PortFree s ∧ Unwatched s ∧ s.acts o.lc o.p = true ∧
      let a := (((s.rd o.a 32 : Int) + o.imm) % 2 ^ 32).toNat
      let n := wBits o.w / 8
      s.chk s.myCore a n = none ∧ a / 16 = (a + n - 1) / 16 ∧ ¬ (0x10000000 ≤ a ∧ a < 0x16000000) ∧ lockOf s.myCore a = some k ∧
        (s.lockBit k).heldBy s.me = false) ∧
    ∃ (s : State) (o : OpI), s.Canonical ∧ PortFree s ∧ Unwatched s ∧ s.acts o.lc o.p = true ∧
      s.chk s.myCore (((s.rd o.a 32 : Int) + o.imm) % 2 ^ 32).toNat (wBits o.w / 8) = none ∧
      let na := ((2 * (s.rd o.a 32 : Int) + o.imm) % 2 ^ 33).toNat
      s.chk s.myCore (na / 2) ((na + wBits o.w / 4 - 1) / 2 - na / 2 + 1) = none := by
  obtain ⟨g1, g2, g3, g4⟩ : ready (withGranary [(8, 32, 0x200BFFFC)] 0 []) := ready_of (by decide +kernel)
  obtain ⟨f1, f2, f3, f4⟩ : ready (withGranary [(8, 32, 0x15FFFFF8)] 0 []) := ready_of (by decide +kernel)
  exact ⟨⟨_, mForm 6 0, 976, g1, g2, g3, g4, by decide +kernel⟩, _, mForm 7 0, f1, f2, f3, f4, by decide +kernel, by decide +kernel⟩

/-- A vout with 7 words, an fq with 15, a channel and an fr with one word. -/
def fifoState : State :=
  { issuing [] with
    tasks := [(2040, { st := .runnable, vc := some 0, fq := List.replicate 14 0 ++ [1], fr := [9] })]
    tiles := [(255, { vcs := [(0, [5])] })]
    mesh := List.replicate 7 ⟨some 2040, 0, 0, 0, true, 0, 0⟩ }

/-- Full FIFOs, and a channel and an fr without words. -/
def fullState : State :=
  { issuing [] with
    tasks := [(2040, { st := .runnable, vc := some 0, fq := List.replicate 16 0 })]
    mesh := List.replicate 8 ⟨some 2040, 0, 0, 0, true, 0, 0⟩ }

theorem witness_FifosMoveWords :
    ∃ (s : State), s.Canonical ∧ (∃ o : OpP, s.acts o.lc o.p = true ∧ o.b = 1 ∧ (s.voutWords s.me).length < 8) ∧
      (∃ o : OpP, s.acts o.lc o.p = true ∧ o.b = 2 ∧ (s.task s.me).fq.length < 16 ∧
        { s.task s.me with fq := (s.task s.me).fq ++ [BitVec.ofNat 64 (s.rd o.a (wBits o.w))] }.fqComplete = (s.task s.me).fqComplete) ∧
      (∃ (o : OpP) (n : Nat) (x : Word64) (l : List Word64), s.acts o.lc o.p = true ∧ o.b = 0 ∧ s.issue.vc = some n ∧ (s.tile s.myCore).vc n = x :: l) ∧
      (∃ (o : OpP) (x : Word64) (l : List Word64), s.acts o.lc o.p = true ∧ o.b = 3 ∧ (s.task s.me).fr = x :: l) ∧
      ∃ z : State, z.Canonical ∧ z.acts okP.lc okP.p = true ∧ 8 ≤ (z.voutWords z.me).length ∧ 16 ≤ (z.task z.me).fq.length ∧ z.vin = [] ∧
        (z.task z.me).fr = [] := by
  obtain ⟨h1, h2, _, h4⟩ : ready fifoState := ready_of (by decide +kernel)
  exact ⟨fifoState, h1, ⟨{ okP with b := 1 }, h4, rfl, by decide +kernel⟩, ⟨{ okP with b := 2 }, h4, rfl, by decide +kernel, by decide +kernel⟩,
    ⟨{ okP with b := 0 }, 0, 5, [], h4, rfl, rfl, by decide +kernel⟩, ⟨{ okP with b := 3 }, 9, [], h4, rfl, by decide +kernel⟩,
    fullState, canonical_of (by decide +kernel), by decide +kernel⟩

/-- What a PUSH to fq that completes a request finds: the mark and the hold that it would add, and the port's part in them. -/
def pushB (s : State) (o : OpP) (ord : Nat) (none_ : Bool) : Bool :=
  let k := s.task s.me
  let u : Task := { k with fq := k.fq ++ [BitVec.ofNat 64 (s.rd o.a (wBits o.w))] }
  canonB s && s.acts o.lc o.p && decide (o.b = 2) && decide (k.fq.length < 16) && decide (u.fqComplete ≠ k.fqComplete) &&
    decide ((lastCtl 16 u.fq).toNat / 256 % 8 = ord) && decide (none_ = (decide (ord = 0) && !k.port.any fun a => a.kind.acquires || a.kind.bars))

/-- A request that completes with nothing to come after; releases with the port left by the schedule, with one that waits for a lock bit, and with
a free one; an acquire with a free one; one behind an LDL. -/
theorem witness_FifosMoveWords_requests :
    (∃ (s : State) (o : OpP), pushB s o 0 true = true) ∧
    (∃ (s : State) (o : OpP), pushB s o 3 false = true ∧ (s.task s.me).lag = true) ∧
    (∃ (s : State) (o : OpP), pushB s o 0 false = true ∧ (s.task s.me).waitLock.isSome = true) ∧
    (∃ (s : State) (o : OpP), pushB s o 2 false = true ∧ PortFree s) ∧
    ∃ (s : State) (o : OpP), pushB s o 1 false = true ∧ PortFree s := by
  let o : OpP := { okP with b := 2 }
  let s (ctl : Nat) (t : Task) : State := { issuing [(40, 64, 12 + ctl * 256)] with tasks := [(2040, { t with st := .runnable, vc := some 0 })] }
  obtain ⟨_, b2, _, _⟩ : ready (s 2 {}) := ready_of (by decide +kernel)
  obtain ⟨_, a2, _, _⟩ : ready (s 1 {}) := ready_of (by decide +kernel)
  exact ⟨⟨s 0 {}, o, by decide +kernel⟩, ⟨s 3 { lag := true }, o, by decide +kernel, rfl⟩,
    ⟨s 0 { port := [⟨.ldl 4, 0x20000000, some 0, []⟩], waitLock := some 0 }, o, by decide +kernel, rfl⟩,
    ⟨s 2 {}, o, by decide +kernel, b2⟩, s 1 {}, o, by decide +kernel, a2⟩

/-- Every handle field up to b = 17; the last 32 bytes of the granary. -/
theorem witness_HandlesMoveWhole :
    ∃ s : State, s.Canonical ∧ (∃ o : OpP, s.acts o.lc o.p = true ∧ o.b ≤ 17) ∧ (∃ (lc : LoopCond) (h h2 : Nat), s.acts lc Pred.always = true ∧ h = h2) ∧
      (∃ (lc : LoopCond) (h h2 : Nat), s.acts lc Pred.always = true ∧ h ≠ h2) ∧
      ∃ o : OpHS, s.acts o.lc Pred.always = true ∧ PortFree s ∧ Unwatched s ∧ s.rd o.s 32 % 32 = 0 ∧ s.chk s.myCore (s.rd o.s 32) 32 = none := by
  obtain ⟨h1, h2, h3, h4⟩ : ready (withGranary [(40, 32, 0x15FFFFE0)] 0 []) := ready_of (by decide +kernel)
  exact ⟨_, h1, ⟨{ okP with b := 17 }, h4, by decide⟩, ⟨LoopCond.none, 15, 15, h4, rfl⟩, ⟨LoopCond.none, 15, 0, h4, by decide⟩, okH, h4, h2, h3,
    by decide +kernel, by decide +kernel⟩

/-- A field task's queue whose entry 15 has ended DONE, with its 15 other entries waiting, and every queue command. -/
def queueState (v : Nat) (n : Nat := 64) : State :=
  let s := fieldTask [(40, 64, v)] (hnd 0x10000000 2 6 n 1)
  { s with
    tasks := [(8, { st := .runnable, vc := some 0, q := 15, hs := [(1, hnd 0x10000000 2 6 n 1)] })]
    cmds := (List.range 15).map (fun e => (128 + e, { st := .waiting, op := 9 })) ++ [(143, { st := .done, op := 9 })] }


/-- A stream operation of a kind that acts and raises no cause, its entry ended. -/
def streams (s : State) (op : Nat) : Prop :=
  s.Canonical ∧ (s.cmd (cmdAt s.me ((s.task s.me).q % 16))).ended = true ∧ ∃ o : OpStr, s.acts o.lc Pred.always = true ∧ strCause op o s = none

theorem witness_QueueCommandsTakeTheirSnapshot :
    (∃ s, streams s 0) ∧ (∃ s, streams s 1) ∧ (∃ s, streams s 2) ∧ (∃ s, streams s 3) ∧ (∃ s, streams s 4) ∧ (∃ s, streams s 5) ∧ (∃ s, streams s 6) ∧
    (∃ s, streams s 7) ∧
    (∃ s : State, s.Canonical ∧ (s.cmd (cmdAt s.me ((s.task s.me).q % 16))).ended = true ∧
      ∃ (lc : LoopCond) (h : Nat), s.acts lc Pred.always = true ∧ scfgCause h s = none ∧ s.queueCause = none) ∧
    ∃ s : State, s.Canonical ∧ (s.cmd (cmdAt s.me ((s.task s.me).q % 16))).ended = true ∧ ∃ o : OpHS, s.acts o.lc Pred.always = true ∧ msendCause o s = none :=
  have ok (s : State) (h : canonB s = true) : s.Canonical := canonical_of h
  ⟨⟨queueState 0, ok _ (by decide +kernel), by decide +kernel, { okS with port := 5 }, by decide +kernel, by decide +kernel⟩,
   ⟨queueState 0, ok _ (by decide +kernel), by decide +kernel, { okS with port := 0x61 }, by decide +kernel, by decide +kernel⟩,
   ⟨queueState 0, ok _ (by decide +kernel), by decide +kernel, { okS with h2 := 1 }, by decide +kernel, by decide +kernel⟩,
   ⟨queueState 0xFF00 1, ok _ (by decide +kernel), by decide +kernel, { okS with h2 := 1, port := 0x7F }, by decide +kernel, by decide +kernel⟩,
   ⟨queueState 0xFF00, ok _ (by decide +kernel), by decide +kernel, { okS with port := 0x70 }, by decide +kernel, by decide +kernel⟩,
   ⟨queueState 5, ok _ (by decide +kernel), by decide +kernel, { okS with port := 5 }, by decide +kernel, by decide +kernel⟩,
   ⟨queueState 0x0102000000000000, ok _ (by decide +kernel), by decide +kernel, { okS with port := 5 }, by decide +kernel, by decide +kernel⟩,
   ⟨queueState 0xAB, ok _ (by decide +kernel), by decide +kernel, okS, by decide +kernel, by decide +kernel⟩,
   ⟨queueState 0, ok _ (by decide +kernel), by decide +kernel, LoopCond.none, 1, by and_intros <;> decide +kernel⟩,
   queueState 0x10000100, ok _ (by decide +kernel), by decide +kernel, okH, by decide +kernel, by decide +kernel⟩

/-- A waiting command, one with a line outstanding, one with a write outstanding too, and an SCFG whose wave has entered. -/
theorem witness_SkilEndsAndSstaReports :
    ∃ (s : State) (lc : LoopCond), s.Canonical ∧ s.acts lc Pred.always = true ∧
      let c (e : Nat) := s.cmd (cmdAt s.me e)
      let spent (c : Cmd) : Prop := c.ended = true ∨ c.op = 8 ∧ c.entered = true ∨ c.op = 0x31 ∧ c.sent = true
      (¬ spent (c 0) ∧ (c 0).st = .waiting) ∧ (¬ spent (c 1) ∧ (c 1).st ≠ .waiting ∧ ∀ o ∈ (c 1).owed, o.line ≠ none) ∧
      (¬ spent (c 2) ∧ (c 2).st ≠ .waiting ∧ ∃ o ∈ (c 2).owed, o.line = none) ∧
      spent (c 15) ∧ ¬ (c 15).ended = true :=
  ⟨{ fieldTask [] 0 with cmds := [(128, { st := .waiting, op := 7 }), (129, { st := .running, owed := [{ peer := 1, psn := 1, line := some 64 }] }),
     (130, { st := .running, owed := [{ peer := 1, psn := 2 }, { peer := 1, psn := 3, line := some 64 }] }),
     (143, { st := .running, op := 8, entered := true })] }, LoopCond.none, canonical_of (by decide +kernel), by and_intros <;> decide +kernel⟩

/-- Tile index 143, and a rectangle that fills the field. -/
theorem witness_TokensAreSent :
    (∃ (s : State) (lc : LoopCond) (sl : Nat), s.acts lc Pred.always = true ∧ s.rd sl 64 / 2 ^ 32 % 2 ^ 8 ≤ 143) ∧
    ∃ (s : State) (lc : LoopCond) (sl k : Nat), s.acts lc Pred.always = true ∧ s.fieldOf s.myCore = some k ∧
      let v := s.rd sl 64
      v / 2 ^ 48 % 2 ^ 8 ≠ 0 ∧ v / 2 ^ 56 % 2 ^ 8 ≠ 0 ∧ v / 2 ^ 32 % 2 ^ 8 + v / 2 ^ 48 % 2 ^ 8 ≤ (s.field k).w ∧
        v / 2 ^ 40 % 2 ^ 8 + v / 2 ^ 56 % 2 ^ 8 ≤ (s.field k).h :=
  ⟨⟨fieldTask [(40, 64, 143 * 2 ^ 32)] 0, LoopCond.none, 40, by decide +kernel, by decide +kernel⟩,
   fieldTask [(40, 64, 0x0102000000000007)] 0, LoopCond.none, 40, 0, by and_intros <;> decide +kernel⟩

/-- Contexts that are FREE, parked with a word on the channel, held with one, and running. -/
def bindState : State :=
  { fieldTask [] 0 with
    tasks := [(8, { st := .runnable, vc := some 0 }), (9, { st := .parked, kind := .endK }), (15, { st := .held, rem := .parked, kind := .endK })]
    tiles := [(1, { fld := some 0, ver := 1, vcs := [(0, [7])] })] }

theorem witness_BindingsMove :
    ∃ (s : State) (lc : LoopCond) (vc : Nat), s.Canonical ∧ s.acts lc Pred.always = true ∧
      (∃ ctx, ctx < 8 ∧ (s.task (s.myCore * 8 + ctx)).st = .free) ∧
      (∃ ctx, ctx < 8 ∧ let k := s.task (s.myCore * 8 + ctx)
        k.st ≠ .free ∧ (s.tile s.myCore).vc vc ≠ [] ∧ k.waits .endK = true ∧ k.st = .parked) ∧
      (∃ ctx, ctx < 8 ∧ let k := s.task (s.myCore * 8 + ctx)
        k.st ≠ .free ∧ (s.tile s.myCore).vc vc ≠ [] ∧ k.waits .endK = true ∧ k.st = .held) ∧
      ∃ ctx, ctx < 8 ∧ let k := s.task (s.myCore * 8 + ctx)
        k.st ≠ .free ∧ k.waits .endK = false ∧ s.boundTo s.myCore vc = some (s.myCore * 8 + ctx) :=
  ⟨bindState, LoopCond.none, 0, canonical_of (by decide +kernel), by decide +kernel, ⟨3, by decide +kernel⟩, ⟨1, by decide +kernel⟩, ⟨7, by decide +kernel⟩,
   0, by decide +kernel⟩

/-- Counters at 0, at 1 bound, at 1 unbound; tasks that wait on the counter, with END, and run. -/
def counterState : State :=
  { fieldTask [] 0 with
    tasks := [(8, { st := .runnable, vc := some 0 }), (9, { st := .parked, kind := .waitc, waitDc := 1 }), (10, { st := .parked, kind := .endK })]
    tiles := [(1, { fld := some 0, ver := 1, counters := [(1, { val := 1, bound := some 1 }), (2, { val := 1, bound := some 2 }),
      (3, { val := 1, bound := some 0 }), (31, { val := 1 })] })] }

theorem witness_CountersAreSetAndDecremented :
    ∃ (s : State) (lc : LoopCond), s.Canonical ∧ s.acts lc Pred.always = true ∧
      let c (dc : Nat) := (s.tile s.myCore).counter dc
      (c 0).val = 0 ∧ ((c 31).val ≠ 0 ∧ (c 31).bound = none) ∧
      ((c 1).val = 1 ∧ (c 1).bound = some 1 ∧ (s.task (s.myCore * 8 + 1)).waits .waitc = true ∧ (s.task (s.myCore * 8 + 1)).waitDc = 1) ∧
      ((c 2).val = 1 ∧ (c 2).bound = some 2 ∧ (s.task (s.myCore * 8 + 2)).waits .endK = true) ∧
      ((c 3).val = 1 ∧ (c 3).bound = some 0 ∧ (s.task (s.myCore * 8 + 0)).waits .endK = false ∧ (s.task (s.myCore * 8 + 0)).waits .waitc = false) ∧
      (s.task s.me).port = [] ∧ ∃ (z : State) (b : Access), z.Canonical ∧ z.acts lc Pred.always = true ∧ (z.task z.me).port = [b] :=
  ⟨counterState, LoopCond.none, canonical_of (by decide +kernel), by decide +kernel, by decide +kernel, by decide +kernel, by decide +kernel,
   by decide +kernel, by decide +kernel, by decide +kernel, { issuing [] with tasks := [(2040, { st := .runnable, port := [⟨.ldl 4, 0x20000000, some 0, []⟩] })] },
   ⟨.ldl 4, 0x20000000, some 0, []⟩, canonical_of (by decide +kernel), by decide +kernel⟩

/-- An empty card at the granary's last 64 bytes, and one with one element left. -/
theorem witness_DrawTakesASheaf :
    (∃ (s : State) (o : OpHS), s.Canonical ∧ PortFree s ∧ Unwatched s ∧ s.acts o.lc Pred.always = true ∧ drawCause o s = none ∧
      let a := hLocal (hGet s.issue.hs o.h) / 64 * 64
      s.readLocal s.myCore (a + 4) 4 ≤ s.readLocal s.myCore a 4) ∧
    ∃ (s : State) (o : OpHS), s.Canonical ∧ PortFree s ∧ Unwatched s ∧ s.acts o.lc Pred.always = true ∧ drawCause o s = none ∧
      let a := hLocal (hGet s.issue.hs o.h) / 64 * 64
      s.readLocal s.myCore a 4 < s.readLocal s.myCore (a + 4) 4 := by
  obtain ⟨h1, h2, h3, h4⟩ : ready (withGranary [] (hnd 0x15FFFFC0 2 6 64 1) []) := ready_of (by decide +kernel)
  obtain ⟨g1, g2, g3, g4⟩ : ready (withGranary [] (hnd 0x10000000 2 6 64 1) [4, 0, 0, 0, 5]) := ready_of (by decide +kernel)
  exact ⟨⟨_, hForm, h1, h2, h3, h4, by decide +kernel, by decide +kernel⟩, _, hForm, g1, g2, g3, g4, by decide +kernel, by decide +kernel⟩

/-- A full future and an empty one that a task waits for, at the ends of the granary; a WAITF with room and one past the field's limit. -/
theorem witness_FuturesFillAndWait :
    (∃ (s : State) (o : OpHS), s.Canonical ∧ PortFree s ∧ Unwatched s ∧ s.acts o.lc Pred.always = true ∧ fputCause o s = none ∧
      let a := hLocal (hGet s.issue.hs o.h) / 16 * 16
      0x10000000 ≤ a ∧ a < 0x16000000 ∧ s.readLocal s.myCore (a + 8) 1 % 2 = 1) ∧
    (∃ (s : State) (o : OpHS) (j : Nat) (w : Well), s.Canonical ∧ PortFree s ∧ Unwatched s ∧ s.acts o.lc Pred.always = true ∧ fputCause o s = none ∧
      let a := hLocal (hGet s.issue.hs o.h) / 16 * 16
      0x10000000 ≤ a ∧ a < 0x16000000 ∧ s.readLocal s.myCore (a + 8) 1 % 2 ≠ 1 ∧ dieOf (coreOf j) = dieOf s.myCore ∧ (s.task j).well = some w ∧ w.addr = a) ∧
    (∃ (s : State) (f : Nat), s.Canonical ∧ PortFree s ∧ Unwatched s ∧ s.acts LoopCond.none Pred.always = true ∧
      let a := s.rd f 32 / 16 * 16
      s.windowCause a 16 = none ∧ s.readLocal s.myCore (a + 8) 1 % 2 ≠ 1 ∧ s.wellRoom s.myCore = true ∧ (s.task s.me).rets = []) ∧
    ∃ (s : State) (f : Nat), s.Canonical ∧ PortFree s ∧ Unwatched s ∧ s.acts LoopCond.none Pred.always = true ∧
      let a := s.rd f 32 / 16 * 16
      s.windowCause a 16 = none ∧ s.readLocal s.myCore (a + 8) 1 % 2 ≠ 1 ∧ s.wellRoom s.myCore = false := by
  obtain ⟨a1, a2, a3, a4⟩ : ready (withGranary [] (hnd 0x10000000 2 6 16 1) [9, 0, 0, 0, 0, 0, 0, 0, 1]) := ready_of (by decide +kernel)
  let b : State := { withGranary [] (hnd 0x15FFFFF0 2 6 16 1) [] with
    tasks := [(8, { st := .parked, kind := .waitf, well := some ⟨0x15FFFFF0, 40, 3, 0⟩ }), (2040, { st := .runnable, hs := [(1, hnd 0x15FFFFF0 2 6 16 1)] })] }
  obtain ⟨b1, b2, b3, b4⟩ : ready b := ready_of (by decide +kernel)
  obtain ⟨c1, c2, c3, c4⟩ : ready (withGranary [(8, 32, 0x15FFFFFF)] 0 []) := ready_of (by decide +kernel)
  let d : State := { fieldTask [(8, 32, 0x1000FFF0)] 0 with
    fields := [(0, { st := .live, w := 2, h := 1, ver := 1, gwbase := 0x10000000, gwsize := 0x10000, wwlim := 0 })] }
  obtain ⟨d1, d2, d3, d4⟩ : ready d := ready_of (by decide +kernel)
  exact ⟨⟨_, hForm, a1, a2, a3, a4, by decide +kernel, by decide +kernel⟩, ⟨b, hForm, 8, ⟨0x15FFFFF0, 40, 3, 0⟩, b1, b2, b3, b4, by decide +kernel, by decide +kernel⟩,
    ⟨_, 8, c1, c2, c3, c4, by decide +kernel⟩, d, 8, d1, d2, d3, d4, by decide +kernel⟩

/-- An invalid block (lg 17), a full ring of one slot, and a ring with room, where the take stops at a ticket not published. -/
theorem witness_RingsHandOutTickets :
    (∃ (s : State) (o : OpHS), s.Canonical ∧ PortFree s ∧ Unwatched s ∧ s.acts o.lc Pred.always = true ∧ ringCause o s = none ∧
      s.ringOk s.myCore (s.ring s.myCore (hLocal (hGet s.issue.hs o.h))) = false) ∧
    (∃ (s : State) (o : OpHS), s.Canonical ∧ PortFree s ∧ Unwatched s ∧ s.acts o.lc Pred.always = true ∧ ringCause o s = none ∧
      let r := s.ring s.myCore (hLocal (hGet s.issue.hs o.h))
      s.ringOk s.myCore r = true ∧ 2 ^ r.lg ≤ (r.tail + 2 ^ 32 - r.done) % 2 ^ 32) ∧
    ∃ (s : State) (o : OpHS), s.Canonical ∧ PortFree s ∧ Unwatched s ∧ s.acts o.lc Pred.always = true ∧ ringCause o s = none ∧
      let r := s.ring s.myCore (hLocal (hGet s.issue.hs o.h))
      s.ringOk s.myCore r = true ∧ (r.tail + 2 ^ 32 - r.done) % 2 ^ 32 < 2 ^ r.lg := by
  obtain ⟨a1, a2, a3, a4⟩ : ready (withGranary [] (hnd 0x10000000 2 6 64 1) (List.replicate 12 0 ++ [17])) := ready_of (by decide +kernel)
  obtain ⟨b1, b2, b3, b4⟩ : ready (withGranary [] (hnd 0x10000000 2 6 64 1) (ring 4 0 0 0)) := ready_of (by decide +kernel)
  obtain ⟨c1, c2, c3, c4⟩ : ready (withGranary [] (hnd 0x10000000 2 6 64 1) (ring 3 0 1 0)) := ready_of (by decide +kernel)
  exact ⟨⟨_, hForm, a1, a2, a3, a4, by decide +kernel, by decide +kernel⟩, ⟨_, hForm, b1, b2, b3, b4, by decide +kernel, by decide +kernel⟩,
    _, hForm, c1, c2, c3, c4, by decide +kernel, by decide +kernel⟩

/-- A .sc atomic of an earlier cycle of the wheel waits in another task's port. -/
def earlierSc (s : State) (o : OpAt) : Prop := o.ord = 4 ∧ ∃ j, j ≠ s.me ∧ ∃ b ∈ (s.task j).port, ∃ op size v e ford m,
  b.kind = .atomic op size v e 4 ford m ∧ m < s.pkg.scLast.getD 0

theorem witness_AtomicsReadAndWriteInOneStep_order :
    (∃ (s : State) (o : OpAt), s.Canonical ∧ PortFree s ∧ Unwatched s ∧ s.acts o.lc Pred.always = true ∧ atomicCause o s = none ∧ earlierSc s o) ∧
    ∃ (s : State) (o : OpAt), s.Canonical ∧ PortFree s ∧ Unwatched s ∧ s.acts o.lc Pred.always = true ∧ atomicCause o s = none ∧ o.ord = 4 ∧
      ¬ earlierSc s o := by
  let o : OpAt := { okA with ord := 4 }
  let s : State := withGranary [(40, 64, 9)] (hnd 0x10000000 2 6 64 1) [5]
  let a : State := { s with
    tasks := [(8, { st := .runnable, port := [⟨.atomic 0 2 1 0 4 0 2, 0x10000000, some 0, []⟩], lag := true })] ++ s.tasks
    pkg := { s.pkg with scLast := some 5 } }
  obtain ⟨a1, a2, a3, a4⟩ : ready a := ready_of (by decide +kernel)
  obtain ⟨b1, b2, b3, b4⟩ : ready s := ready_of (by decide +kernel)
  refine ⟨⟨a, o, a1, a2, a3, a4, by decide +kernel, rfl, 8, by decide +kernel, _, List.mem_singleton.2 rfl, 0, 2, 1, 0, 0, 2, rfl, by decide⟩,
    s, o, b1, b2, b3, b4, by decide +kernel, rfl, ?_⟩
  rintro ⟨_, _, _, _, _, _, _, _, _, _, m, _, h⟩
  exact absurd h (Nat.not_lt_zero m)

/-- An atomic of 8 bytes at the end of tile 143's bin, whose bit is free; an ACAS of 4 that finds its expected value, and one that does not. -/
theorem witness_AtomicsReadAndWriteInOneStep :
    (∃ (s : State) (o : OpAt) (k : Nat), s.Canonical ∧ PortFree s ∧ Unwatched s ∧ s.acts o.lc Pred.always = true ∧ atomicCause o s = none ∧
      lockOf s.myCore (hLocal (hGet s.issue.hs o.h)) = some k ∧ (s.lockBit k).openTo s.me = true) ∧
    (∃ (s : State) (o : OpAt), s.Canonical ∧ PortFree s ∧ Unwatched s ∧ s.acts o.lc Pred.always = true ∧ atomicCause o s = none ∧
      let a := hLocal (hGet s.issue.hs o.h)
      lockOf s.myCore a = none ∧ s.readLocal s.myCore a (2 ^ o.size) = s.rd o.s 64 / 2 ^ 32 % 2 ^ (8 * 2 ^ o.size)) ∧
    ∃ (s : State) (o : OpAt), s.Canonical ∧ PortFree s ∧ Unwatched s ∧ s.acts o.lc Pred.always = true ∧ atomicCause o s = none ∧
      let a := hLocal (hGet s.issue.hs o.h)
      lockOf s.myCore a = none ∧ s.readLocal s.myCore a (2 ^ o.size) ≠ s.rd o.s 64 / 2 ^ 32 % 2 ^ (8 * 2 ^ o.size) := by
  obtain ⟨a1, a2, a3, a4⟩ : ready (withGranary [] (hnd 0x28FBFFF8 1 6 64 1) []) := ready_of (by decide +kernel)
  obtain ⟨b1, b2, b3, b4⟩ : ready (withGranary [(40, 64, 0x0500000009)] (hnd 0x10000000 2 6 64 1) [5]) := ready_of (by decide +kernel)
  obtain ⟨c1, c2, c3, c4⟩ : ready (withGranary [(40, 64, 0x0600000009)] (hnd 0x10000000 2 6 64 1) [5]) := ready_of (by decide +kernel)
  exact ⟨⟨_, { okA with size := 3 }, 143 * 1024 + 15 * 64 + 16, a1, a2, a3, a4, by and_intros <;> decide +kernel⟩,
    ⟨_, okA, b1, b2, b3, b4, by decide +kernel, by decide +kernel⟩, _, okA, c1, c2, c3, c4, by decide +kernel, by decide +kernel⟩

theorem witness_MatchOperationsAreSent :
    ∃ s : State, s.Canonical ∧ (∃ o : OpHS, s.acts o.lc Pred.always = true ∧ mpostCause o s = none) ∧
      ∃ o : OpS, s.acts o.lc Pred.always = true ∧ descrCause (s.rd o.s 32) s = none :=
  ⟨fieldTask [(40, 32, 0x10000100)] (hnd 0x10000000 2 6 64 1), canonical_of (by decide +kernel), ⟨okH, by decide +kernel, by decide +kernel⟩,
   ⟨LoopCond.none, 40⟩, by decide +kernel, by decide +kernel⟩

/-- No request owed, and one owed; TINV of a bad size, of a named 1 GiB page, and of everything. -/
theorem witness_RsynCountsAndTinvDrops :
    (∃ (s : State) (o : OpS), s.Canonical ∧ s.acts o.lc Pred.always = true ∧ (s.task s.me).rsyns = [] ∧ (s.task s.me).owes s.issue.reqNo = true ∧
      (s.task s.me).rets = []) ∧
    (∃ (s : State) (o : OpS), s.Canonical ∧ s.acts o.lc Pred.always = true ∧ (s.task s.me).rsyns = [] ∧ (s.task s.me).owes s.issue.reqNo = false ∧
      (s.task s.me).rets = []) ∧
    (∃ (s : State) (lc : LoopCond) (sl : Nat), s.Canonical ∧ s.supervisor = true ∧ s.acts lc Pred.always = true ∧ s.rd sl 64 / 2 ^ 48 % 4 = 3) ∧
    (∃ (s : State) (lc : LoopCond) (sl : Nat), s.Canonical ∧ s.supervisor = true ∧ s.acts lc Pred.always = true ∧ s.rd sl 64 / 2 ^ 50 ≠ 0) ∧
    ∃ (s : State) (lc : LoopCond) (sl : Nat), s.Canonical ∧ s.supervisor = true ∧ s.acts lc Pred.always = true ∧ s.rd sl 64 / 2 ^ 48 % 4 ≠ 3 ∧
      s.rd sl 64 / 2 ^ 50 = 0 ∧ s.fab.peers = [] ∧ (∀ j, (s.cmd j).under = []) ∧
      ∃ (z : State) (j : Nat) (l : Leaf) (x : Nat × Peer) (p : Packet), z.Canonical ∧ z.supervisor = true ∧ z.acts lc Pred.always = true ∧
        (z.cmd j).xl = some l ∧ l.lg = 30 ∧ l.base = z.rd sl 64 % 2 ^ 48 / 2 ^ 30 * 2 ^ 30 ∧ l ∈ (z.cmd j).under ∧ x ∈ z.fab.peers ∧ p ∈ x.2.out ∧
        p.leaf = some l :=
  let owing : State := { issuing [] with
    tasks := [(2040, { st := .runnable, reqNo := 65537, reqs := [⟨65536, 0, 0, 0, 0, [], none, false, none⟩] })]
    issue := { task := 2040, reqNo := 65537 } }
  ⟨⟨owing, ⟨LoopCond.none, 40⟩, canonical_of (by decide +kernel), by and_intros <;> decide +kernel⟩,
   ⟨issuing [], ⟨LoopCond.none, 40⟩, canonical_of (by decide +kernel), by and_intros <;> decide +kernel⟩,
   ⟨issuing [(40, 64, 3 * 2 ^ 48)], LoopCond.none, 40, canonical_of (by decide +kernel), by and_intros <;> decide +kernel⟩,
   ⟨issuing [(40, 64, 2 ^ 63)], LoopCond.none, 40, canonical_of (by decide +kernel), by and_intros <;> decide +kernel⟩,
   issuing [(40, 64, 2 * 2 ^ 48 + 2 ^ 47)], LoopCond.none, 40, canonical_of (by decide +kernel), by decide +kernel, by decide +kernel, by decide +kernel,
   by decide +kernel, rfl, fun _ => rfl,
   { issuing [(40, 64, 2 * 2 ^ 48 + 2 ^ 47)] with
     cmds := [(130, { st := .running, xl := some ⟨2 ^ 47, 30, 0⟩, under := [⟨2 ^ 47, 30, 0⟩], owed := [{ peer := 1, psn := 2, line := some 64 }] })]
     fab := { peers := [(1, { out := [⟨2, 1, .stream 2 130 64 none, 1, 0, false, false, some ⟨2 ^ 47, 30, 0⟩⟩] })] } },
   130, ⟨2 ^ 47, 30, 0⟩, _, _, canonical_of (by decide +kernel), by decide +kernel, by decide +kernel, by decide +kernel, by decide +kernel,
   by decide +kernel, by decide +kernel, List.mem_singleton.2 rfl, List.mem_singleton.2 rfl, rfl⟩

/-- A target in the body of both active levels, and one outside the inner level's. -/
theorem witness_BranchesSetTheNextAddress :
    ∃ (s : State) (x : Ctl), s.Canonical ∧ s.acts x.lc x.p = true ∧
      let l := (s.task s.me).levels
      let inBody (i g : Nat) : Bool := decide ((g + 65536 - (levelOf l i).bs) % 65536 ≤ ((levelOf l i).be + 65536 - (levelOf l i).bs) % 65536)
      activeCount l = 2 ∧ (inBody 0 0x120 && inBody 1 0x120 && inBody 0 0x100 && !inBody 1 0x100) = true :=
  ⟨{ issuing [] with tasks := [(2040, { st := .runnable, levels := [(0, { bs := 0x100, be := 0x200, remaining := 2 }), (1, { bs := 0x110, be := 0x180, remaining := 3 })] })] },
   c0, canonical_of (by decide +kernel), by and_intros <;> decide +kernel⟩

/-- Five active levels, none of which ends here; a count of 0, and the largest count; an inactive level and an active one. -/
theorem witness_LoopsEnterAndBind :
    (∃ (s : State) (x : Ctl) (sl : Nat), s.Canonical ∧ s.acts x.lc x.p = true ∧ activeCount s.issue.levels ≠ 6 ∧
      (∀ i, i < activeCount s.issue.levels → (levelOf s.issue.levels i).be ≠ s.issue.addr) ∧ s.rd sl 24 ≠ 0 ∧ (levelOf (s.task s.me).levels 4).remaining ≠ 0 ∧
      (levelOf (s.task s.me).levels 5).remaining = 0) ∧
    ∃ (s : State) (x : Ctl) (sl : Nat), s.Canonical ∧ s.acts x.lc x.p = true ∧ activeCount s.issue.levels ≠ 6 ∧ activeCount s.issue.levels = 0 ∧ s.rd sl 24 = 0 :=
  let five : Sparse Level := (List.range 5).map fun i => (i, { bs := 0x100, be := 0x200, remaining := 1 })
  let s : State := issuing [(40, 24, 16777215)]
  ⟨⟨{ s with tasks := [(2040, { st := .runnable, levels := five })], issue := { s.issue with levels := five } }, c0, 40, canonical_of (by decide +kernel),
    by and_intros <;> decide +kernel⟩,
   issuing [], c0, 40, canonical_of (by decide +kernel), by and_intros <;> decide +kernel⟩

/-- One pass left, and two; no level that ends here. -/
theorem witness_LoopsRunTheirCount :
    let t (n : Nat) : Task := { levels := [(0, { bs := 0x100, be := 0x120, remaining := n, ind := some ⟨40, 3, 0xFFFE⟩ })] }
    let i : Issue := { addr := 0x120, next := 0x128 }
    (i.ended = false ∧ i.taken = none ∧ i.zeroLoop = none ∧ ∀ n, n = 1 ∨ n = 2 →
      activeCount (t n).levels = 1 ∧ (levelOf (t n).levels 0).be = i.addr ∧ Sparse.wf {} (t n).levels = true ∧ (levelOf (t n).levels 0).remaining = n) ∧
    activeCount ({} : Task).levels = 0 := by
  refine ⟨⟨rfl, rfl, rfl, ?_⟩, by decide +kernel⟩
  rintro n (rfl | rfl) <;> decide +kernel

/-- Two inner levels on their last pass inside one with passes left, and inside one that ends elsewhere; all three on their last. -/
def nestB (e n : Nat) : Bool :=
  let l := ({ levels := [(0, { bs := 0x80, be := e, remaining := n }), (1, { bs := 0x90, be := 0x120, remaining := 1, ind := some ⟨40, 3, 1⟩ }),
    (2, { bs := 0x100, be := 0x120, remaining := 1 })] } : Task).levels
  decide (activeCount l = 3) && Sparse.wf {} l && (List.range 3).all (fun k => decide ((levelOf l k).remaining ≠ 0)) &&
    [1, 2].all (fun k => decide ((levelOf l k).be = 0x120 ∧ (levelOf l k).remaining = 1)) && decide ((levelOf l 0).be = e ∧ (levelOf l 0).remaining = n)

theorem witness_LoopsRunTheirCount_nested : (nestB 0x120 2 && nestB 0x140 2 && nestB 0x120 1) = true := by decide +kernel

/-- A word waits, or the latch is set, or neither; counters at zero and not; a request owed, and none. -/
theorem witness_TasksParkAndYield :
    (∃ (s : State) (x : Ctl), s.Canonical ∧ s.acts x.lc x.p = true ∧ (∃ n, (s.task s.me).vc = some n ∧ (s.tile s.myCore).vc n ≠ []) ∧
      ((s.tile s.myCore).counter 31).val ≠ 0 ∧ ((s.tile s.myCore).counter 0).val = 0) ∧
    (∃ (s : State) (x : Ctl), s.Canonical ∧ s.acts x.lc x.p = true ∧ PortFree s ∧ Unwatched s ∧ (s.task s.me).vc = none ∧ (s.task s.me).latch = false ∧
      (s.task s.me).owes (s.task s.me).reqNo = false) ∧
    ∃ (s : State) (x : Ctl), s.Canonical ∧ s.acts x.lc x.p = true ∧ PortFree s ∧ Unwatched s ∧ (s.task s.me).latch = true ∧
      (s.task s.me).owes (s.task s.me).reqNo = true := by
  let a : State := { issuing [] with tiles := [(255, { vcs := [(0, [5])], counters := [(31, { val := 0xFFFF })] })] }
  let b : State := { issuing [] with tasks := [(2040, { st := .runnable })] }
  obtain ⟨b1, b2, b3, b4⟩ : ready b := ready_of (by decide +kernel)
  let c : State := { issuing [] with tasks := [(2040, { st := .runnable, latch := true, reqNo := 65537, reqs := [⟨65536, 0, 0, 0, 0, [], none, false, none⟩] })] }
  obtain ⟨d1, d2, d3, d4⟩ : ready c := ready_of (by decide +kernel)
  exact ⟨⟨a, c0, canonical_of (by decide +kernel), by decide +kernel, ⟨0, rfl, by decide +kernel⟩, by decide +kernel, by decide +kernel⟩,
    ⟨b, c0, b1, b4, b2, b3, rfl, rfl, by decide +kernel⟩, c, c0, d1, d4, d2, d3, rfl, by decide +kernel⟩

/-- No fault is due when the bundle of END or WAITC finishes, with a result in flight, nor when that of a WAITF that has parked does. -/
theorem witness_TasksParkAndYield_finish :
    (∃ (s : State) (x : Ctl), s.Canonical ∧ s.acts x.lc x.p = true ∧ (s.task s.me).asyncs = [] ∧ (s.task s.me).st = .runnable ∧ (s.task s.me).vc = none ∧
      (s.task s.me).latch = false ∧ (s.task s.me).flight ≠ [] ∧ ((s.tile s.myCore).counter 31).val ≠ 0) ∧
    (∃ (s : State) (x : Ctl), s.Canonical ∧ s.acts x.lc x.p = true ∧ (s.task s.me).asyncs = [] ∧ (s.task s.me).st = .runnable ∧ (s.task s.me).latch = true) ∧
    ∃ v : State, v.Canonical ∧ (v.task v.me).asyncs = [] ∧ (v.task v.me).st = .parked ∧ (v.task v.me).kind = .waitf :=
  let s (t : Task) : State := { issuing [] with tasks := [(2040, t)], tiles := [(255, { counters := [(31, { val := 0xFFFF })] })] }
  ⟨⟨s { st := .runnable, flight := [⟨2, .range 40 8, 7⟩] }, c0, canonical_of (by decide +kernel), by and_intros <;> decide +kernel⟩,
   ⟨s { st := .runnable, latch := true }, c0, canonical_of (by decide +kernel), by and_intros <;> decide +kernel⟩,
   s { st := .parked, kind := .waitf, flight := [⟨2, .range 40 8, 7⟩] }, canonical_of (by decide +kernel), by and_intros <;> decide +kernel⟩

/-- An access that waits for a lock bit. -/
theorem witness_AccessesKeepTheirOrder :
    ∃ (s : State) (b : Access) (l : List Access) (o : OpI), s.Canonical ∧ (s.task s.me).port = b :: l ∧ (s.task s.me).waitLock.isSome = true ∧
      s.acts o.lc o.p = true ∧ s.chk s.myCore (((s.rd o.a 32 : Int) + o.imm) % 2 ^ 32).toNat (wBits o.w / 8) = none ∧
      ∃ (z : State) (t f m : Nat), z.fieldOf (coreOf t) = some f ∧ m ≠ z.fab.modid :=
  ⟨{ issuing [(8, 32, 0x15FFFFFC)] with tasks := [(2040, { st := .runnable, port := [⟨.ldl 4, 0x20000000, some 0, []⟩], waitLock := some 0 })] },
   ⟨.ldl 4, 0x20000000, some 0, []⟩, [], mForm 6 0, canonical_of (by decide +kernel), rfl, rfl, by decide +kernel, by decide +kernel,
   fieldTask [] 0, 8, 0, 5, by decide +kernel, by decide +kernel⟩

/-- A task of a field and a management task; a BKPT not skipped, and one that is. -/
theorem witness_TrapsHoldTheTask :
    (∃ (s : State) (x : Ctl), s.Canonical ∧ s.acts x.lc x.p = true ∧ isMgmt s.myCore = false ∧ s.issue.skip = false) ∧
    ∃ (s : State) (x : Ctl), s.Canonical ∧ s.acts x.lc x.p = true ∧ isMgmt s.myCore = true ∧ s.issue.skip = true :=
  let s : State := issuing []
  ⟨⟨fieldTask [] 0, c0, canonical_of (by decide +kernel), by decide +kernel, by decide +kernel, rfl⟩,
   { s with issue := { s.issue with skip := true } }, c0, canonical_of (by decide +kernel), by decide +kernel, by decide +kernel, rfl⟩

/-- The longest count with the last range of 16 slices, and gate 15. -/
theorem witness_CapturedResultsLandAfterResuming :
    (∃ (t : Task) (rc k : Nat) (d : Dst) (v : BitVec 512), t.replay = [] ∧ t.flight = [⟨rc, d, v⟩] ∧ rc ≤ 7 ∧ k ≤ rc ∧ 1 ≤ rc ∧ k = rc ∧
      ∃ a n, d = .range a n ∧ 1 ≤ n ∧ n ≤ 16 ∧ a + n ≤ 128) ∧
    ∃ (t : Task) (rc k : Nat) (d : Dst) (v : BitVec 512), t.replay = [] ∧ t.flight = [⟨rc, d, v⟩] ∧ rc ≤ 7 ∧ k ≤ rc ∧ 1 ≤ rc ∧ ∃ g, d = .gate g ∧ g < 16 :=
  ⟨⟨{ flight := [⟨7, .range 112 16, 5⟩] }, 7, 7, .range 112 16, 5, rfl, rfl, by decide, by decide, by decide, rfl, 112, 16, rfl, by and_intros <;> decide +kernel⟩,
   { flight := [⟨1, .gate 15, 1⟩] }, 1, 0, .gate 15, 1, rfl, rfl, by decide, by decide, by decide, 15, rfl, by decide⟩

/-- A TRAP, a NOP whose predicate is false, a SEL under a loop condition that fails, and an ERET of a field's task. -/
theorem witness_CausesAndIdleSlots :
    (∃ (i : Instr) (s : State) (c : Cause × Nat), i.isSlot = true ∧ slotCause i s = some c) ∧
    (∃ (i : Instr) (s : State), i.isSlot = true ∧ slotCause i s = none ∧ s.acts (slotLoop i) (slotPred i) = false ∧ ∀ o, i ≠ .sel o) ∧
    (∃ (s : State) (o : OpP), s.acts o.lc Pred.always = false) ∧
    ∃ (i : Instr) (s : State), i.isSlot = true ∧ isSupervisor i = true ∧ s.supervisor = false :=
  ⟨⟨.trap c0 7, base, (.trap, 7), by decide +kernel, by decide +kernel⟩,
   ⟨.nop { c0 with p := ⟨true, 0⟩ }, base, by decide +kernel, by decide +kernel, by decide +kernel, fun _ h => nomatch h⟩,
   ⟨base, { okP with lc := ⟨true, false, 0⟩ }, by decide +kernel⟩, .eret c0 40 true, fieldTask [] 0, by and_intros <;> decide +kernel⟩

/-- A core whose next bundle is a TRAP; two causes of one bundle. -/
theorem witness_FaultingBundlesHaveNoEffect :
    (∃ (s : State) (c x : Nat) (l : List Turn) (b : List Instr) (cause : Cause × Nat),
      s.agenda = .core c :: l ∧ coreExists c = true ∧
      let a : State := { s with agenda := l }
      let e := a.boundaries c
      a.coreRuns c = true ∧ e.pick c (e.standing c .yes) = some x ∧
      let f := (e.marks c (e.standing c .queue)).taking c x
      ((f.modTask (taskAt c x) Task.landDue).bundleAt (taskAt c x)).1 = .good b ∧ (f.issueState (taskAt c x)).bundleCause b = some cause) ∧
    ∃ (l : List (Option (Cause × Nat))) (c : Cause × Nat), firstCause l = some c ∧ 2 ≤ l.length :=
  ⟨⟨{ nopCore with mem := Memory.putAll [] (place (.istore 255) 0) (bytesOfNat 4 (0xC0000000 + 13 * 2 ^ 25 + 7)) }, 255, 0, [], [.trap c0 7], (.trap, 7),
    rfl, rfl, by and_intros <;> decide +kernel⟩,
   [none, some (.queueFull, 1), some (.handleBad, 2)], (.handleBad, 2), by decide +kernel, by decide⟩

/-- A field's task with VOUTDST's largest tile, and a management task, which is a supervisor. -/
theorem witness_SystemRegistersReadAndWrite :
    (∃ (s : State) (x : Ctl) (f sl : Nat), s.Canonical ∧ s.acts x.lc x.p = true ∧ s.fieldOf s.myCore = some f ∧ s.rd sl 32 / 2 ^ 8 % 256 ≤ 143) ∧
    (∃ (s : State) (x : Ctl), s.Canonical ∧ s.acts x.lc x.p = true ∧ s.supervisor = true ∧ (s.task s.me).accessOwed = true) ∧
    ∃ (s : State) (x : Ctl), s.Canonical ∧ s.acts x.lc x.p = true ∧ s.supervisor = true ∧ (s.task s.me).accessOwed = false ∧ (s.task s.me).mts = [] :=
  ⟨⟨fieldTask [(40, 32, 143 * 256)] 0, c0, 0, 40, canonical_of (by decide +kernel), by and_intros <;> decide +kernel⟩,
   ⟨{ issuing [] with tasks := [(2040, { st := .runnable, port := [⟨.ldl 4, 0x20000000, some 0, []⟩] })] }, c0, canonical_of (by decide +kernel), by decide +kernel⟩,
   issuing [], c0, canonical_of (by decide +kernel), by decide +kernel⟩

/-- Selected tasks in every state, tile 143's context 7 among them; IPAGE of the granary's last 4 KiB into page 15. -/
theorem witness_SupervisorResumesHoldsAndLoads :
    (∃ (s : State) (x : Ctl) (sl : Nat), s.Canonical ∧ s.supervisor = true ∧ s.acts x.lc x.p = true ∧
      let v := s.rd sl 32
      let k := (s.myCore / 256 * 256 + v % 256) * 8 + v / 2 ^ 8 % 8
      v / 2 ^ 11 = 0 ∧ v % 256 ≤ 143 ∧ (s.task k).st = .held ∧ s.recWaits k = false ∧ (s.task k).entries.all (fun e => !e.2.bad) = true) ∧
    (∃ (s : State) (x : Ctl) (sl : Nat), s.Canonical ∧ s.supervisor = true ∧ s.acts x.lc x.p = true ∧
      let v := s.rd sl 32
      let k := (s.myCore / 256 * 256 + v % 256) * 8 + v / 2 ^ 8 % 8
      v / 2 ^ 11 = 0 ∧ v % 256 ≤ 143 ∧ (s.task k).st = .parked ∧ (s.tile (s.myCore / 256 * 256 + v % 256)).sup = []) ∧
    (∃ (s : State) (x : Ctl) (sl : Nat), s.Canonical ∧ s.supervisor = true ∧ s.acts x.lc x.p = true ∧
      let v := s.rd sl 32
      let k := (s.myCore / 256 * 256 + v % 256) * 8 + v / 2 ^ 8 % 8
      v / 2 ^ 11 = 0 ∧ v % 256 ≤ 143 ∧ (s.task k).st ≠ .runnable ∧ (s.task k).st ≠ .parked ∧ (s.task k).st ≠ .held) ∧
    (∃ (s : State) (x : Ctl) (sl : Nat), s.Canonical ∧ s.supervisor = true ∧ s.acts x.lc x.p = true ∧ ipageCause sl s = none ∧
      (s.tile 143).sup = [(s.me, .copy 15 0x10000000)]) ∧
    (∃ (s : State) (x : Ctl) (sl : Nat), s.Canonical ∧ s.supervisor = true ∧ s.acts x.lc x.p = true ∧ ipageCause sl s = none ∧ (s.tile 143).sup = []) ∧
    ∃ (s : State) (tc tk page a : Nat) (l : List Turn), s.Canonical ∧ s.agenda = .copied tc tk :: l ∧ (s.tile tc).sup = [(tk, .copy page a)] :=
  let s : State := { issuing [(40, 32, 0x78F)] with tasks := [(143 * 8 + 7, { st := .held, rem := .parked })] }
  let p : State := { issuing [(40, 32, 0x78F)] with tasks := [(143 * 8 + 7, { st := .parked })] }
  ⟨⟨s, c0, 40, canonical_of (by decide +kernel), by and_intros <;> decide +kernel⟩,
   ⟨p, c0, 40, canonical_of (by decide +kernel), by and_intros <;> decide +kernel⟩,
   ⟨issuing [(40, 32, 0x78F)], c0, 40, canonical_of (by decide +kernel), by and_intros <;> decide +kernel⟩,
   ⟨{ issuing [(40, 64, 0x15FFF000 + 143 * 2 ^ 32 + 15 * 2 ^ 40)] with tiles := [(143, { sup := [(2040, .copy 15 0x10000000)] })] }, c0, 40,
     canonical_of (by decide +kernel), by and_intros <;> decide +kernel⟩,
   ⟨issuing [(40, 64, 0x15FFF000 + 143 * 2 ^ 32 + 15 * 2 ^ 40)], c0, 40, canonical_of (by decide +kernel), by and_intros <;> decide +kernel⟩,
   { issuing [] with tiles := [(143, { sup := [(2040, .copy 15 0x10000000)] })], agenda := [.copied 143 2040] }, 143, 2040, 15, 0x10000000, [],
     canonical_of (by decide +kernel), rfl, by decide +kernel⟩

/-- A product in flight and a load's value, both for s40, before a bundle that reads it (R72's own example). -/
def readsIt : Instr := .add ⟨LoopCond.none, Pred.always, 3, 8, 40, 24, false⟩
def landState : State :=
  { fieldTask [] 0 with
    mem := Memory.putAll [] (place (.istore 1) 0) ((encode readsIt).flatMap (bytesOfNat 4))
    tiles := [(1, { fld := some 0, ver := 1, pages := 1 })]
    tasks := [(8, { st := .runnable, flight := [⟨2, .range 40 8, 7⟩], rets := [⟨3, some (40, 8), none, none, some 9, false, false⟩] })] }

/-- A RUNNABLE task with a due result; one with a due replay entry; returns to slices and to a handle whose values are known. -/
theorem witness_LandingsReachTheSliceFile :
    (∃ (s : State) (n : Nat), s.Canonical ∧ (s.task n).st = .runnable ∧ (s.task n).replay = [] ∧ (s.task n).flight ≠ [] ∧ (s.task n).rets = []) ∧
    (∃ (s : State) (n : Nat) (f : Flight) (r : Ret) (l : List Instr), s.Canonical ∧ (s.task n).st = .runnable ∧ (s.task n).replay = [] ∧ (s.task n).flight = [f] ∧
      f.rc ≠ 0 ∧ f.rc < 8 ∧ (s.task n).rets = [r] ∧ r.val ≠ none ∧ (s.task n).retFree r = false ∧ (s.bundleAt n).1 = .good l ∧
      l.any { s.task n with pend := r.mask, hpend := r.hmask }.touchesPending = true) ∧
    (∃ (s : State) (n p : Nat) (e : BitVec 96), s.Canonical ∧ (s.task n).st = .runnable ∧ (s.task n).replay = [(p, e)] ∧ (rEntry e).v = true ∧ (rEntry e).rc = 0 ∧
      (rEntry e).seq < 16) ∧
    (∃ (s : State) (n a m : Nat) (r : Ret) (v : Handle), s.Canonical ∧ (s.task n).rets.find? (fun x => decide (x.id = r.id)) = some r ∧ r.val = some v ∧
      (s.task n).retFree r = true ∧ r.rng = some (a, m) ∧ r.gate = none ∧ r.hdl = none ∧ r.gateOnly = false) ∧
    ∃ (s : State) (n h : Nat) (r : Ret) (v : Handle), s.Canonical ∧ (s.task n).rets.find? (fun x => decide (x.id = r.id)) = some r ∧ r.val = some v ∧
      (s.task n).retFree r = true ∧ r.rng = none ∧ r.gate = none ∧ r.hdl = some h :=
  let t : Task := { st := .runnable, flight := [⟨0, .range 40 8, 7⟩] }
  let r : Ret := ⟨3, some (112, 16), none, none, some 9, false, false⟩
  let h : Ret := ⟨3, none, none, some 15, some 9, false, false⟩
  ⟨⟨{ State.reset with tasks := [(8, t)] }, 8, canonical_of (by decide +kernel), rfl, rfl, by decide +kernel, rfl⟩,
   ⟨landState, 8, ⟨2, .range 40 8, 7⟩, ⟨3, some (40, 8), none, none, some 9, false, false⟩, [readsIt], canonical_of (by decide +kernel), by decide +kernel⟩,
   ⟨{ State.reset with tasks := [(8, { st := .runnable, replay := [(0, (captureEntry 0 0 (.range 40 8) 7).bits)] })] }, 8, 0, (captureEntry 0 0 (.range 40 8) 7).bits, canonical_of (by decide +kernel), rfl,
    by and_intros <;> decide +kernel⟩,
   ⟨{ State.reset with tasks := [(8, { st := .parked, rets := [r] })] }, 8, 112, 16, r, 9, canonical_of (by decide +kernel), by decide +kernel, rfl, by decide +kernel, rfl,
    rfl, rfl, rfl⟩,
   { State.reset with tasks := [(8, { st := .parked, rets := [h] })] }, 8, 15, h, 9, canonical_of (by decide +kernel), by decide +kernel, rfl, by decide +kernel, rfl,
   rfl, rfl⟩

/-- A page that is not loaded; a reserved word; an asynchronous fault due; a HELD task. -/
theorem witness_FaultsOfTasksAreTaken :
    (∃ (s : State) (n info : Nat), s.Canonical ∧ isMgmt (n / 8) = false ∧ s.mayTake n = true ∧ s.fetchCause n = some (.ifetchMiss, info)) ∧
    (∃ (s : State) (n info : Nat), s.Canonical ∧ isMgmt (n / 8) = false ∧ s.mayTake n = true ∧ s.fetchCause n = some (.illegalBundle, info)) ∧
    (∃ (s : State) (n : Nat), s.Canonical ∧ isMgmt (n / 8) = false ∧ (s.task n).st = .runnable ∧ s.coreRuns (n / 8) = true ∧ (s.task n).asyncs ≠ [] ∧
      (s.task n).waitfInPort = false) ∧
    ∃ (s : State) (n : Nat), s.Canonical ∧ isMgmt (n / 8) = false ∧ (s.task n).st = .held :=
  let s := fieldTask [] 0
  ⟨⟨s, 8, 0, canonical_of (by decide +kernel), by and_intros <;> decide +kernel⟩,
   ⟨{ s with tasks := [(8, { st := .runnable, lines := [0] })], tiles := [(1, { fld := some 0, ver := 1, pages := 1 })], mem := Memory.putAll [] (place (.istore 1) 0) (bytesOfNat 4 0x78000000) }, 8, 0x7800000000000000 + 255,
    canonical_of (by decide +kernel), by and_intros <;> decide +kernel⟩,
   ⟨{ s with tasks := [(8, { st := .runnable, asyncs := [(.lockHeld, 5, 0)] })] }, 8, canonical_of (by decide +kernel), by and_intros <;> decide +kernel⟩,
   { s with tasks := [(8, { st := .held })] }, 8, canonical_of (by decide +kernel), by decide +kernel, by decide +kernel⟩

/-- Words for a tile without a field, and for a channel with 7 words that no task and that one task holds; a free bit an LDL waits for; bits
held for 4,096 cycles by a task and by a cell. -/
def arrivalState : State :=
  { fieldTask [] 0 with
    tasks := [(8, { st := .runnable, vc := some 31, port := [⟨.ldl 4, 0x40, some 0, []⟩], waitLock := some 1028 })]
    tiles := [(0, { fld := some 0, ver := 1 }), (1, { fld := some 0, ver := 1, vcs := [(30, List.replicate 7 1), (31, List.replicate 7 2)] })]
    mesh := [⟨none, 7, 3, 5, false, 0, 0⟩, ⟨none, 1, 30, 6, false, 0, 0⟩, ⟨none, 1, 31, 7, false, 0, 0⟩, ⟨some 9, 1, 31, 7, false, 1, 4⟩]
    locks := [(1028, { waiters := [(false, 8, 0)] }), (1029, { held := true, holder := 8, cycles := 12 * 4096 }), (1030, { held := true, byCell := true, holder := 300, cycles := 12 * 4096 })] }

theorem witness_WordsArriveAndLockBitsMove :
    ∃ s : State, s.Canonical ∧
      (∃ m, s.mesh[0]? = some m ∧ (∀ j x, j < 0 → s.mesh[j]? = some x → ¬ (x.src = m.src ∧ x.core = m.core ∧ x.vc = m.vc)) ∧ s.takesWords m.core = false) ∧
      (∃ m, s.mesh[1]? = some m ∧ s.takesWords m.core = true ∧ ((s.tile m.core).vc m.vc).length < 8 ∧ s.boundTo m.core m.vc = none) ∧
      (∃ m b, s.mesh[2]? = some m ∧ s.takesWords m.core = true ∧ ((s.tile m.core).vc m.vc).length < 8 ∧ s.boundTo m.core m.vc = some b) ∧
      (∃ (lk k n a r : Nat) (rest : List (Bool × Nat × Nat)), (s.lockBit lk).waiters = (false, k, 0) :: rest ∧ (s.lockBit lk).held = false ∧
        s.portRuns (k / 8) = true ∧ (s.task k).port = [⟨.ldl n, a, some r, []⟩] ∧ lockOf (k / 8) a = some lk ∧ (s.task k).st = .runnable ∧
        NoneBehind s k ∧
        ∀ w, w < 8 → bitB ((s.die (dieOf (k / 8))).reg (0x132 + 4 * w)) 0 = false) ∧
      (∃ lk, let l := s.lockBit lk
        l.held = true ∧ l.byCell = false ∧ 12 * 4096 ≤ l.cycles ∧ (s.task l.holder).st = .runnable) ∧
      (∃ m, s.mesh[3]? = some m ∧ 0 < m.behind) ∧
      (∃ lk f, let l := s.lockBit lk
        l.held = true ∧ l.byCell = true ∧ 12 * 4096 ≤ l.cycles ∧ s.fieldOf (l.holder / 256) = some f ∧ (s.field f).st = .live ∧ (s.field f).closing = none ∧
          s.returnsOpen f = false) ∧
      ∃ (z : State) (lk f : Nat), z.Canonical ∧ let l := z.lockBit lk
        l.held = true ∧ l.byCell = true ∧ 12 * 4096 ≤ l.cycles ∧ z.fieldOf (l.holder / 256) = some f ∧ (z.field f).st = .live ∧ (z.field f).closing = none ∧
          z.returnsOpen f = true := by
  refine ⟨arrivalState, canonical_of (by decide +kernel), ⟨⟨none, 7, 3, 5, false, 0, 0⟩, rfl, fun _ _ h => absurd h (Nat.not_lt_zero _), by decide +kernel⟩,
    ⟨_, rfl, by and_intros <;> decide +kernel⟩, ⟨_, 8, rfl, by and_intros <;> decide +kernel⟩,
    ⟨1028, 8, 4, 0x40, 0, [], by decide +kernel, by decide +kernel, by decide +kernel, by decide +kernel, by decide +kernel, by decide +kernel, ?_, ?_⟩,
    ⟨1029, by decide +kernel⟩, ⟨_, rfl, by decide⟩, ⟨1030, 0, by decide +kernel⟩,
    { arrivalState with tasks := [(8, { st := .runnable, rets := [⟨3, some (40, 8), none, none, none, false, false⟩] })] }, 1030, 0, canonical_of (by decide +kernel), by decide +kernel⟩
  · exact (by and_intros <;> decide +kernel)
  · exact quiet_of (c := 1) (by decide +kernel)

/-- A running field task's commands: one that waits, an SFIL that has delivered all, an SBAR before which nothing is unended. -/
def commandState (l : Sparse Cmd) : State := { fieldTask [] 0 with cmds := l }

theorem witness_QueueCommandsStartAndEnd :
    (∃ (s : State) (cm : Nat), s.Canonical ∧ s.pumpRuns (cm / 128) = true ∧ (s.cmd cm).o.nk = true ∧ ((s.tile (cm / 128)).counter (s.cmd cm).o.nt).val ≠ 1 ∧
      (s.cmd cm).st = .waiting ∧ (s.cmd cm).op ≠ 0x31 ∧ s.runningCount (cm / 128) < 64 ∧
      ∀ e, e < 16 → (s.cmd (cmdAt (cm / 16) e)).st ≠ .waiting ∨ (s.cmd cm).seq ≤ (s.cmd (cmdAt (cm / 16) e)).seq) ∧
    (∃ (s : State) (cm : Nat), s.Canonical ∧ s.pumpRuns (cm / 128) = true ∧ (s.cmd cm).o.nk = false ∧ (s.cmd cm).st = .running ∧ (s.cmd cm).op ≤ 7 ∧
      (s.cmd cm).kill = false ∧ (s.cmd cm).units ≤ (s.cmd cm).pos ∧ (s.cmd cm).owed = [] ∧ (s.cmd cm).redo = []) ∧
    (∃ (s : State) (cm : Nat), s.Canonical ∧ s.pumpRuns (cm / 128) = true ∧ (s.cmd cm).st = .waiting ∧ (s.cmd cm).op = 0x31 ∧ (s.cmd cm).behind ≠ 0 ∧
      s.runningCount (cm / 128) < 64 ∧ ∀ e, e < 16 → (s.cmd (cmdAt (cm / 16) e)).st ≠ .waiting ∨ (s.cmd cm).seq ≤ (s.cmd (cmdAt (cm / 16) e)).seq) ∧
    ∃ (s : State) (cm : Nat), s.Canonical ∧ s.pumpRuns (cm / 128) = true ∧ (s.cmd cm).o.nk = false ∧ (s.cmd cm).st = .running ∧ (s.cmd cm).op = 9 ∧
      ∀ e, e < 16 → let b := s.cmd (cmdAt (cm / 16) e)
        b.ended = true ∨ b.writesMem = false ∨ (s.cmd cm).seq ≤ b.seq ∨ bitB (sbarMask (s.cmd cm).o) b.o.cls = false :=
  ⟨⟨commandState [(128, { st := .waiting, op := 7, behind := 2, o := { okS with nk := true, nt := 31 } }), (143, { st := .waiting, seq := 1 })], 128, canonical_of (by decide +kernel),
    by and_intros <;> decide +kernel⟩,
   ⟨commandState [(128, { st := .running, op := 7, h := hnd 0x10000000 2 6 64 1, pos := 64 })], 128, canonical_of (by decide +kernel), by decide +kernel⟩,
   ⟨commandState [(128, { st := .waiting, op := 0x31, behind := 1 })], 128, canonical_of (by decide +kernel), by and_intros <;> decide +kernel⟩,
   commandState [(128, { st := .running, op := 9, seq := 1, o := { okS with cls := 1 } }), (143, { st := .running, op := 7, o := { okS with cls := 1 } })], 128,
   canonical_of (by decide +kernel), by and_intros <;> decide +kernel⟩

/-- The last decrement of a counter that another task, or the command's own, is bound to: from a stream's end, and from an SBAR's. -/
theorem witness_QueueCommandsStartAndEnd_events :
    ∀ x ∈ [(7, 64, 0), (7, 64, 1), (9, 0, 1)],
      let z := fieldTask [] 0
      let s : State := { z with
        tasks := z.tasks ++ [(9, { st := .parked, kind := .waitc, waitDc := 31 })]
        tiles := [(1, { fld := some 0, ver := 1, counters := [(31, { val := 1, bound := some x.2.2 })] })]
        cmds := [(128, { st := .running, op := x.1, h := hnd 0x10000000 2 6 64 1, pos := x.2.1, o := { okS with nk := true, nt := 31 } })] }
      (canonB s && s.pumpRuns 1 && decide ((s.cmd 128).st = .running ∧ (s.cmd 128).o.nk = true) &&
        decide (((s.tile 1).counter 31).val = 1 ∧ ((s.tile 1).counter 31).bound = some x.2.2) && decide ((s.task 9).waits .waitc = true) &&
        (decide ((s.cmd 128).op = 7 ∧ (s.cmd 128).kill = false ∧ (s.cmd 128).units ≤ (s.cmd 128).pos ∧ (s.cmd 128).owed = [] ∧ (s.cmd 128).redo = []) ||
          decide ((s.cmd 128).op = 9) && (List.range 16).all fun e => (s.cmd (128 + e)).ended || decide ((s.cmd 128).seq ≤ (s.cmd (128 + e)).seq))) = true := by
  decide +kernel

/-- Memory whose page table maps device addresses below 1 GiB to HBM, readable and writable, and leaves the rest not present. -/
def tableMem : Memory := (Memory.putAll [] 0x100000 (bytesOfNat 8 (1 + 0x101000))).putAll 0x101000 (bytesOfNat 8 0x1F)

def tablePkg : Pkg := { ptrootl := 0x100000#32, started := true }

/-- What the statement assumes of every beat, as a computation. -/
def beatB (s : State) (cm : Nat) : Bool :=
  let c := s.cmd cm
  let core := cm / 128
  canonB s && quietB s core && decide (c.st = .running) && !c.kill && decide (c.walk = none) && decide (c.redo = []) && s.pumpRuns core &&
    (!c.readsLocal || !s.barred cm) && !s.beatWaits cm && decide (c.pos < c.units) &&
    (decide (c.op = 0) && c.o.ls || !s.bankHeld cm && decide (c.wait < 15))

/-- An element of a walk at an address; one inside local memory; bytes of a device address in HBM. -/
def elemB (w : WalkSpec) (j a : Nat) : Bool :=
  decide (hLayout w.h = 0) && decide (w.b = 8 ∨ w.b = 16 ∨ w.b = 32) && decide ((w.addr j).1 = (a : Int))
def insideB (s : State) (core j : Nat) (w : WalkSpec) (a : Nat) : Bool :=
  elemB w j a && decide (hSpace w.h ≠ 4) && decide (a + w.b / 8 ≤ 2 ^ 32) && (List.range (w.b / 8)).all fun i =>
    (s.region core (a + i)).isSome && decide (localPlace core (a + i) = ((localPlace core a).1, (localPlace core a).2 + i))
def hbmB (s : State) (cm : Nat) (wr : Bool) (a x n : Nat) : Bool :=
  (List.range n).all fun i => match s.spot (cm / 128) (s.leaves (cm / 128) (s.cmd cm)) 4 ((a + i : Nat) : Int) wr with
    | .ok (.here .hbm o) => decide (o = x + i)
    | _ => false

/-- The commands of the field's second tile, with cells fed by and feeding its pump, a word at an output, and device memory mapped. -/
def beatState (l : Sparse Cmd) (x : LinkWord := {}) : State :=
  { commandState l with
    mem := tableMem
    pkg := tablePkg
    tiles := [(0, { fld := some 0, ver := 1 }), (1, { fld := some 0, ver := 1, outq := [(3, [x])] })]
    cells := [(304, { prog := [(16, BitVec.ofNat 128 (2 ^ 18 + 2 ^ 40 + 2 ^ 36))], ver := 1, loaded := true }),
      (319, { prog := [(16, BitVec.ofNat 128 (2 ^ 18 + 2 ^ 40))], ver := 1, loaded := true }),
      (336, { prog := [(16, BitVec.ofNat 128 (2 ^ 18 + 2 ^ 36))], ver := 1, loaded := true })] }

/-- SLD, in lockstep or not, of 64 bytes to port 5. -/
def loads (base space port : Nat) (ls : Bool) : Cmd := { st := .running, op := 0, h := hnd base space 6 64 1, pos := 3, ver := 1, o := { okS with port := port, ls := ls } }

/-- The words of a beat toward the array, as a computation. -/
def toB (s : State) (cm : Nat) (at_ : Nat) : Bool :=
  let c := s.cmd cm
  let sp := c.spec.unitSpan c.pos
  let core := cm / 128
  beatB s cm && decide ((s.targets cm).Nodup) && (s.targets cm).all (fun p => decide (s.portReady p c.o.port c.ver = some true)) &&
    decide (c.spec.badIndex sp.1 sp.2 = none) && decide (sp.1 < sp.2) && (List.range (sp.2 - sp.1)).all fun i => insideB s core (sp.1 + i) c.spec (at_ + i)
def lockB (s : State) (cm : Nat) : Bool :=
  let core := cm / 128
  decide (s.lockstepSet cm = [cm]) && !s.wrongGroup cm && !(s.beatBanks cm).any (s.banksOwed core).contains &&
    decide (sharedBank [s.banksNow core (s.tile core).lockAt, s.beatBanks cm] = none) && decide ((s.cmd cm).beatAt ≠ s.coreCycle core + 1)
def endsB (s : State) (cm : Nat) : Bool :=
  beatB s cm && !isMgmt (cm / 128) && decide (s.fieldOf (cm / 128) = some 0) && decide ((s.field 0).closing = none) && !s.returnsOpen 0 && !(s.die 0).traceOn &&
    s.intake.launches.all (fun x => decide (x.fld ≠ some 0))

/-- SFIL's last byte of the field's granary window, a byte in HBM, and one whose page is not held; SCP of an element of 32 bits, and of one
from HBM; SLD to the array, in lockstep and not, and to a channel; SST of a word without an element and of one with 16; SREC of a zero word
and of one that it forwards; an address outside, an index outside, the other half of the bin, and two lockstep beats of one bank. -/
theorem witness_StreamBeatsMoveElements :
    ((let s := commandState [(128, { st := .running, op := 7, h := hnd 0x1000FFC0 2 6 64 1, pos := 63, sop := 0xAB })]
      beatB s 128 && insideB s 1 63 (s.cmd 128).outSpec 0x1000FFFF) = true ∧
     (let s := beatState [(128, { st := .running, op := 7, h := hnd 0x3FFFFFC0 4 6 64 1, pos := 63, sop := 0xAB, xl := some ⟨0, 30, 0x1F⟩ })]
      beatB s 128 && elemB (s.cmd 128).outSpec 63 0x3FFFFFFF && hbmB s 128 true 0x3FFFFFFF 0x3FFFFFFF 1) = true ∧
     (let s := beatState [(128, { st := .running, op := 7, h := hnd 0x3FFFFFC0 4 6 64 1, pos := 63, sop := 0xAB })]
      beatB s 128 && elemB (s.cmd 128).outSpec 63 0x3FFFFFFF && decide ((s.leaves 1 (s.cmd 128)).find? (·.covers 0x3FFFFFFF) = none) &&
        !inRegs 0x3FFFFFFF) = true) ∧
    ((let s := commandState [(128, { st := .running, op := 2, h := hnd 0x10000000 2 11 4 4, h2 := hnd 0x10000100 2 11 4 4, pos := 3 })]
      beatB s 128 && insideB s 1 3 (s.cmd 128).outSpec 0x1000010C && insideB s 1 3 (s.cmd 128).spec 0x1000000C) = true ∧
     (let s := beatState [(128, { st := .running, op := 2, h := hnd 0x20000000 4 11 4 4, h2 := hnd 0x10000100 2 11 4 4, pos := 3, xl := some ⟨0, 30, 0x1F⟩ })]
      beatB s 128 && insideB s 1 3 (s.cmd 128).outSpec 0x1000010C && elemB (s.cmd 128).spec 3 0x2000000C && hbmB s 128 false 0x2000000C 0x2000000C 4) = true) ∧
    ((let s := beatState [(128, loads 0x10000000 2 5 false)]
      toB s 128 0x10000030 && !s.mirrored none 336) = true ∧
     (let s := beatState [(128, loads 0 1 5 true)]
      toB s 128 0x30 && lockB s 128 && !s.mirrored none 336) = true ∧
     (let s := beatState [(128, loads 0x10000000 2 0x5E false)]
      beatB s 128 && decide (s.portReady 1 0x5E 1 = some true) && decide (s.boundTo 1 30 = none) && insideB s 1 3 (s.cmd 128).spec 0x10000003) = true) ∧
    ((let s := beatState [(128, { loads 0x10000000 2 3 false with op := 1 })]
      beatB s 128 && decide (s.outHead 1 3 1 = some (some {}))) = true ∧
     (let s := beatState [(128, { loads 0x10000000 2 3 false with op := 1 })] { data := 5, valid := true, ver := 1 }
      beatB s 128 && (match s.outHead 1 3 1 with | some (some x) => x.valid && !x.err | _ => false) &&
        (List.range 16).all fun i => insideB s 1 (48 + i) (s.cmd 128).spec (0x10000030 + i)) = true) ∧
    ((let s := beatState [(128, { loads 0x10000000 2 5 false with op := 5, sop := BitVec.ofNat 64 (3 + 32 * 4) })]
      beatB s 128 && decide (s.portReady 1 5 1 = some true) && !s.mirrored none 336) = true ∧
     (let s := beatState [(128, { loads 0x10000000 2 5 false with op := 5, sop := BitVec.ofNat 64 (3 + 32 * 3) })] { data := 5, valid := true, ver := 1 }
      beatB s 128 && decide (s.portReady 1 5 1 = some true) && !s.mirrored none 336 && (match s.outHead 1 3 1 with | some (some x) => x.valid | _ => false)) = true) ∧
    (let s := commandState [(128, { st := .running, op := 7, h := hnd 0x1000FFFF 2 6 2 1, pos := 1, sop := 0xAB })]
     endsB s 128 && elemB (s.cmd 128).outSpec 1 0x10010000 && (s.region 1 0x10010000).isNone) = true ∧
    (let s := beatState [(128, { st := .running, op := 3, h := hnd 0x10000000 2 6 64 1, ver := 1, sop := 0xFFFFFFFFFFFFFFC8, o := { okS with port := 5 } })]
     endsB s 128 && decide (s.portReady 1 5 1 = some true) && decide ((s.cmd 128).spec.badIndex ((s.cmd 128).spec.unitSpan 0).1 ((s.cmd 128).spec.unitSpan 0).2 = some 0)) = true ∧
    (let s := beatState [(128, loads 0x60000 1 5 true)]
     endsB s 128 && decide (s.lockstepSet 128 = [128]) && decide (s.portReady 1 5 1 ≠ some false) && decide ((s.cmd 128).beatAt ≠ s.coreCycle 1 + 1) && s.wrongGroup 128) = true ∧
    (let s := beatState [(128, loads 0 1 5 true), (129, loads 0x40 1 3 true)]
     let good := (s.lockstepSet 128).filter fun k => !s.wrongGroup k
     endsB s 128 && decide (good = [128, 129]) && (s.lockstepSet 128).all (fun k => decide (s.portReady 1 (s.cmd k).o.port (s.cmd k).ver ≠ some false) &&
       !s.barred k && !s.beatWaits k && decide ((s.cmd k).beatAt ≠ s.coreCycle 1 + 1)) && !(good.flatMap s.beatBanks).any (s.banksOwed 1).contains &&
       decide (sharedBank (s.banksNow 1 (s.tile 1).lockAt :: good.map s.beatBanks) = some 0)) = true := by
  and_intros <;> decide +kernel

/-- A stream that waits for a walk of a mapped page, and one that waits for an address not present. -/
theorem witness_WalksTranslateOrPause :
    (∃ (s : State) (cm : Nat) (r : WalkReq) (l : Leaf), s.Canonical ∧ (s.cmd cm).st = .running ∧ s.pumpRuns (cm / 128) = true ∧ (s.cmd cm).walk = some r ∧
      (s.walk (s.die (dieOf (cm / 128))).walker r.dva).1 = .ok l ∧ bitB l.entry 2 = true ∧ bitB l.entry 5 = false ∧ (s.tile (cm / 128)).tlb.length < 512 ∧ s.walkBegun (cm / 128) cm = true) ∧
    (∃ (s : State) (cm : Nat) (r : WalkReq), s.Canonical ∧ (s.cmd cm).st = .running ∧ s.pumpRuns (cm / 128) = true ∧ (s.cmd cm).walk = some r ∧
      s.walkBegun (cm / 128) cm = false) ∧
    ∃ (s : State) (cm : Nat) (r : WalkReq), s.Canonical ∧ (s.cmd cm).st = .running ∧ s.pumpRuns (cm / 128) = true ∧ (s.cmd cm).walk = some r ∧
      (s.walk (s.die (dieOf (cm / 128))).walker r.dva).1 = .notPresent ∧ (s.die (dieOf (cm / 128))).traceOn = false ∧
      s.walkBegun (cm / 128) cm = true :=
  ⟨⟨{ commandState [(128, { st := .running, walk := some ⟨0x3FFFFFFF, true, 0, 0x3FFFFFFF⟩ })] with mem := tableMem, pkg := tablePkg, dies := [(0, { misses := [128] })] }, 128, ⟨0x3FFFFFFF, true, 0, 0x3FFFFFFF⟩,
    ⟨0, 30, 0x1F⟩, canonical_of (by decide +kernel), by decide +kernel⟩,
   ⟨commandState [(128, { st := .running, walk := some ⟨0x40000000, false, 0, 0x40000000⟩ })], 128, ⟨0x40000000, false, 0, 0x40000000⟩, canonical_of (by decide +kernel),
    by decide +kernel⟩,
   { commandState [(128, { st := .running, walk := some ⟨0x40000000, false, 0, 0x40000000⟩ })] with mem := tableMem, pkg := tablePkg, dies := [(0, { misses := [128] })] }, 128,
   ⟨0x40000000, false, 0, 0x40000000⟩, canonical_of (by decide +kernel), by decide +kernel⟩

/-- A page table's entry of a kind that a walk ends with, for a read or a write. -/
def walkState (e : Nat) (wr : Bool) : State :=
  { commandState [(128, { st := .running, walk := some ⟨0x3FFFFFFF, wr, 0, 0x3FFFFFFF⟩ })] with
    mem := (Memory.putAll [] 0x100000 (bytesOfNat 8 (1 + 0x101000))).putAll 0x101000 (bytesOfNat 8 e)
    pkg := tablePkg
    dies := [(0, { misses := [128] })] }

/-- A read of a migrating page, and a write of one; a write of one that is not writable; an entry with a reserved bit. -/
theorem witness_WalksTranslateOrPause_kinds :
    let ok (s : State) : Bool := canonB s && decide ((s.cmd 128).st = .running) && s.pumpRuns 1 && s.walkBegun 1 128
    let stops (s : State) : Bool := decide (s.fieldOf 1 = some 0 ∧ (s.field 0).closing = none ∧ s.intake.launches = []) && !s.returnsOpen 0 && !(s.die 0).traceOn
    let at_ (s : State) : Walk := (s.walk (s.die 0).walker 0x3FFFFFFF).1
    let migs (s : State) : Bool := match at_ s with | .mig l => bitB l.entry 2 && bitB l.entry 5 | _ => false
    (ok (walkState 0x3F false) && migs (walkState 0x3F false) && ok (walkState 0x3F true) && migs (walkState 0x3F true) && !((walkState 0x3F true).die 0).traceOn &&
      ok (walkState 0x1B true) && stops (walkState 0x1B true) && (match at_ (walkState 0x1B true) with | .ok l => !bitB l.entry 2 | _ => false) &&
      ok (walkState 0x11F true) && stops (walkState 0x11F true) && decide (at_ (walkState 0x11F true) = .prot)) = true := by
  decide +kernel

/-- A request whose control word and address are given, complete in fq, on a module with identifier 5 and its pages mapped. -/
def requestState (ctl addr : Nat) (data : List Word64) : State :=
  { fieldTask [] 0 with
    mem := tableMem
    pkg := tablePkg
    fab := { modid := 5 }
    tasks := [(8, { st := .runnable, reqNo := 65537, fq := [BitVec.ofNat 64 ctl, BitVec.ofNat 64 (5 * 2 ^ 48 + addr)] ++ data })] }

/-- What the statement assumes of a complete request, as a computation: it may leave. -/
def leavesB (s : State) (n : Nat) (w : Word64) : Bool :=
  let k := s.task n
  decide (reqLen w ≤ k.fq.length) && decide (k.st ≠ .free) && s.fqRuns n && k.mayLeave w.toNat (k.fqNums.headD k.reqNo)

/-- What it assumes of one that performs here at a physical address. -/
def servedB (s : State) (n a : Nat) (w : Word64) : Bool :=
  let aw := ((s.task n).fq.getD 1 0).toNat
  quietB s (n / 8) && !malformed w.toNat aw && decide (aw / 2 ^ 48 = s.fab.modid) && decide (s.fab.heldq = []) && !inRegs (aw % 2 ^ 48) &&
    (match (s.walk [] (aw % 2 ^ 48)).1 with
      | .ok lf => bitB lf.entry 2 && !bitB lf.entry 5 && decide (lf.target (aw % 2 ^ 48) = (0, a))
      | _ => false)

/-- A misaligned request; a LOAD, a STORE and an ADD of 8 bytes at the last bytes of the mapped page; an answered request. -/
theorem witness_RequestsLeaveAndAreAnswered :
    (∃ (s : State) (n : Nat) (w : Word64) (l : List Word64), s.Canonical ∧ (s.task n).fq = w :: l ∧ leavesB s n w = true ∧
      malformed w.toNat ((s.task n).fq.getD 1 0).toNat = true) ∧
    (∀ op, op < 3 → ∃ (s : State) (n a : Nat) (w : Word64) (l : List Word64), s.Canonical ∧ (s.task n).fq = w :: l ∧ leavesB s n w = true ∧ servedB s n a w = true ∧
      w.toNat % 16 = op) ∧
    ∃ (s : State) (n : Nat) (r : Req), s.Canonical ∧ (s.task n).reqs.find? (fun r => r.resp.isSome) = some r ∧ r.resp = some (0, some 7) ∧ (s.task n).rsyns = [] ∧
      (s.task n).port = [] ∧ (s.task n).st = .runnable := by
  refine ⟨⟨requestState 0xC0 0x3FFFFFF9 [], 8, 0xC0, [0x500003FFFFFF9], canonical_of (by decide +kernel), by and_intros <;> decide +kernel⟩, ?_,
    { fieldTask [] 0 with tasks := [(8, { st := .runnable, reqs := [⟨65536, 1, 0, 0, 5, [], none, false, some (0, some 7)⟩] })] }, 8,
    ⟨65536, 1, 0, 0, 5, [], none, false, some (0, some 7)⟩, canonical_of (by decide +kernel), by decide +kernel, rfl, rfl, rfl, rfl⟩
  intro op h
  have h3 : op = 0 ∨ op = 1 ∨ op = 2 := by omega
  rcases h3 with rfl | rfl | rfl
  · exact ⟨requestState 0xC0 0x3FFFFFF8 [], 8, 0x3FFFFFF8, 0xC0, [0x500003FFFFFF8], canonical_of (by decide +kernel), by and_intros <;> decide +kernel⟩
  · exact ⟨requestState 0xC1 0x3FFFFFF8 [7], 8, 0x3FFFFFF8, 0xC1, [0x500003FFFFFF8, 7], canonical_of (by decide +kernel), by and_intros <;> decide +kernel⟩
  · exact ⟨requestState 0xC2 0x3FFFFFF8 [7], 8, 0x3FFFFFF8, 0xC2, [0x500003FFFFFF8, 7], canonical_of (by decide +kernel), by and_intros <;> decide +kernel⟩

/-- The receive engine on, its region of 2 MiB at HBM address 0x20_0000, with what is given of it. -/
def rxState (rx : Rx) : State :=
  { fieldTask [] 0 with
    mem := tableMem
    pkg := { tablePkg with rxrgnl := 0x200000#32, rxctl := 0x80000001#32 }
    fab := { modid := 0 }
    rx := rx }

/-- A message of sequence number q to any tile, with tag 9. -/
def message (q len : Nat) : Msg := ⟨1, 0x3FF, 0, 9, q, len, false, List.replicate len 7, 128, none, true, [], false, 0, 0⟩

/-- A pattern that takes any source and tag, of task 8, its status record at 0x1000_0100. -/
def anyPattern : Pattern := ⟨0, 2 ^ 26 - 1, 0, 2 ^ 32 - 1, 0, 0, 0, 0x10000100, 0⟩
def posted (e : Nat) : Sparse Entry := [(e, { busy := true, gen := 5, task := 8, fld := some 0, order := 0, pat := anyPattern })]

def isOk {α : Type} : Except Nat α → Bool
  | .ok _ => true
  | .error _ => false

theorem ok_of {α : Type} {e : Except Nat α} (h : isOk e = true) : ∃ x, e = .ok x := by
  cases e with
  | ok x => exact ⟨x, rfl⟩
  | error _ => cases h

theorem stores_of {s : State} {m : Msg} (h : (match s.reserve m with | some m' => isOk (s.store m') | none => false) = true) :
    ∃ m' u x, s.reserve m = some m' ∧ s.store m' = .ok (u, x) := by
  cases hr : s.reserve m with
  | none => rw [hr] at h; cases h
  | some m' =>
    rw [hr] at h
    obtain ⟨p, hp⟩ := ok_of h
    exact ⟨m', p.1, p.2, rfl, hp⟩

/-- An MSEND of two bytes to tile 0 of the own module, its send descriptor at 0x1000_0100. -/
def sendState : State :=
  { commandState [(128, { st := .waiting, op := 0x31, h := hnd 0x10000000 2 6 2 1, sop := 0x10000100 })] with fab := { modid := 0 } }

theorem witness_MessagesArriveAndMatch :
    (∃ (s : State) (cm : Nat), s.Canonical ∧ (let c := s.cmd cm
      let d := s.read (localPlace (cm / 128) c.sop.toNat).1 (localPlace (cm / 128) c.sop.toNat).2 16
      c.op = 0x31 ∧ c.st = .waiting ∧ s.pumpRuns (cm / 128) = true ∧ s.runningCount (cm / 128) < 64 ∧ s.startsNext cm = true ∧
      (s.modCmd cm fun c => { c with st := .running, start := s.cycle }).maySend cm = true ∧ sdOk d = true ∧ sdMod d = s.fab.modid) ∧
      ∀ w, w < 8 → bitB ((s.die (dieOf (cm / 128))).reg (0x132 + 4 * w)) 0 = false) ∧
    (∃ (s : State) (i : Nat) (m : Msg), s.Canonical ∧ s.rx.arrivals[i]? = some m ∧ s.rxOn = false) ∧
    (∃ (s : State) (i pa : Nat) (m : Msg), s.Canonical ∧ s.rx.arrivals[i]? = some m ∧ s.rxOn = true ∧ s.rx.refusing = [] ∧
      s.rxPlace (s.seqAddr m.src) false = some pa ∧ (s.rxPlace (s.seqAddr m.src) true).isSome = true ∧ m.seq ≠ s.mem.le pa 4 ∧
      s.rx.hold.length < 2048 ∧ ∃ m' u x, s.reserve m = some m' ∧ s.store m' = .ok (u, x)) ∧
    (∃ (s : State) (i pa : Nat) (m : Msg), s.Canonical ∧ s.rx.arrivals[i]? = some m ∧ s.rxOn = true ∧ s.rx.refusing = [] ∧
      s.rxPlace (s.seqAddr m.src) false = some pa ∧ (s.rxPlace (s.seqAddr m.src) true).isSome = true ∧ m.seq = s.mem.le pa 4 ∧
      s.rx.hold = [] ∧ ∃ m' u x, s.reserve m = some m' ∧ s.store m' = .ok (u, x)) ∧
    (∃ (s : State) (m : Msg), s.Canonical ∧ s.rx.eligible[0]? = some m ∧ s.rx.oldestFit m = none ∧ m.cycle ≤ s.cycle ∧
      (∀ x ∈ s.rx.eligible, x.before m = false) ∧ ∃ x, (if m.kept = true then .ok (s, m) else s.store m) = .ok x) ∧
    (∃ (s : State) (e : Nat) (m : Msg), s.Canonical ∧ s.rx.eligible[0]? = some m ∧ s.rx.oldestFit m = some e ∧ m.len = 0 ∧ m.cycle ≤ s.cycle ∧
      ∀ x ∈ s.rx.eligible, x.before m = false) ∧
    (∃ (s : State) (e st : Nat) (m : Msg), s.Canonical ∧ (s.entry e).fin = some st ∧ (s.entry e).msg = some m ∧ (s.cmd (landKey e)).owed = [] ∧
      (s.cmd (landKey e)).redo = [] ∧ s.entryRuns (s.entry e) = true ∧ s.awaitsSender (s.entry e) = false ∧ (s.entry e).pat.tkind = 0 ∧ quietB s (coreOf (s.entry e).task) = true) ∧
    ∃ (s : State) (cm : Nat), s.Canonical ∧ let c := s.cmd cm
      c.op = 0x31 ∧ c.st = .running ∧ c.sent = true ∧ c.mkind = 0 ∧ c.o.nk = false ∧ sdKind c.mdesc = 0 ∧
      let r := s.cmd (cm + 1)
      r.op = 0x31 ∧ r.st = .running ∧ r.sent = true ∧ r.mkind ≠ 0 ∧ r.mdone = true ∧ r.rel = 0 ∧ r.o.nk = false ∧ sdKind r.mdesc = 0 :=
  ⟨⟨sendState, 128, canonical_of (by decide +kernel), by decide +kernel, quiet_of (c := 1) (by decide +kernel)⟩,
   ⟨{ State.reset with rx := { arrivals := [message 0 4] } }, 0, message 0 4, canonical_of (by decide +kernel), rfl, by decide +kernel⟩,
   ⟨rxState { arrivals := [message 1 64], hold := [message 2 0] }, 0, 0x200004, message 1 64, canonical_of (by decide +kernel), rfl, by decide +kernel, rfl,
    by decide +kernel, by decide +kernel, by decide +kernel, by decide +kernel, stores_of (by decide +kernel)⟩,
   ⟨rxState { arrivals := [message 0 64] }, 0, 0x200004, message 0 64, canonical_of (by decide +kernel), rfl, by decide +kernel, rfl, by decide +kernel,
    by decide +kernel, by decide +kernel, rfl, stores_of (by decide +kernel)⟩,
   ⟨rxState { eligible := [message 0 0] }, message 0 0, canonical_of (by decide +kernel), rfl, by decide +kernel, by decide, by decide +kernel, ok_of (by decide +kernel)⟩,
   ⟨rxState { eligible := [message 0 0], entries := posted 8191 }, 8191, message 0 0, canonical_of (by decide +kernel), rfl, by decide +kernel, rfl, by decide,
    by decide +kernel⟩,
   ⟨rxState { entries := [(8191, { busy := true, delivering := true, task := 8, fld := some 0, pat := anyPattern, msg := some (message 0 0), fin := some 0 })] }, 8191, 0,
    message 0 0, canonical_of (by decide +kernel), by and_intros <;> decide +kernel⟩,
   commandState [(128, { op := 0x31, st := .running, sent := true }), (129, { op := 0x31, st := .running, sent := true, mkind := 1, mdone := true })], 128, canonical_of (by decide +kernel), by decide +kernel⟩

/-- A post descriptor's 32 bytes: any source and tag, context 0, its status record at 0x1000_0100. -/
def descriptor : List Byte :=
  bytesOfNat 4 0 ++ bytesOfNat 4 (2 ^ 26 - 1) ++ bytesOfNat 4 0 ++ bytesOfNat 4 (2 ^ 32 - 1) ++ bytesOfNat 4 0 ++ bytesOfNat 4 0x10000100 ++ bytesOfNat 8 0

/-- The engine with one operation of task 8 to perform, over that descriptor at 0x1000_0000. -/
def opState (op : RxOp) (entries : Sparse Entry) : State :=
  let s := rxState { ops := [⟨8, 0, op⟩], entries := entries }
  { s with mem := s.mem.putAll (place (.granary 0) 0) descriptor }

theorem op_first (op : RxOp) (entries : Sparse Entry) :
    (opState op entries).rx.ops[0]? = some ⟨8, 0, op⟩ ∧ ∀ j x, j < 0 → (opState op entries).rx.ops[j]? = some x → x.task ≠ 8 :=
  ⟨rfl, fun _ _ h => absurd h (Nat.not_lt_zero _)⟩

/-- Nothing is eligible, nothing has matched in this cycle, no watchpoint is enabled, and the headers a search reads translate. -/
def idleB (s : State) (tk : Nat) (p : Pattern) : Bool :=
  s.rx.eligible.isEmpty && decide (s.rx.lastMatch = none) && quietB s (tk / 8) &&
    (s.rx.searched p (moduleTile (tk / 8))).all fun x => (s.rxPlace (s.headAddr x) false).isSome

theorem witness_MatchOperationsPerform :
    (∃ (s : State) (i tk a e : Nat) (h : Handle), s.Canonical ∧ (s.rx.ops[i]? = some ⟨tk, 0, .post a h⟩ ∧ ∀ j x, j < i → s.rx.ops[j]? = some x → x.task ≠ tk) ∧
      (s.descr (tk / 8) a).statOk = true ∧ (s.descr (tk / 8) a).srcOk = true ∧ (s.descr (tk / 8) a).targetOk = true ∧ s.rxOn = true ∧ e < 8192 ∧
      (s.entry e).busy = false ∧ (∀ j, j < e → (s.entry j).busy = true) ∧ (∀ m ∈ s.rx.cistern, fits m (s.descr (tk / 8) a).pat (moduleTile (tk / 8)) = false) ∧
      idleB s tk (s.descr (tk / 8) a).pat = true) ∧
    (∃ (s : State) (i tk a : Nat), s.Canonical ∧ (s.rx.ops[i]? = some ⟨tk, 0, .probe a⟩ ∧ ∀ j x, j < i → s.rx.ops[j]? = some x → x.task ≠ tk) ∧
      (s.descr (tk / 8) a).statOk = true ∧ (s.descr (tk / 8) a).srcOk = true ∧ (s.descr (tk / 8) a).targetOk = true ∧ (s.descr (tk / 8) a).pat.tkind = 0 ∧
      s.rxOn = true ∧ idleB s tk (s.descr (tk / 8) a).pat = true) ∧
    (∃ (s : State) (i tk r : Nat), s.Canonical ∧ (s.rx.ops[i]? = some ⟨tk, 0, .cancel r⟩ ∧ ∀ j x, j < i → s.rx.ops[j]? = some x → x.task ≠ tk) ∧ s.ridEntry r = none) ∧
    (∃ (s : State) (i tk r e : Nat), s.Canonical ∧ (s.rx.ops[i]? = some ⟨tk, 0, .cancel r⟩ ∧ ∀ j x, j < i → s.rx.ops[j]? = some x → x.task ≠ tk) ∧
      s.ridEntry r = some e ∧ (s.entry e).delivering = false ∧ (s.entry e).pat.tkind = 0 ∧ quietB s (coreOf (s.entry e).task) = true) ∧
    ∃ (s : State) (i tk r ret : Nat), s.Canonical ∧ s.rx.ops[i]? = some ⟨tk, 0, .test r ret⟩ ∧ ∀ j x, j < i → s.rx.ops[j]? = some x → x.task ≠ tk :=
  ⟨⟨opState (.post 0x10000000 0) (posted 0), 0, 8, 0x10000000, 1, 0, canonical_of (by decide +kernel), op_first _ _, by decide +kernel, by decide +kernel,
    by decide +kernel, by decide +kernel, by decide, by decide +kernel, fun j h => (by decide +kernel : ∀ j, j < 1 →
      ((opState (.post 0x10000000 0) (posted 0)).entry j).busy = true) j h, (fun _ h => nomatch h), by decide +kernel⟩,
   ⟨opState (.probe 0x10000000) [], 0, 8, 0x10000000, canonical_of (by decide +kernel), op_first _ _, by and_intros <;> decide +kernel⟩,
   ⟨opState (.cancel 0xFFFFFFFF) (posted 0), 0, 8, 0xFFFFFFFF, canonical_of (by decide +kernel), op_first _ _, by decide +kernel⟩,
   ⟨opState (.cancel (8191 + 5 * 2 ^ 13)) (posted 8191), 0, 8, 8191 + 5 * 2 ^ 13, 8191, canonical_of (by decide +kernel), op_first _ _, by decide +kernel,
    by decide +kernel⟩,
   opState (.test 5 0) [], 0, 8, 5, 0, canonical_of (by decide +kernel), op_first _ _⟩

/-! ### A field image of one tile whose cells, pages, tasks and segments are all absent -/

/-- The image's header, tile map and section table; 81,936 bytes of zeros follow. -/
def imageHead : List Byte :=
  bytesOfNat 4 0x51464D49 ++ bytesOfNat 2 1 ++ [1, 1] ++ bytesOfNat 2 1 ++ [0, 0] ++ bytesOfNat 4 0 ++ bytesOfNat 4 0 ++ bytesOfNat 4 1 ++ bytesOfNat 8 64 ++
    bytesOfNat 8 68 ++ bytesOfNat 8 82020 ++ bytesOfNat 16 0 ++ bytesOfNat 4 0 ++ bytesOfNat 8 84 ++ bytesOfNat 8 81936

def zeroBytes (n : Nat) : List Byte := List.replicate n 0

def emptySect : Sect := ⟨List.replicate 256 [], 0, 0, [], [], []⟩
def emptyImage : Image := ⟨1, 1, 1, false, 0, 0, [0], [emptySect]⟩

theorem imageHead_length : imageHead.length = 84 := by decide +kernel

theorem part_head (z : List Byte) (o n : Nat) (h : o + n ≤ 84) : part (imageHead ++ z) o n = part imageHead o n := by
  have l := imageHead_length
  simp only [part]
  rw [List.drop_append_of_le_length (by omega), List.take_append_of_le_length (by rw [List.length_drop]; omega)]

theorem leAt_head (z : List Byte) (o n : Nat) (h : o + n ≤ 84) : leAt (imageHead ++ z) o n = leAt imageHead o n := by
  simp only [leAt, part_head z o n h]

theorem part_zeros (m o n : Nat) : part (zeroBytes m) o n = zeroBytes (min n (m - o)) := by
  simp only [part, zeroBytes, List.drop_replicate, List.take_replicate]

theorem zeros_length (n : Nat) : (zeroBytes n).length = n := List.length_replicate

theorem drop_zeros (m n : Nat) : (zeroBytes m).drop n = zeroBytes (m - n) := by simp only [zeroBytes, List.drop_replicate]

theorem word_zeros (n : Nat) : wordOfBytes (zeroBytes n) = 0 := by
  induction n with
  | zero => rfl
  | succ n ih =>
    have : wordOfBytes (zeroBytes (n + 1)) = 0 + 256 * wordOfBytes (zeroBytes n) := rfl
    rw [this, ih]

theorem leAt_zeros (m o n : Nat) : leAt (zeroBytes m) o n = 0 := by simp only [leAt, part_zeros, word_zeros]

theorem parts_zeros (n m k : Nat) (h : n * m ≤ k) : partsOf n m (zeroBytes k) = List.replicate m (zeroBytes n) := by
  induction m generalizing k with
  | zero => rfl
  | succ m ih =>
    have h1 : n * m + n ≤ k := by rwa [Nat.mul_succ] at h
    have ht : (zeroBytes k).take n = zeroBytes n := by
      simp only [zeroBytes, List.take_replicate]; congr 1; exact Nat.min_eq_left (by omega)
    have hd : (zeroBytes k).drop n = zeroBytes (k - n) := by simp only [zeroBytes, List.drop_replicate]
    simp only [partsOf, ht, hd, ih (k - n) (by omega), List.replicate_succ]

theorem sect_zeros : imgSect (zeroBytes 81936) = some emptySect := by
  have hp : part (zeroBytes 81936) 81920 16 = zeroBytes 16 := part_zeros _ _ _
  have hc : cellWords (zeroBytes 320) = [] := by decide +kernel
  have hm : (List.range 16).filter (fun i => bitB 0 i) = [] := by decide +kernel
  have h1 : partsOf 320 256 (zeroBytes 81936) = List.replicate 256 (zeroBytes 320) := parts_zeros _ _ _ (by decide)
  have h0 (n : Nat) (l : List Byte) : partsOf n 0 l = [] := rfl
  unfold imgSect
  simp only [hp, leAt_zeros, hm, h1, h0, List.map_replicate, hc, List.length_nil, zeros_length, drop_zeros, List.map_nil, imgSegs]
  simp [-List.reduceReplicate, emptySect, allDiffer]

theorem image_parses : parseImage (imageHead ++ zeroBytes 81936) 1 1 = some emptyImage := by
  have hl : (imageHead ++ zeroBytes 81936).length = 82020 := by rw [List.length_append, imageHead_length, zeros_length]
  have ht : (imageHead ++ zeroBytes 81936).take 82020 = imageHead ++ zeroBytes 81936 := List.take_of_length_le (by omega)
  have hs : part (imageHead ++ zeroBytes 81936) 84 81936 = zeroBytes 81936 := by
    simp only [part]
    rw [List.drop_left' imageHead_length]
    exact List.take_of_length_le (Nat.le_of_eq (zeros_length _))
  have e (o n v : Nat) (h : o + n ≤ 84) (hv : leAt imageHead o n = v) : leAt (imageHead ++ zeroBytes 81936) o n = v := by rw [leAt_head _ _ _ h, hv]
  unfold parseImage
  simp only [e 40 8 82020 (by decide) (by decide +kernel), e 20 4 1 (by decide) (by decide +kernel), e 24 8 64 (by decide) (by decide +kernel),
    e 32 8 68 (by decide) (by decide +kernel), e 12 4 0 (by decide) (by decide +kernel), e 16 4 0 (by decide) (by decide +kernel), ht, hl,
    e 0 4 0x51464D49 (by decide) (by decide +kernel), e 4 2 1 (by decide) (by decide +kernel), e 6 1 1 (by decide) (by decide +kernel),
    e 7 1 1 (by decide) (by decide +kernel), e 10 1 0 (by decide) (by decide +kernel), e 11 1 0 (by decide) (by decide +kernel),
    e 48 16 0 (by decide) (by decide +kernel), e 8 2 1 (by decide) (by decide +kernel)]
  have hr : List.range (1 * 1) = [0] := rfl
  simp only [hr, List.map_cons, List.map_nil, Nat.mul_zero, Nat.add_zero, e 64 4 0 (by decide) (by decide +kernel),
    e 68 8 84 (by decide) (by decide +kernel), show 68 + 8 = 76 from rfl, e 76 8 81936 (by decide) (by decide +kernel), hs, sect_zeros]
  simp [-List.reduceReplicate, emptyImage, show emptySect.segs = [] from rfl]

/-! ### Cells -/

/-- A field of one tile whose load is in progress, with cells as given. -/
def loading (measured : Bool) (who : WaveBy) (cells : Sparse Cell) (cmds : Sparse Cmd) : State :=
  { State.reset with
    tiles := [(0, { fld := some 0, ver := 1, declared := true })]
    fields := [(0, { st := .loading, w := 1, h := 1, ver := 1, wave := some ⟨imageHead ++ zeroBytes 81936, who, true, measured⟩ })]
    cells := cells
    cmds := cmds }

/-- Cell 255 of tile 0, the last to load, loaded. -/
def lastLoaded : Sparse Cell := [(255, { loaded := true, ver := 1 })]

/-- The field's last cell loads behind its neighbours, no access of its tasks and no fault waiting. -/
theorem witness_CellsLoadAndWavesEnd_last :
    ∃ (s : State) (f k : Nat) (w : Wave) (im : Image) (x : Sect), s.Canonical ∧ (s.field f).wave = some w ∧ parseImage w.bytes (s.field f).w (s.field f).h = some im ∧
      (s.field f).st = .loading ∧ s.fieldOf (coreOfCell k) = some f ∧ (s.cell k).loaded = false ∧ s.waveAt k = true ∧ s.sectOf f (coreOfCell k) im = some x ∧
      (s.tile (coreOfCell k)).declared = true ∧ s.quiescent k = true ∧ (s.cell k).gap = none ∧
      (s.fieldCores f).getLast?.map (fun c => 256 * c + 255) = some k ∧
      ∀ c ∈ s.fieldCores f, ∀ i < 8, (s.task (c * 8 + i)).port = [] ∧ (s.task (c * 8 + i)).asyncs = [] :=
  ⟨loading false (.launch 1) [(239, { loaded := true, ver := 1 }), (254, { loaded := true, ver := 1 })] [], 0, 255, ⟨_, .launch 1, true, false⟩, emptyImage, emptySect,
   canonical_of (by decide +kernel), rfl, image_parses, rfl, by decide +kernel, by decide +kernel, by decide +kernel, by decide +kernel, by decide +kernel,
   by decide +kernel, by decide +kernel, by decide +kernel, fun _ _ _ _ => ⟨rfl, rfl⟩⟩

theorem witness_CellsLoadAndWavesEnd :
    (∃ (s : State) (f k : Nat) (w : Wave) (im : Image) (x : Sect), s.Canonical ∧ (s.field f).wave = some w ∧ parseImage w.bytes (s.field f).w (s.field f).h = some im ∧
      (s.field f).st = .loading ∧ s.fieldOf (coreOfCell k) = some f ∧ (s.cell k).loaded = false ∧ s.waveAt k = true ∧ s.sectOf f (coreOfCell k) im = some x ∧
      (s.tile (coreOfCell k)).declared = true ∧ s.quiescent k = true ∧ (s.cell k).gap = none ∧
      (s.fieldCores f).getLast?.map (fun c => 256 * c + 255) ≠ some k ∧ s.allLoaded f = false) ∧
    (∃ (s : State) (f : Nat) (w : Wave) (im : Image), s.Canonical ∧ (s.field f).wave = some w ∧ parseImage w.bytes (s.field f).w (s.field f).h = some im ∧
      w.measured = false) ∧
    (∃ (s : State) (f id : Nat) (w : Wave) (im : Image), s.Canonical ∧ (s.field f).wave = some w ∧ parseImage w.bytes (s.field f).w (s.field f).h = some im ∧
      w.measured = true ∧ (s.field f).st = .loading ∧ s.allLoaded f = true ∧ (s.die (f / 256)).traceOn = false ∧ w.by_ = .launch id) ∧
    ∃ (s : State) (f cm : Nat) (w : Wave) (im : Image), s.Canonical ∧ (s.field f).wave = some w ∧ parseImage w.bytes (s.field f).w (s.field f).h = some im ∧
      w.measured = true ∧ (s.field f).st = .loading ∧ s.allLoaded f = true ∧ (s.die (f / 256)).traceOn = false ∧ w.by_ = .scfg cm ∧ (s.cmd cm).live = true :=
  ⟨⟨loading false (.launch 1) [] [], 0, 0, ⟨_, .launch 1, true, false⟩, emptyImage, emptySect, canonical_of (by decide +kernel), rfl, image_parses, rfl,
    by and_intros <;> decide +kernel⟩,
   ⟨loading false (.launch 1) [] [], 0, ⟨_, .launch 1, true, false⟩, emptyImage, canonical_of (by decide +kernel), rfl, image_parses, rfl⟩,
   ⟨loading true (.launch 1) lastLoaded [], 0, 1, ⟨_, .launch 1, true, true⟩, emptyImage, canonical_of (by decide +kernel), rfl, image_parses, rfl, rfl,
    by decide +kernel, by decide +kernel, rfl⟩,
   loading true (.scfg 128) lastLoaded [(128, { st := .running, op := 8 })], 0, 128, ⟨_, .scfg 128, true, true⟩, emptyImage, canonical_of (by decide +kernel), rfl,
   image_parses, rfl, rfl, by decide +kernel, by decide +kernel, rfl, by decide +kernel⟩

/-- A move of a cell program (R244). -/
def moveWord (src dst op : Nat) : Nat := src * 2 ^ 21 + dst * 2 ^ 14 + op * 2 ^ 8

/-- A cell with one step of one move, configured (SW0 bit 18) with the rota its accesses ask for. -/
def oneMove (src dst op sw0 : Nat) : Cell :=
  let p : Cell := { prog := Sparse.set 0 [(16, BitVec.ofNat 128 (2 ^ 18 + sw0))] 0 (BitVec.ofNat 128 (moveWord src dst op)) }
  let a := accesses (p.moves 0)
  let rota := a.length * 2 ^ 16 + (a.zipIdx.foldl (fun v x => v + rotaCode x.1.1 x.1.2 * 2 ^ (24 + 5 * x.2)) 0)
  { prog := Sparse.set 0 p.prog 17 (BitVec.ofNat 128 rota), ver := 1, loaded := true, inp := [(0, [{ data := 5, valid := true, ver := 1 }])] }

/-- A LIVE field of tile 0 with cells as given. -/
def arrayState (cells : Sparse Cell) : State :=
  { State.reset with
    tiles := [(0, { fld := some 0, ver := 1 })]
    fields := [(0, { st := .live, w := 1, h := 1, ver := 1, own := 1200, live := 1200 })]
    cells := cells
    cycle := 100 }

/-- The hypotheses of a firing, as a computation. -/
def firesB (s : State) (k : Nat) : Bool :=
  let c := s.cell k
  s.canFire k && decide (c.rotaCheck c.rota (accesses (c.moves c.step)) = none) && !(c.fire s.cycle (s.ownCycles k) (s.liveCycles k)).2.2 && decide (c.gap = none)

/-- The hypotheses about one move from a link input with a valid word, as a computation. -/
def movesB (s : State) (k : Nat) (m : Move) (w : LinkWord) : Bool :=
  let c := s.cell k
  decide (c.moves c.step = [m]) && decide (m.gk = 0) && isLink m.src && decide (c.fifo (m.src - 1) = [w]) && w.valid

/-- A firing that is late by 49 cycles, one on time; a move to the east output, to the ALU's trigger, and to accumulator 15. -/
theorem witness_CellsFire :
    (∃ (s : State) (k : Nat) (m : Move) (w : LinkWord), s.Canonical ∧ firesB s k = true ∧ movesB s k m w = true ∧ isLink m.dst = true ∧ s.twinSink k (m.dst - 1) = false) ∧
    (∃ (s : State) (k : Nat) (m : Move) (w : LinkWord), s.Canonical ∧ firesB s k = true ∧ movesB s k m w = true ∧ m.dst = 0x22 ∧ (s.cell k).stop = false) ∧
    (∃ (s : State) (k n : Nat) (m : Move) (w : LinkWord), s.Canonical ∧ firesB s k = true ∧ movesB s k m w = true ∧ n < 16 ∧ m.dst = 0x30 + n ∧ m.op = 0 ∧
      (s.cell k).dpl = false ∧ (s.cell k).stop = false) ∧
    ∃ (s : State) (k p : Nat), s.Canonical ∧ firesB s k = true ∧ (s.cell k).lastFire = some p ∧ (s.cell k).ii ≠ 0 ∧
      s.liveCycles k - (s.cell k).lastLive - (s.cell k).ii ≠ 0 :=
  ⟨⟨arrayState [(17, oneMove 1 3 0 0), (18, oneMove 7 1 0 0)], 17, ⟨1, 3, 0, 0, 0, 0⟩, { data := 5, valid := true, ver := 1 }, canonical_of (by decide +kernel),
    by and_intros <;> decide +kernel⟩,
   ⟨arrayState [(17, oneMove 1 0x22 0 0)], 17, ⟨1, 0x22, 0, 0, 0, 0⟩, { data := 5, valid := true, ver := 1 }, canonical_of (by decide +kernel), by and_intros <;> decide +kernel⟩,
   ⟨arrayState [(17, oneMove 1 0x3F 0 (2 ^ 24 + 2 ^ 28))], 17, 15, ⟨1, 0x3F, 0, 0, 0, 0⟩, { data := 5, valid := true, ver := 1 }, canonical_of (by decide +kernel),
    by and_intros <;> decide +kernel⟩,
   arrayState [(17, { oneMove 1 0x22 0 256 with lastFire := some 50, lastOwn := 50, lastLive := 50 })], 17, 50, canonical_of (by decide +kernel), by and_intros <;> decide +kernel⟩

/-- The select bits that route a word on a cell's wire. -/
def selNow (s : State) (k : Nat) (w : LinkWord) : Nat :=
  if (s.cell k).loaded = true ∧ w.ver ≠ (s.cell k).ver then (s.cell k).was else bits (s.cell k).sw0 40 2

/-- Results due alone, to a port and to an accumulator; words that reach a cell, one of an old version by the old select bits, a cell of another version, and the pump; sinks that agree
and one that does not. -/
theorem witness_CellWordsArriveAndLand :
    (∃ (s : State) (k code : Nat) (w : LinkWord), s.Canonical ∧ (s.cell k).flight = [⟨0, .port code w⟩] ∧ s.canFire k = true) ∧
    (∃ (s : State) (k n : Nat) (a : Acc), s.Canonical ∧ (s.cell k).flight = [⟨0, .acc n a true false true⟩] ∧ s.canFire k = true) ∧
    (∃ (s : State) (k j m i : Nat) (w : LinkWord) (rest : List LinkWord), s.Canonical ∧ j < 8 ∧ (s.cell k).wire j = w :: rest ∧ s.sinkBy (selNow s k w) k j = .cell m i ∧ m ≠ k ∧
      m + 128 ≠ k ∧ (s.cell m).loaded = true ∧ w.ver = (s.cell m).ver ∧ s.mirrored (some k) m = true ∧ (s.cell (m + 128)).loaded = true ∧
      w.ver = (s.cell (m + 128)).ver) ∧
    (∃ (s : State) (k j m i : Nat) (w : LinkWord) (rest : List LinkWord), s.Canonical ∧ j < 8 ∧ (s.cell k).wire j = w :: rest ∧ (s.cell k).loaded = true ∧
      w.ver ≠ (s.cell k).ver ∧ (s.cell k).was ≠ bits (s.cell k).sw0 40 2 ∧ s.sinkBy (selNow s k w) k j = .cell m i ∧ m ≠ k ∧ m + 128 ≠ k ∧
      (s.cell m).loaded = true ∧ w.ver = (s.cell m).ver ∧ s.mirrored (some k) m = false) ∧
    (∃ (s : State) (k j m i f : Nat) (w : LinkWord) (rest : List LinkWord), s.Canonical ∧ j < 8 ∧ (s.cell k).wire j = w :: rest ∧ s.sinkBy (selNow s k w) k j = .cell m i ∧ m ≠ k ∧
      (s.cell m).loaded = true ∧ w.ver ≠ (s.cell m).ver ∧ s.mirrored (some k) m = false ∧ s.fieldOf (coreOfCell m) = some f ∧
      (s.die (f / 256)).traceOn = false) ∧
    (∃ (s : State) (k j code : Nat) (w : LinkWord) (rest : List LinkWord), s.Canonical ∧ j < 8 ∧ (s.cell k).wire j = w :: rest ∧ s.sinkBy (selNow s k w) k j = .pump code ∧
      w.ver = (s.cell k).ver) ∧
    (∃ (s : State) (k o : Nat) (w : LinkWord) (x y : TwinSink), s.Canonical ∧ (s.cell k).twin = true ∧ (s.cell k).shadow = false ∧ s.cellRuns k = true ∧
      (s.cell k).sinks = [x] ∧ (s.cell (k + 128)).sinks = [y] ∧ x = .link o w ∧ x.same y = true) ∧
    (∃ (s : State) (k o a n : Nat) (d : Word128) (x y : TwinSink), s.Canonical ∧ (s.cell k).twin = true ∧ (s.cell k).shadow = false ∧ s.cellRuns k = true ∧
      (s.cell k).sinks = [x] ∧ (s.cell (k + 128)).sinks = [y] ∧ x = .bin o a d n ∧ x.same y = true) ∧
    ∃ (s : State) (k f : Nat) (x y : TwinSink), s.Canonical ∧ (s.cell k).twin = true ∧ (s.cell k).shadow = false ∧ s.cellRuns k = true ∧
      (s.cell k).sinks = [x] ∧ (s.cell (k + 128)).sinks = [y] ∧ x.same y = false ∧ s.fieldOf (coreOfCell k) = some f ∧ (s.field f).st = .live ∧
      (s.die (f / 256)).traceOn = false ∧ (s.field f).closing = none ∧ s.returnsOpen f = false :=
  let w : LinkWord := { data := 5, valid := true, ver := 1 }
  let out : Cell := { oneMove 1 3 0 0 with wires := [(2, [w])] }
  let twins (x y : TwinSink) : State := arrayState [(17, { oneMove 1 3 0 (2 ^ 16) with sinks := [x] }), (145, { oneMove 1 3 0 (2 ^ 16 + 2 ^ 17) with sinks := [y] })]
  ⟨⟨arrayState [(17, { oneMove 1 0x22 0 0 with flight := [⟨0, .port 0x20 w⟩] })], 17, 0x20, w, canonical_of (by decide +kernel), by decide +kernel, by decide +kernel⟩,
   ⟨arrayState [(17, { oneMove 1 0x22 0 0 with flight := [⟨0, .acc 15 ⟨9, true⟩ true false true⟩] })], 17, 15, ⟨9, true⟩, canonical_of (by decide +kernel), by decide +kernel, by decide +kernel⟩,
   ⟨arrayState [(17, out), (18, oneMove 1 3 0 (2 ^ 16)), (146, oneMove 1 3 0 (2 ^ 16 + 2 ^ 17))], 17, 2, 18, 6, w, [], canonical_of (by decide +kernel), by and_intros <;> decide +kernel⟩,
   ⟨arrayState [(17, { out with ver := 2, was := 1 }), (18, oneMove 1 3 0 0)], 17, 2, 18, 6, w, [], canonical_of (by decide +kernel), by and_intros <;> decide +kernel⟩,
   ⟨arrayState [(17, out), (18, { oneMove 1 3 0 0 with ver := 2 })], 17, 2, 18, 6, 0, w, [], canonical_of (by decide +kernel), by and_intros <;> decide +kernel⟩,
   ⟨arrayState [(31, { oneMove 1 3 0 (2 ^ 40) with wires := [(2, [w])] })], 31, 2, 1, w, [], canonical_of (by decide +kernel), by and_intros <;> decide +kernel⟩,
   ⟨twins (.link 2 w) (.link 2 w), 17, 2, w, .link 2 w, .link 2 w, canonical_of (by decide +kernel), by decide +kernel, by decide +kernel, by decide +kernel,
    by decide +kernel, by decide +kernel, rfl, by decide +kernel⟩,
   ⟨twins (.bin 1 0x40 5 3) (.bin 1 0x40 5 3), 17, 1, 0x40, 3, 5, .bin 1 0x40 5 3, .bin 1 0x40 5 3, canonical_of (by decide +kernel), by decide +kernel,
    by decide +kernel, by decide +kernel, by decide +kernel, by decide +kernel, rfl, by decide +kernel⟩,
   twins (.bin 1 0x40 5 3) (.bin 1 0x40 6 3), 17, 0, .bin 1 0x40 5 3, .bin 1 0x40 6 3, canonical_of (by decide +kernel), by and_intros <;> decide +kernel⟩

/-- What the statement assumes of a bin-port operation, as a computation. -/
def performsB (s : State) (k n : Nat) (b : BinOp) : Bool :=
  let c := s.cell k
  decide (c.bin.find? (fun x => decide (x.num = n)) = some b) && !b.done && !b.twin && !b.waiting && !c.shadow && s.cellRuns k && !s.verHold (coreOfCell k) &&
    binOrder (c.bin.filter fun a => decide (a.num < n)) b && quietB s (coreOfCell k)

/-- One bin-port operation of cell 17 at the last granule of the bin, whose lock bit is as given. -/
def binState (b : BinOp) (locks : Sparse Lock) : State := { arrayState [(17, { oneMove 1 3 0 0 with bin := [b] })] with locks := locks }
def binOp (op addr : Nat) : BinOp := ⟨0, op, addr, { valid := true }, { data := 7, valid := true }, false, false, false, false, false, {}, 0, 0⟩

/-- A lockstep beat has read the operation's bank in this cycle; it has waited 15 cycles up to the one before this. -/
def bankReadB (s : State) (k : Nat) (b : BinOp) : Bool :=
  !b.bad && (s.banksNow (coreOfCell k) (s.tile (coreOfCell k)).lockAt).contains (b.addr / 0xC000)
def bankDueB (s : State) (k : Nat) (b : BinOp) : Bool := !b.bad && decide (15 ≤ b.wait) && decide (b.waitAt + 1 = s.coreCycle (coreOfCell k))

/-- A load whose bank is read while it has not waited long enough; one that has; stores with an error token and at a misaligned address, in a
LIVE field. -/
theorem witness_BinPortsPerform_banks :
    let busy (b : BinOp) : State := { binState b [] with tiles := [(0, { fld := some 0, ver := 1, lockAt := (101, [15]) })] }
    let held : BinOp := { binOp 0 0xBFFF0 with wait := 14, waitAt := 99 }
    let due : BinOp := { binOp 0 0xBFFF0 with wait := 15, waitAt := 99 }
    let err : BinOp := { binOp 1 0xBFFF0 with trig := { valid := true, err := true } }
    let field (s : State) : Bool := decide (s.fieldOf 0 = some 0) && decide ((s.field 0).st = .live ∧ (s.field 0).closing = none) && !s.returnsOpen 0 &&
      !(s.die 0).traceOn
    (canonB (busy held) && performsB (busy held) 17 0 held && bankReadB (busy held) 17 held && !bankDueB (busy held) 17 held) = true ∧
    (canonB (busy due) && performsB (busy due) 17 0 due && bankReadB (busy due) 17 due && bankDueB (busy due) 17 due && decide (due.op = 0)) = true ∧
    (∀ b ∈ [err, binOp 1 0xBFFF8], (canonB (binState b []) && performsB (binState b []) 17 0 b && b.bad && !b.gives && field (binState b [])) = true) := by
  and_intros
  · decide +kernel
  · decide +kernel
  · intro b h
    simp only [List.mem_cons, List.not_mem_nil, or_false] at h
    rcases h with rfl | rfl <;> decide +kernel

/-- An operation at a misaligned address, and each of the five at the last granule; its lock bit free, or held by a task. -/
theorem witness_BinPortsPerform :
    (∃ (s : State) (k n : Nat) (b : BinOp), s.Canonical ∧ performsB s k n b = true ∧ b.bad = true ∧ b.gives = true) ∧
    (∀ op, op < 5 → ∃ (s : State) (k n q : Nat) (b : BinOp), s.Canonical ∧ performsB s k n b = true ∧ b.bad = false ∧ bankReadB s k b = false ∧ bankDueB s k b = false ∧ b.op = op ∧
      lockOf (coreOfCell k) b.addr = some q ∧ (s.lockBit q).held = false ∧ (s.lockBit q).waiters = []) ∧
    ∃ (s : State) (k n q : Nat) (b : BinOp), s.Canonical ∧ performsB s k n b = true ∧ b.bad = false ∧ bankReadB s k b = false ∧ bankDueB s k b = false ∧ b.op = 2 ∧ lockOf (coreOfCell k) b.addr = some q ∧
      (s.lockBit q).held = true ∧ (s.lockBit q).heldByCell k = false := by
  refine ⟨⟨binState (binOp 0 0xBFFF8) [], 17, 0, binOp 0 0xBFFF8, canonical_of (by decide +kernel), by and_intros <;> decide +kernel⟩, ?_,
    binState (binOp 2 0xBFFF0) [(976, { held := true, holder := 8 })], 17, 0, 976, binOp 2 0xBFFF0, canonical_of (by decide +kernel), by and_intros <;> decide +kernel⟩
  intro op h
  have h5 : op = 0 ∨ op = 1 ∨ op = 2 ∨ op = 3 ∨ op = 4 := by omega
  rcases h5 with rfl | rfl | rfl | rfl | rfl
  · exact ⟨binState (binOp 0 0xBFFF0) [], 17, 0, 976, binOp 0 0xBFFF0, canonical_of (by decide +kernel), by and_intros <;> decide +kernel⟩
  · exact ⟨binState (binOp 1 0xBFFF0) [], 17, 0, 976, binOp 1 0xBFFF0, canonical_of (by decide +kernel), by and_intros <;> decide +kernel⟩
  · exact ⟨binState (binOp 2 0xBFFF0) [], 17, 0, 976, binOp 2 0xBFFF0, canonical_of (by decide +kernel), by and_intros <;> decide +kernel⟩
  · exact ⟨binState (binOp 3 0xBFFF0) [], 17, 0, 976, binOp 3 0xBFFF0, canonical_of (by decide +kernel), by and_intros <;> decide +kernel⟩
  · exact ⟨binState (binOp 4 0xBFFF0) [], 17, 0, 976, binOp 4 0xBFFF0, canonical_of (by decide +kernel), by and_intros <;> decide +kernel⟩

/-! ### Host and intake -/

/-- A good descriptor of a queue at head 5 and a tail, with 2^3 records from device address 0x8000, completions in HBM at 0x9000. -/
def queueDesc (tail : Nat) : List Byte :=
  bytesOfNat 8 0x8000 ++ bytesOfNat 8 0x9000 ++ bytesOfNat 4 tail ++ bytesOfNat 4 5 ++ [3, 2, 2, 255] ++ List.replicate 36 0

/-- Queue 4095's descriptor in a table at device address 0x4000, the module reachable, slots as given. -/
def hostState (tail : Nat) (slots : Sparse Slot) : State :=
  { State.reset with
    mem := tableMem.putAll (0x4000 + 64 * 4095) (queueDesc tail)
    pkg := tablePkg
    intake := { qdtbase := 0x4000, slots := slots } }

/-- The same with its page read-only. -/
def fixedState (tail : Nat) (slots : Sparse Slot) : State :=
  { hostState tail slots with
    mem := ((Memory.putAll [] 0x100000 (bytesOfNat 8 (1 + 0x101000))).putAll 0x101000 (bytesOfNat 8 0x1B)).putAll (0x4000 + 64 * 4095) (queueDesc tail) }

theorem some_of {α : Type} {o : Option α} (h : o.isSome = true) : ∃ x, o = some x := Option.isSome_iff_exists.mp h

def mappedSlot : Sparse Slot := [(63, { mapped := true, queue := 4095, tail := 6 })]
def goodDesc (tail : Nat) : QDesc := ⟨0x8000, 0x9000, tail, 5, 3, 2, false, 255⟩

/-- The module with the second gigabyte of device addresses in module 6's memory, and its queues' table there or not. -/
def farState (s : State) (table : Nat) : State :=
  { s with
    mem := s.mem.putAll 0x101008 (bytesOfNat 8 (6 * 2 ^ 48 + 0x9F))
    fab := { st := .isOpen, modid := 5, ports := [5, 6] }
    intake := { s.intake with qdtbase := table } }

def readsB (s : State) (q : Nat) (lines : Bool) : Bool := decide ((s.linesNeeded [(s.intake.qdtbase + 64 * q, 64)]).isEmpty = lines)

theorem witness_HostReachesTheModule_notify :
    (∃ (s : State) (q slot v : Nat), s.Canonical ∧ s.hostReach = true ∧ slot < 64 ∧ v < 2 ^ 44 ∧ v / 2 ^ 32 = q ∧ readsB s q false = true) ∧
    (∃ (s : State) (q slot v : Nat), s.Canonical ∧ s.hostReach = true ∧ slot < 64 ∧ v < 2 ^ 44 ∧ v / 2 ^ 32 = q ∧ readsB s q true = true ∧ s.qenabled q = none) ∧
    (∃ (s : State) (q slot v i : Nat) (d : QDesc), s.Canonical ∧ s.hostReach = true ∧ slot < 64 ∧ v < 2 ^ 44 ∧ v / 2 ^ 32 = q ∧ readsB s q true = true ∧
      s.qenabled q = some d ∧ s.slotOf q = some i ∧ (v % 2 ^ 32 + 2 ^ 32 - d.head) % 2 ^ 32 ≤ 2 ^ d.lg ∧ (v % 2 ^ 32 + 2 ^ 32 - (s.slot i).tail) % 2 ^ 32 < 2 ^ 31) ∧
    (∃ (s : State) (q slot v : Nat) (d : QDesc), s.Canonical ∧ s.hostReach = true ∧ slot < 64 ∧ v < 2 ^ 44 ∧ v / 2 ^ 32 = q ∧ readsB s q true = true ∧
      s.qenabled q = some d ∧ s.slotOf q = none ∧ (v % 2 ^ 32 + 2 ^ 32 - d.head) % 2 ^ 32 ≤ 2 ^ d.lg ∧ (v % 2 ^ 32 + 2 ^ 32 - d.tail) % 2 ^ 32 < 2 ^ 31 ∧
      ∃ u, s.writeDva .stream (s.intake.qdtbase + 64 * q + 16) (bytesOfNat 4 (v % 2 ^ 32)) = some u) ∧
    (∃ (s : State) (q slot v : Nat) (d : QDesc), s.Canonical ∧ s.hostReach = true ∧ slot < 64 ∧ v < 2 ^ 44 ∧ v / 2 ^ 32 = q ∧ readsB s q true = true ∧
      s.qenabled q = some d ∧ s.qdesc q = none ∧ s.slotOf q = none ∧ (v % 2 ^ 32 + 2 ^ 32 - d.head) % 2 ^ 32 ≤ 2 ^ d.lg ∧
      (v % 2 ^ 32 + 2 ^ 32 - d.tail) % 2 ^ 32 < 2 ^ 31) ∧
    (∃ (s : State) (q slot v : Nat) (d : QDesc), s.Canonical ∧ s.hostReach = true ∧ slot < 64 ∧ v < 2 ^ 44 ∧ v / 2 ^ 32 = q ∧ readsB s q true = true ∧
      s.qenabled q = some d ∧ s.slotOf q = none ∧ (v % 2 ^ 32 + 2 ^ 32 - d.head) % 2 ^ 32 ≤ 2 ^ d.lg ∧ (v % 2 ^ 32 + 2 ^ 32 - d.tail) % 2 ^ 32 < 2 ^ 31 ∧
      s.writeDva .stream (s.intake.qdtbase + 64 * q + 16) (bytesOfNat 4 (v % 2 ^ 32)) = none) ∧
    (∃ (s : State) (q slot v : Nat) (d : QDesc), s.Canonical ∧ s.hostReach = true ∧ slot < 64 ∧ v < 2 ^ 44 ∧ v / 2 ^ 32 = q ∧ readsB s q true = true ∧
      s.qenabled q = some d ∧ ¬ (v % 2 ^ 32 + 2 ^ 32 - d.head) % 2 ^ 32 ≤ 2 ^ d.lg) ∧
    ∃ (s : State) (slot v : Nat), s.Canonical ∧ s.hostReach = true ∧ slot < 64 ∧ v < 2 ^ 64 ∧ 2 ^ 44 ≤ v :=
  ⟨⟨farState (hostState 5 []) 0x40000000, 4095, 0, 4095 * 2 ^ 32 + 13, canonical_of (by decide +kernel), by and_intros <;> decide +kernel⟩,
   ⟨hostState 5 [], 0, 0, 13, canonical_of (by decide +kernel), by decide +kernel, by decide, by decide, by decide, by decide +kernel,
    Option.isNone_iff_eq_none.mp (by decide +kernel)⟩,
   ⟨hostState 6 mappedSlot, 4095, 0, 4095 * 2 ^ 32 + 13, 63, goodDesc 6, canonical_of (by decide +kernel), by and_intros <;> decide +kernel⟩,
   ⟨hostState 5 [], 4095, 0, 4095 * 2 ^ 32 + 13, goodDesc 5, canonical_of (by decide +kernel), by decide +kernel, by decide, by decide, by decide, by decide +kernel,
    by decide +kernel, by decide +kernel, by decide +kernel, by decide +kernel, some_of (by decide +kernel)⟩,
   ⟨{ hostState 5 [] with mem := (hostState 5 []).mem.putAll (0x4000 + 64 * 4095 + 63) [1] }, 4095, 0, 4095 * 2 ^ 32 + 13, goodDesc 5, canonical_of (by decide +kernel),
    by and_intros <;> decide +kernel⟩,
   ⟨fixedState 5 [], 4095, 0, 4095 * 2 ^ 32 + 13, goodDesc 5, canonical_of (by decide +kernel), by decide +kernel, by decide, by decide, by decide, by decide +kernel,
    by decide +kernel, by decide +kernel, by decide +kernel, by decide +kernel, Option.isNone_iff_eq_none.mp (by decide +kernel)⟩,
   ⟨hostState 5 [], 4095, 63, 4095 * 2 ^ 32 + 14, goodDesc 5, canonical_of (by decide +kernel), by and_intros <;> decide +kernel⟩,
   hostState 5 [], 0, 2 ^ 44, canonical_of (by decide +kernel), by and_intros <;> decide +kernel⟩

/-- A descriptor in a peer's memory, a good one, and one that enables no queue; unmapping with a tail that can be stored, and cannot. -/
theorem witness_HostReachesTheModule_slots :
    (∃ (s : State) (q slot : Nat), s.Canonical ∧ s.hostReach = true ∧ slot < 64 ∧ q < 4096 ∧ (s.slot slot).mapped = false ∧ s.slotOf q = none ∧ readsB s q false = true) ∧
    (∃ (s : State) (q slot : Nat) (d : QDesc), s.Canonical ∧ s.hostReach = true ∧ slot < 64 ∧ q < 4096 ∧ (s.slot slot).mapped = false ∧ s.slotOf q = none ∧
      readsB s q true = true ∧ s.qdesc q = some d) ∧
    (∃ (s : State) (q slot : Nat), s.Canonical ∧ s.hostReach = true ∧ slot < 64 ∧ q < 4096 ∧ (s.slot slot).mapped = false ∧ s.slotOf q = none ∧
      readsB s q true = true ∧ s.qdesc q = none) ∧
    (∃ (s : State) (slot : Nat), s.Canonical ∧ s.hostReach = true ∧ slot < 64 ∧ (s.slot slot).mapped = true ∧
      ∃ u, s.writeDva .stream (s.intake.qdtbase + 64 * (s.slot slot).queue + 16) (bytesOfNat 4 (s.slot slot).tail) = some u) ∧
    ∃ (s : State) (slot : Nat), s.Canonical ∧ s.hostReach = true ∧ slot < 64 ∧ (s.slot slot).mapped = true ∧
      s.writeDva .stream (s.intake.qdtbase + 64 * (s.slot slot).queue + 16) (bytesOfNat 4 (s.slot slot).tail) = none :=
  ⟨⟨farState (hostState 5 []) 0x40000000, 4095, 63, canonical_of (by decide +kernel), by and_intros <;> decide +kernel⟩,
   ⟨hostState 5 [], 4095, 63, goodDesc 5, canonical_of (by decide +kernel), by and_intros <;> decide +kernel⟩,
   ⟨hostState 5 [], 0, 0, canonical_of (by decide +kernel), by decide +kernel, by decide, by decide, by decide +kernel, by decide +kernel, by decide +kernel,
    Option.isNone_iff_eq_none.mp (by decide +kernel)⟩,
   ⟨hostState 6 mappedSlot, 63, canonical_of (by decide +kernel), by decide +kernel, by decide, by decide +kernel, some_of (by decide +kernel)⟩,
   fixedState 6 mappedSlot, 63, canonical_of (by decide +kernel), by decide +kernel, by decide, by decide +kernel, Option.isNone_iff_eq_none.mp (by decide +kernel)⟩

/-- Eight bytes of the aperture that translate, at the mapped page's end, and eight that do not. -/
theorem witness_HostReachesTheModule_aperture :
    (∃ (s : State) (off p : Nat) (l : List Byte), s.Canonical ∧ s.hostReach = true ∧ off < 2 ^ 34 ∧
      (State.apSpots true l.length (s.intake.apbase.toNat + off) s).1 = some ((List.range l.length).map fun i => Spot.here .hbm (p + i)) ∧
      (State.apSpots false l.length (s.intake.apbase.toNat + off) s).1 = some ((List.range l.length).map fun i => Spot.here .hbm (p + i))) ∧
    ∃ (s : State) (off : Nat) (l : List Byte), s.Canonical ∧ s.hostReach = true ∧ off < 2 ^ 34 ∧
      (State.apSpots true l.length (s.intake.apbase.toNat + off) s).1 = none ∧ (State.apSpots false l.length (s.intake.apbase.toNat + off) s).1 = none :=
  ⟨⟨hostState 5 [], 0x3FFFFFF8, 0x3FFFFFF8, List.replicate 8 1, canonical_of (by decide +kernel), by and_intros <;> decide +kernel⟩,
   hostState 5 [], 0x3FFFFFFC, List.replicate 8 1, canonical_of (by decide +kernel), by and_intros <;> decide +kernel⟩

/-- A launch record for die 0's tile 0, with flags, seeds and an image address. -/
def launchRecord (kind flags nseed image : Nat) (seeds : List Byte) : List Byte :=
  [BitVec.ofNat 8 kind, BitVec.ofNat 8 flags, BitVec.ofNat 8 nseed, 0] ++ (if kind = 0 then [0, 0, 0, 0] else [0, 0, 1, 1]) ++ bytesOfNat 8 image ++ bytesOfNat 4 32 ++
    bytesOfNat 4 77 ++ List.replicate 8 0 ++ seeds ++ List.replicate (96 - seeds.length) 0

def taken (rcd : List Byte) (st : LState) (fld : Option Nat) : Launch := ⟨4, 4095, rcd, st, fld, 0, 2, 0x9000, false, 5⟩

/-- The module with one launch, a field of tile 0 in a state, and cells. -/
def launchState (l : Launch) (st : FState) (h : Nat) (cells : Sparse Cell) : State :=
  let s := hostState 6 mappedSlot
  { s with
    tiles := (List.range h).map fun i => (12 * i, { fld := some 0, ver := 1 })
    fields := [(0, { st := st, w := 1, h := h, ver := 1, image := 0x10000000, imageG := true })]
    cells := cells
    intake := { s.intake with launches := [l] } }

def vcSeed : List Byte := [0, 0, 0x5F, 0, 0, 0, 0, 0, 7, 0, 0, 0, 0, 0, 0, 0]
def cellSeed : List Byte := [0, 0, 0x0F, 0, 0, 0, 0, 0, 7, 0, 0, 0, 0, 0, 0, 0]

/-- The intake has a record to take, or has to ask a peer for it; NOP; a bad record; an unload of a frozen field. -/
theorem witness_LaunchesAreTakenAndComplete_records :
    (∃ (s : State) (i : Nat) (d : QDesc) (r : List Byte), s.Canonical ∧ s.linesNeeded s.intakeRanges = [] ∧ s.pkg.started = true ∧ s.choose = some i ∧
      s.offer i = some (d, r) ∧ s.slotPrio i d < 3 ∧ (s.slot i).since + 64 * 2400 ≤ s.cycle ∧ ∃ u, s.putDesc (s.slot i).queue 20 4 (d.head + 1) = some u) ∧
    (∃ s : State, s.Canonical ∧ s.linesNeeded s.intakeRanges ≠ []) ∧
    (∃ (s : State) (l : Launch), s.Canonical ∧ s.launch? l.id = some l ∧ l.kind = 0) ∧
    (∃ (s : State) (l : Launch), s.Canonical ∧ s.launch? l.id = some l ∧ l.st = .started ∧ l.kind ≠ 0 ∧ l.kind ≠ 2 ∧ l.legal = false) ∧
    (∃ (s : State) (l : Launch), s.Canonical ∧ s.launch? l.id = some l ∧ l.st = .waiting ∧ l.kind ≠ 0) ∧
    ∃ (s : State) (l : Launch) (f : Nat), s.Canonical ∧ s.launch? l.id = some l ∧ l.kind = 2 ∧ l.legal = true ∧ s.overlaps l = [f] ∧ l.exact (s.field f) = true ∧
      (s.field f).st = .frozen ∧ s.launchesOf f (fun x => decide (x.id ≠ l.id)) = [] ∧ (s.die (f / 256)).traceOn = false :=
  let nop := taken (launchRecord 0 4 0 0 []) .started none
  let bad := taken (launchRecord 3 0 0 0 []) .started none
  let wait := taken (launchRecord 1 8 0 0x10000000 []) .waiting (some 0)
  let gone := taken (launchRecord 2 0 0 0 []) .started none
  ⟨⟨{ hostState 6 mappedSlot with cycle := 153600 }, 63, goodDesc 6, List.replicate 128 0, canonical_of (by decide +kernel), by decide +kernel, by decide +kernel,
    by decide +kernel, by decide +kernel, by decide +kernel, by decide +kernel, some_of (by decide +kernel)⟩,
   ⟨farState (hostState 6 mappedSlot) 0x40000000, canonical_of (by decide +kernel), by decide +kernel⟩,
   ⟨launchState nop .live 1 [], nop, canonical_of (by decide +kernel), by decide +kernel, by decide +kernel⟩,
   ⟨launchState bad .live 1 [], bad, canonical_of (by decide +kernel), by decide +kernel, rfl, by and_intros <;> decide +kernel⟩,
   ⟨launchState wait .loading 1 [], wait, canonical_of (by decide +kernel), by decide +kernel, rfl, by decide +kernel⟩,
   launchState gone .frozen 1 [], gone, 0, canonical_of (by decide +kernel), by and_intros <;> decide +kernel⟩

/-- A record that has started, legal, for a rectangle that a field f overlaps. -/
def metB (s : State) (l : Launch) (f : Nat) : Bool :=
  canonB s && decide (s.launch? l.id = some l) && decide (l.st = .started) && decide (l.kind = 1) && l.legal && decide (s.overlaps l = [f])

/-- The field is another rectangle's, is FROZEN, is LOADING another image or the same, or is LIVE with the same. -/
theorem witness_LaunchesAreTakenAndComplete_resident :
    (∃ (s : State) (l : Launch) (f : Nat), metB s l f = true ∧ l.exact (s.field f) = false) ∧
    (∃ (s : State) (l : Launch) (f : Nat), metB s l f = true ∧ l.exact (s.field f) = true ∧ (s.field f).st = .frozen) ∧
    (∃ (s : State) (l : Launch) (f : Nat), metB s l f = true ∧ l.exact (s.field f) = true ∧ (s.field f).st = .loading ∧ (s.field f).image ≠ l.le 8 8) ∧
    (∃ (s : State) (l : Launch) (f : Nat), metB s l f = true ∧ l.exact (s.field f) = true ∧ (s.field f).st = .loading ∧ (s.field f).image = l.le 8 8 ∧
      (s.field f).imageG = l.imgg) ∧
    (∃ (s : State) (l : Launch) (f : Nat), metB s l f = true ∧ l.exact (s.field f) = true ∧ (s.field f).st = .live ∧ (s.field f).image = l.le 8 8 ∧
      (s.field f).imageG = l.imgg ∧ l.reload = false) :=
  let one := taken (launchRecord 1 8 0 0x10000000 []) .started none
  let two := taken (launchRecord 1 8 0 0x10000040 []) .started none
  ⟨⟨launchState one .live 2 [], one, 0, by and_intros <;> decide +kernel⟩, ⟨launchState one .frozen 1 [], one, 0, by and_intros <;> decide +kernel⟩,
   ⟨launchState two .loading 1 [], two, 0, by and_intros <;> decide +kernel⟩, ⟨launchState one .loading 1 [], one, 0, by and_intros <;> decide +kernel⟩,
   launchState one .live 1 [], one, 0, by and_intros <;> decide +kernel⟩

/-- No field number is free; and an image in a peer's memory. -/
theorem witness_LaunchesAreTakenAndComplete_new :
    (∃ (s : State) (l : Launch), s.Canonical ∧ s.launch? l.id = some l ∧ l.st = .started ∧ l.kind ≠ 0 ∧ l.kind ≠ 2 ∧ l.legal = true ∧ s.overlaps l = [] ∧
      s.linesNeeded (s.imageRanges l.die l.imgg (l.le 8 8)) = [] ∧ s.freeField l.die = none) ∧
    ∃ (s : State) (l : Launch), s.Canonical ∧ s.launch? l.id = some l ∧ l.st = .started ∧ l.kind ≠ 0 ∧ l.kind ≠ 2 ∧ l.legal = true ∧ s.overlaps l = [] ∧
      s.linesNeeded (s.imageRanges l.die l.imgg (l.le 8 8)) ≠ [] :=
  let one := taken (launchRecord 1 8 0 0x10000000 []) .started none
  let away := taken (launchRecord 1 0 0 0x40000000 []) .started none
  ⟨⟨{ launchState one .live 0 [] with fields := (List.range 144).map fun i => (i, { st := .frozen }) }, one, canonical_of (by decide +kernel), by decide +kernel, rfl,
    by decide +kernel, by decide +kernel, by decide +kernel, by decide +kernel, by decide +kernel, Option.isNone_iff_eq_none.mp (by decide +kernel)⟩,
   { farState (launchState away .live 0 []) 0x4000 with fields := [] }, away, canonical_of (by decide +kernel), by decide +kernel, rfl, by decide +kernel,
   by decide +kernel, by decide +kernel, by decide +kernel, by decide +kernel⟩

/-- A record that reconfigures field f: it is classified now, or has been. -/
def reconfigB (s : State) (l : Launch) (f : Nat) : Bool :=
  canonB s && decide (s.launch? l.id = some l) && (decide (l.st = .reconfig) && decide (l.fld = some f) ||
    metB s l f && l.exact (s.field f) && decide ((s.field f).st = .live) &&
      (decide ((s.field f).image ≠ l.le 8 8) || decide ((s.field f).imageG ≠ l.imgg) || l.reload))

/-- A reconfiguration that has to wait: the field has frozen, or another wave is held there; and one whose image is in a peer's memory. -/
theorem witness_LaunchesAreTakenAndComplete_waits :
    (∃ (s : State) (l : Launch) (f : Nat), reconfigB s l f = true ∧ l.st = .reconfig ∧ (s.field f).st ≠ .live) ∧
    (∃ (s : State) (l : Launch) (f : Nat), reconfigB s l f = true ∧ l.st = .started ∧ (s.heldWave f).isSome = true) ∧
    (∃ (s : State) (l : Launch) (f : Nat), reconfigB s l f = true ∧ (s.field f).st = .live ∧ s.heldWave f = none ∧
      s.linesNeeded (s.imageRanges l.die l.imgg (l.le 8 8)) ≠ []) :=
  let on := taken (launchRecord 1 8 0 0x10000040 []) .reconfig (some 0)
  let two := taken (launchRecord 1 8 0 0x10000040 []) .started none
  let away := taken (launchRecord 1 0 0 0x40000000 []) .started none
  let held : State := { launchState two .live 1 [] with
    fields := [(0, { st := .live, w := 1, h := 1, ver := 1, image := 0x10000000, imageG := true, held := some ⟨[], .scfg 128, false, false⟩ })]
    cmds := [(128, { st := .running, op := 8 })] }
  ⟨⟨launchState on .frozen 1 [], on, 0, by and_intros <;> decide +kernel⟩, ⟨held, two, 0, by and_intros <;> decide +kernel⟩,
   farState (launchState away .live 1 []) 0x4000, away, 0, by decide +kernel, by decide +kernel, Option.isNone_iff_eq_none.mp (by decide +kernel), by decide +kernel⟩

/-- No seed left, a seed for channel 31, a seed for row 15's west input; a launch alone on a field at rest. -/
theorem witness_LaunchesAreTakenAndComplete_seeds :
    (∃ (s : State) (l : Launch) (f : Nat), s.Canonical ∧ s.launch? l.id = some l ∧ l.fld = some f ∧ l.st = .seeding ∧ (s.field f).st = .live ∧ l.nseed ≤ l.nextSeed) ∧
    (∃ (s : State) (l : Launch) (f : Nat), s.Canonical ∧ s.launch? l.id = some l ∧ l.fld = some f ∧ l.st = .seeding ∧ (s.field f).st = .live ∧ l.nextSeed < l.nseed ∧
      let e := l.seed l.nextSeed
      let core := f / 256 * 256 + ((s.field f).y0 + leAt e 1 1) * 12 + (s.field f).x0 + leAt e 0 1
      0x40 ≤ leAt e 2 1 ∧ ((s.tile core).vc (leAt e 2 1 - 0x40)).length < 8 ∧ s.boundTo core (leAt e 2 1 - 0x40) = none) ∧
    (∃ (s : State) (l : Launch) (f : Nat), s.Canonical ∧ s.launch? l.id = some l ∧ l.fld = some f ∧ l.st = .seeding ∧ (s.field f).st = .live ∧ l.nextSeed < l.nseed ∧
      let e := l.seed l.nextSeed
      let core := f / 256 * 256 + ((s.field f).y0 + leAt e 1 1) * 12 + (s.field f).x0 + leAt e 0 1
      let c := (portCell core (leAt e 2 1)).1
      leAt e 2 1 < 0x40 ∧ s.portTakes core (leAt e 2 1) (s.field f).ver = some true ∧ ((s.cell c).loaded = true ∧ (s.cell c).ver = (s.field f).ver) ∧
        s.mirrored none c = false) ∧
    ∃ (s : State) (l : Launch) (f : Nat), s.Canonical ∧ s.launch? l.id = some l ∧ l.fld = some f ∧ l.st = .running ∧ (s.field f).ended = false ∧ s.atRest f = true ∧
      s.launchesOf f (fun x => decide (x.st = .running)) = [l.id] :=
  let none_ := taken (launchRecord 1 8 0 0x10000000 []) .seeding (some 0)
  let vc := taken (launchRecord 1 8 1 0x10000000 vcSeed) .seeding (some 0)
  let cell := taken (launchRecord 1 8 1 0x10000000 cellSeed) .seeding (some 0)
  let run := taken (launchRecord 1 8 0 0x10000000 []) .running (some 0)
  ⟨⟨launchState none_ .live 1 [], none_, 0, canonical_of (by decide +kernel), by decide +kernel, rfl, rfl, by decide +kernel, by decide +kernel⟩,
   ⟨launchState vc .live 1 [], vc, 0, canonical_of (by decide +kernel), by decide +kernel, rfl, rfl, by and_intros <;> decide +kernel⟩,
   ⟨launchState cell .live 1 [(240, oneMove 7 3 0 (2 ^ 36))], cell, 0, canonical_of (by decide +kernel), by decide +kernel, rfl, rfl, by and_intros <;> decide +kernel⟩,
   launchState run .live 1 [], run, 0, canonical_of (by decide +kernel), by decide +kernel, rfl, rfl, by and_intros <;> decide +kernel⟩

/-! ### The package -/

/-- A module with a field of each state on dies 0 and 1, at steps 0 and 1. -/
def fourFields : State :=
  { State.reset with
    fields := [(3, { st := .live, w := 1, h := 1, gwbase := 0x10001000, gwsize := 0x1000 }),
      (4, { st := .frozen, w := 1, h := 1, step := 1, ceil := 1 }), (300, { st := .live, w := 1, h := 1 })] }

/-- No slot of an empty flash boots. (That a slot boots rests on the digest fused into the part: see `witness_bootImage`.) A report's
buffer beside a field's window, free and busy; dies 0 and 1 at the fastest step, die 1's turn. -/
theorem witness_PackageBootsReportsAndLimits :
    (∃ (s : State) (die : Nat), s.Canonical ∧ die < 4 ∧ s.powerCycle.bootImage 0 = none ∧ s.powerCycle.bootImage 1 = none) ∧
    (∃ (s : State) (die : Nat), s.Canonical ∧ die < 4 ∧ (s.die die).attBusy = true ∧ s.attOk die (s.die die).attAddr = true) ∧
    (∃ (s : State) (die v : Nat), s.Canonical ∧ die < 4 ∧ (s.die die).attBusy = false ∧ s.attOk die (v % 2 ^ 32) = true) ∧
    ∃ (s : State) (die : Nat), s.Canonical ∧ die < 4 ∧ s.dieAt s.fastest die = true ∧
      (∀ i, i < (die + 4 - s.pkg.dropDie % 4) % 4 → s.dieAt s.fastest ((s.pkg.dropDie + i) % 4) = false) :=
  ⟨⟨State.reset, 0, canonical_of (by decide +kernel), by and_intros <;> decide +kernel⟩,
   ⟨{ fourFields with dies := [(0, { attBusy := true, attAddr := 0x10002000 })] }, 0, canonical_of (by decide +kernel), by and_intros <;> decide +kernel⟩,
   ⟨fourFields, 0, 0x10000D00, canonical_of (by decide +kernel), by and_intros <;> decide +kernel⟩,
   { fourFields with pkg := { dropDie := 2 } }, 0, canonical_of (by decide +kernel), by and_intros <;> decide +kernel⟩

/-! ### Save images -/

/-- The page table stands in memory: the first gigabyte of device addresses is HBM, address for address. -/
def Mapped (s : State) : Prop :=
  s.pkg = tablePkg ∧ s.mem.wf = true ∧ s.mem.le 0x100000 8 = 0x101001 ∧ s.mem.le 0x101000 8 = 0x1F

theorem mapped_walk {s : State} (h : Mapped s) (a : Nat) (ha : a < 2 ^ 30) : (s.walk [] a).1 = .ok ⟨0, 30, 0x1F⟩ := by
  obtain ⟨hp, -, h1, h2⟩ := h
  have hr : s.ptroot = 0x100000 := by rw [State.ptroot, hp]; decide +kernel
  have b1 : bits a (levelLg 3) 9 = 0 := by show a / 2 ^ 39 % 2 ^ 9 = 0; omega
  have b2 : bits a (levelLg 2) 9 = 0 := by show a / 2 ^ 30 % 2 ^ 9 = 0; omega
  have p (x : Nat) : s.pte [] x = s.mem.le x 8 := by simp [State.pte, State.readLE, place, Sparse.get]
  have w : s.walk [] a = (.ok ⟨a / 2 ^ levelLg 2 * 2 ^ levelLg 2, levelLg 2, 0x1F⟩, [(0x100000, 0x101001)]) := by
    rw [State.walk, hr]
    unfold State.walkFrom
    simp only [p, b1, show (3 : Nat) = 0 ↔ False by simp, if_false, h1, Nat.mul_zero, Nat.add_zero]
    simp only [show bitB 0x101001 0 = true by decide, show bitB 0x101001 1 = false by decide, show bits 0x101001 8 40 * 256 = 0x101000 by decide,
      show bits 0x101001 48 16 = 0 by decide, show bits 0x101001 2 6 = 0 by decide, show bits 0x101001 8 4 = 0 by decide]
    unfold State.walkFrom
    simp only [p, b2, show (2 : Nat) = 0 ↔ False by simp, if_false, h2, Nat.mul_zero, Nat.add_zero]
    rfl
  have hz : a / 2 ^ 30 = 0 := by omega
  rw [w, show levelLg 2 = 30 from rfl, hz, Nat.zero_mul]

theorem mapped_spot {s : State} (h : Mapped s) (a : Nat) (wr : Bool) (ha : a < 2 ^ 30) : s.dvaSpot a wr .stream = some (.here .hbm a) := by
  have ht : Leaf.target ⟨0, 30, 0x1F⟩ a = (0, a) := by show (0, 0 + a % 2 ^ 30) = (0, a); rw [Nat.mod_eq_of_lt ha, Nat.zero_add]
  have hj : Leaf.judge ⟨0, 30, 0x1F⟩ wr .stream = .ok ⟨0, 30, 0x1F⟩ := by cases wr <;> decide
  have hm : inMap a = true := by simp [inMap, inRegs]; omega
  have hl : s.leafSpot wr ownHops .stream ⟨0, 30, 0x1F⟩ a = .ok (.here .hbm a) := by
    rw [show ownHops = 7 + 1 from rfl, State.leafSpot, ht, hj]
    rfl
  rw [State.dvaSpot, mapped_walk h a ha]
  show (match s.leafSpot wr ownHops .stream ⟨0, 30, 0x1F⟩ a with
    | .ok p => if inMap a then some p else none
    | .error _ => none) = _
  rw [hl]
  simp only [hm, if_true]

theorem mapped_byte {s : State} (h : Mapped s) (a : Nat) (ha : a < 2 ^ 30) : s.dvaByte .stream a = some (s.mem.byte a) := by
  rw [State.dvaByte, mapped_spot h a false ha]
  rfl

theorem mapped_lines {s : State} (h : Mapped s) (l : List (Nat × Nat)) (hl : ∀ x ∈ l, x.1 + x.2 ≤ 2 ^ 30) : s.linesNeeded l = [] := by
  simp only [State.linesNeeded, List.flatMap_eq_nil_iff, List.filterMap_eq_nil_iff, List.mem_range]
  intro x hx i hi
  have := hl x hx
  rw [mapped_spot h _ false (by omega)]

theorem mapped_put {s : State} (h : Mapped s) (a : Nat) (b : Byte) (ha : 0x102000 ≤ a) : Mapped { s with mem := s.mem.put a b } := by
  obtain ⟨hp, hw, h1, h2⟩ := h
  have l (q n : Nat) (hq : q + n ≤ a) : (s.mem.put a b).le q n = s.mem.le q n := Memory.le_putAll_out hw a q n [b] (.inl hq)
  exact ⟨hp, Memory.wf_put' hw _ _, by rw [l _ _ (by omega)]; exact h1, by rw [l _ _ (by omega)]; exact h2⟩

/-- Bytes in the gigabyte above the tables can all be written, and be read. -/
theorem mapped_write (l : List Byte) {s : State} (h : Mapped s) (a : Nat) (ha : 0x102000 ≤ a) (hl : a + l.length ≤ 2 ^ 30)
    (key : Nat) : ∃ v, s.writeDva .stream a l key = some v ∧ v.cmds = s.cmds := by
  induction l generalizing s a with
  | nil => exact ⟨s, rfl, rfl⟩
  | cons b l ih =>
    simp only [List.length_cons] at hl
    simp only [State.writeDva, mapped_spot h a true (by omega), place]
    exact ih (mapped_put h a b ha) (a + 1) (by omega) (by omega)

theorem mapped_read {s : State} (h : Mapped s) (n a : Nat) (hl : a + n ≤ 2 ^ 30) : s.readDva .stream a n = some (s.mem.bytes a n) := by
  induction n generalizing a with
  | zero => rfl
  | succ n ih => simp only [State.readDva, mapped_byte h a (by omega), ih (a + 1) (by omega), Memory.bytes]

/-- Bytes past the last one listed are zero. -/
theorem bytes_past (m : Memory) (a n : Nat) (h : m.all (fun x => decide (x.1 < a)) = true) : m.bytes a n = zeroBytes n := by
  induction n generalizing a with
  | zero => rfl
  | succ n ih =>
    have hb : m.byte a = 0 := by
      clear ih
      induction m with
      | nil => rfl
      | cons x m im =>
        simp only [List.all_cons, Bool.and_eq_true, decide_eq_true_eq] at h
        simp only [Memory.byte, Sparse.get, if_neg (Nat.ne_of_lt h.1), if_neg (Nat.lt_asymm h.1)]
        exact im h.2
    have ht := ih (a + 1) (by rw [List.all_eq_true] at h ⊢; intro x hx; have := h x hx; simp at this ⊢; omega)
    simp only [Memory.bytes, hb, ht, zeroBytes, List.replicate_succ]

theorem bytes_add (m : Memory) (a n k : Nat) : m.bytes a (n + k) = m.bytes a n ++ m.bytes (a + n) k := by
  induction n generalizing a with
  | zero => simp [Memory.bytes]
  | succ n ih => rw [Nat.succ_add, Memory.bytes, ih, Memory.bytes, List.cons_append, Nat.add_assoc, Nat.add_comm 1 n]

theorem bytes_length (m : Memory) (a n : Nat) : (m.bytes a n).length = n := by
  induction n generalizing a with
  | zero => rfl
  | succ n ih => simp [Memory.bytes, ih]

theorem block_length (n : Nat) (l : List Byte) : (block n l).length = n := by simp only [block, List.length_append, List.length_take, List.length_replicate]; omega

theorem flat_length {α : Type} (n : Nat) (f : α → List Byte) (l : List α) (h : ∀ x ∈ l, (f x).length = n) : (l.flatMap f).length = l.length * n := by
  induction l with
  | nil => simp
  | cons a l ih =>
    rw [List.flatMap_cons, List.length_append, h a (by simp), ih fun x hx => h x (by simp [hx]), List.length_cons, Nat.succ_mul]; omega

theorem range_length (k n : Nat) (f : Nat → List Byte) (h : ∀ x, (f x).length = n) : ((List.range k).flatMap f).length = k * n := by
  rw [flat_length n f _ fun x _ => h x, List.length_range]

/-- A tile block has the 907,712 bytes that R374 gives it. -/
theorem test_tileBlock_length (s : State) (f core : Nat) : (s.tileBlock f core).length = 907712 := by
  have cmd (c : Cmd) : c.bytes.length = 256 := by
    unfold Cmd.bytes; split
    · exact List.length_replicate
    · exact block_length _ _
  have cell (c : Cell) : c.bytes.length = 3072 := by
    have link (w : LinkWord) : w.bytes.length = 32 := block_length _ _
    simp only [Cell.bytes, List.length_append, block_length, slotBytes]
    rw [range_length 8 8, range_length 16 8, range_length 8 (32 * 4), flat_length 32, flat_length 32]
    · rfl
    · intro x _; exact link _
    · intro x _; split <;> exact link _
    all_goals (intro x; exact block_length _ _)
  have store (p : Nat) : (if (s.tile core).pages.getLsbD p then s.read (.istore core) (4096 * p) 4096 else List.replicate 4096 0).length = 4096 := by
    split
    · exact bytes_length _ _ _
    · exact List.length_replicate
  have lock (b : Bool) (n : Nat) : (if b = true then bytesOfNat 4 n else [0, 0, 0, 0]).length = 4 := by
    cases b
    · rfl
    · exact bytesOfNat_length _ _
  simp only [State.tileBlock, List.length_append, State.tileHeader, block_length, State.counterBytes, State.vcBytes, State.lockBytes, State.storeBytes, State.taskBlock,
    fifoBytes]
  rw [range_length 8 2048, range_length 128 256, range_length 32 4, range_length 32 72, range_length 1024 4, range_length 256 3072, range_length 16 4096]
  · exact store
  · intro x; exact cell _
  · intro x; exact lock _ _
  · intro x; exact block_length _ _
  · intro x; exact bytesOfNat_length _ _
  · intro x; exact cmd _
  · intro x; exact block_length _ _

/-- The granules of a field without a window, of one tile: 192 entries of at most 4,104 bytes. -/
theorem saveImage_length (s : State) (f : Nat) (hc : (s.fieldCores f).length = 1) (hg : (s.field f).gwsize = 0) :
    (s.saveImage f).length ≤ 64 + 907712 + 192 * 4104 := by
  have entry (a : Nat) (l : List Byte) (h : l.length = 4096) : (granuleEntry a l).length ≤ 4104 := by
    unfold granuleEntry
    split
    · rw [bytesOfNat_length]; omega
    · split
      · rw [List.length_append, bytesOfNat_length, List.length_take]; omega
      · exact Nat.le_of_eq (by rw [List.length_append, bytesOfNat_length, h])
  have bound (l : List (List Byte)) (h : ∀ x ∈ l, x.length ≤ 4104) : l.flatten.length ≤ l.length * 4104 := by
    induction l with
    | nil => simp
    | cons a l ih =>
      have h1 := h a (by simp)
      have h2 := ih fun x hx => h x (by simp [hx])
      rw [List.flatten_cons, List.length_append, List.length_cons, Nat.succ_mul]; omega
  have count : (s.listedGranules f).length ≤ 192 := by
    obtain ⟨c, hc⟩ := List.length_eq_one_iff.mp hc
    simp only [State.listedGranules, hc, hg, List.flatMap_cons, List.flatMap_nil, Nat.zero_div, List.range_zero, List.map_nil, List.filter_nil, List.append_nil,
      List.length_map]
    exact Nat.le_trans (List.length_filter_le _ _) (by simp)
  have hl := bound (s.granuleList f) fun x hx => by
    obtain ⟨a, -, rfl⟩ := List.mem_map.mp hx
    exact entry _ _ (bytes_length _ _ _)
  have hn : (s.granuleList f).length = (s.listedGranules f).length := by simp [State.granuleList]
  have ht : ((s.fieldCores f).flatMap (s.tileBlock f)).length = 907712 := by rw [flat_length 907712 _ _ fun x _ => test_tileBlock_length _ _ _, hc, Nat.one_mul]
  simp only [State.saveImage, List.length_append, block_length, ht]
  have : (s.granuleList f).length * 4104 ≤ 192 * 4104 := Nat.mul_le_mul_right _ (by omega)
  omega

/-- A field of tile 0 in a state, its save area in HBM at 0x20000000. -/
def fieldState (x : Field) : State :=
  { State.reset with
    mem := tableMem
    pkg := tablePkg
    tiles := [(0, { fld := some 0, ver := 1 })]
    fields := [(0, { x with w := 1, h := 1, ver := 1 })]
    dies := [(0, { regs := [(0x112, 0x20000000)] })] }

theorem fieldState_mapped (x : Field) : Mapped (fieldState x) :=
  ⟨rfl, show tableMem.wf = true by decide +kernel, show tableMem.le 0x100000 8 = 0x101001 by decide +kernel,
   show tableMem.le 0x101000 8 = 0x1F by decide +kernel⟩

/-- EVICT of a LIVE field at rest finds its save area. -/
theorem witness_FieldCommandsAct_evict (t : State) (hm : t.mem = (fieldState { st := .live }).mem) (hp : t.pkg = (fieldState { st := .live }).pkg)
    (hr : t.saveArea 0 = 0x20000000) (hc : (t.fieldCores 0).length = 1) (hg : (t.field 0).gwsize = 0)
    (ho : t.cmds = []) :
    ∃ v, t.writeDva .stream (t.saveArea 0) (t.saveImage 0) (evictKey 0) = some v ∧ (v.cmd (evictKey 0)).owed = [] := by
  have h := saveImage_length t 0 hc hg
  obtain ⟨h1, h2, h3, h4⟩ := fieldState_mapped { st := .live }
  obtain ⟨v, hv, hk⟩ := mapped_write (t.saveImage 0) ⟨by rw [hp]; exact h1, by rw [hm]; exact h2, by rw [hm]; exact h3, by rw [hm]; exact h4⟩ (t.saveArea 0) (by rw [hr]; decide)
    (by rw [hr]; omega) (evictKey 0)
  exact ⟨v, hv, by rw [State.cmd, hk, ho]; rfl⟩

/-- What PREEMPT leaves of it. -/
def preempted : State := match exec (.preempt 0 0) (fieldState { st := .live }) with
  | .next t => t
  | _ => State.reset

theorem witness_FieldCommandsAct :
    (∃ (s : State) (die num : Nat), s.Canonical ∧ die < 4 ∧ num < 256 ∧ bitB (s.die die).fstat.toNat 31 = false ∧ (s.die die).traceOn = false ∧
      (s.field (die * 256 + num)).st = .unloaded) ∧
    (∃ (s : State) (die num : Nat), s.Canonical ∧ die < 4 ∧ num < 256 ∧ bitB (s.die die).fstat.toNat 31 = false ∧ (s.die die).traceOn = false ∧
      (s.field (die * 256 + num)).st = .live ∧ s.settled (die * 256 + num) = false) ∧
    (∃ (s t : State) (die num : Nat), s.Canonical ∧ die < 4 ∧ num < 256 ∧ bitB (s.die die).fstat.toNat 31 = false ∧ (s.die die).traceOn = false ∧
      (s.field (die * 256 + num)).st = .live ∧ s.settled (die * 256 + num) = true ∧ (s.field (die * 256 + num)).closing = none ∧ (∀ tk ∈ s.fieldTasks (die * 256 + num), (s.task tk).asyncs = []) ∧
      exec (.preempt die num) s = .next t ∧ ∃ v, t.writeDva .stream (t.saveArea die) (t.saveImage (die * 256 + num)) (evictKey die) = some v ∧
        (v.cmd (evictKey die)).owed = []) ∧
    (∃ (s : State) (die num : Nat), s.Canonical ∧ die < 4 ∧ num < 256 ∧ bitB (s.die die).fstat.toNat 31 = false ∧ (s.die die).traceOn = false ∧
      let x := s.field (die * 256 + num)
      x.st = .frozen ∧ x.ended = false ∧ x.evicted = false ∧ x.dstop = false ∧ (s.beyond die fun r => (decide (r.kind = 2) || decide (r.kind = 6)) && decide (r.field = num)) = false ∧
        s.launchesOf (die * 256 + num) (fun _ => true) = [] ∧ x.held = none) :=
  ⟨⟨State.reset, 3, 255, canonical_of (by decide +kernel), by and_intros <;> decide +kernel⟩,
   ⟨{ fieldState { st := .live } with tasks := [(0, { st := .runnable, rets := [⟨0, none, none, none, none, false, false⟩] })] }, 0, 0, canonical_of (by decide +kernel),
    by and_intros <;> decide +kernel⟩,
   ⟨fieldState { st := .live }, preempted, 0, 0, canonical_of (by decide +kernel), by decide, by decide, by decide +kernel, by decide +kernel, by decide +kernel,
    by decide +kernel, by decide +kernel, by decide +kernel, rfl, witness_FieldCommandsAct_evict _ (by decide +kernel) (by decide +kernel) (by decide +kernel) (by decide +kernel)
      (by decide +kernel) (by decide +kernel)⟩,
   fieldState { st := .frozen }, 0, 0, canonical_of (by decide +kernel), by and_intros <;> decide +kernel⟩

/-- EVICT with a save area at a device address that is not mapped, and RESTORE from one in a peer's memory. -/
theorem witness_FieldCommandsAct_away :
    (∃ (s t : State) (die num : Nat), s.Canonical ∧ die < 4 ∧ num < 256 ∧ bitB (s.die die).fstat.toNat 31 = false ∧ (s.die die).traceOn = false ∧
      (s.field (die * 256 + num)).st = .live ∧ s.settled (die * 256 + num) = true ∧ (s.field (die * 256 + num)).closing = none ∧
      (∀ tk ∈ s.fieldTasks (die * 256 + num), (s.task tk).asyncs = []) ∧
      exec (.preempt die num) s = .next t ∧ t.writeDva .stream (t.saveArea die) (t.saveImage (die * 256 + num)) (evictKey die) = none) ∧
    ∃ (s : State) (die num : Nat), s.Canonical ∧ die < 4 ∧ num < 256 ∧ bitB (s.die die).fstat.toNat 31 = false ∧ (s.die die).traceOn = false ∧
      (s.field (die * 256 + num)).st = .frozen ∧ (s.field (die * 256 + num)).evicted = true ∧ s.linesNeeded (s.restoreRanges (die * 256 + num)) ≠ [] :=
  let at_ (x : Field) : State := { fieldState x with dies := [(0, { regs := [(0x112, 0x40000000)] })] }
  ⟨⟨at_ { st := .live }, match exec (.preempt 0 0) (at_ { st := .live }) with | .next t => t | _ => State.reset, 0, 0, canonical_of (by decide +kernel), by decide,
    by decide, by decide +kernel, by decide +kernel, by decide +kernel, by decide +kernel, by decide +kernel, by decide +kernel, rfl,
    Option.isNone_iff_eq_none.mp (by decide +kernel)⟩,
   farState (at_ { st := .frozen, evicted := true }) 0, 0, 0, canonical_of (by decide +kernel), by and_intros <;> decide +kernel⟩

/-- The page table stands in memory: the second gigabyte of device addresses is module 6's memory, which answers. -/
def Far (s : State) : Prop :=
  s.pkg = tablePkg ∧ s.mem.le 0x100000 8 = 0x101001 ∧ s.mem.le 0x101008 8 = 6 * 2 ^ 48 + 0x9F ∧ s.fab.modid = 5 ∧ s.fab.ports = [5, 6] ∧
    (s.fab.peer 6).unreachable = false ∧ Sparse.wf ({} : Peer) s.fab.peers = true ∧ Sparse.wf ({} : Cmd) s.cmds = true

theorem far_walk {s : State} (h : Far s) (a : Nat) (ha : 2 ^ 30 ≤ a) (hb : a < 2 ^ 31) : (s.walk [] a).1 = .ok ⟨2 ^ 30, 30, 6 * 2 ^ 48 + 0x9F⟩ := by
  obtain ⟨hp, h1, h2, -⟩ := h
  have hr : s.ptroot = 0x100000 := by rw [State.ptroot, hp]; decide +kernel
  have b1 : bits a (levelLg 3) 9 = 0 := by show a / 2 ^ 39 % 2 ^ 9 = 0; omega
  have b2 : bits a (levelLg 2) 9 = 1 := by show a / 2 ^ 30 % 2 ^ 9 = 1; omega
  have p (x : Nat) : s.pte [] x = s.mem.le x 8 := by simp [State.pte, State.readLE, place, Sparse.get]
  have hz : a / 2 ^ 30 = 1 := by omega
  rw [State.walk, hr]
  unfold State.walkFrom
  simp only [p, b1, show (3 : Nat) = 0 ↔ False by simp, if_false, h1, Nat.mul_zero, Nat.add_zero]
  simp only [show bitB 0x101001 0 = true by decide, show bitB 0x101001 1 = false by decide, show bits 0x101001 8 40 * 256 = 0x101000 by decide,
    show bits 0x101001 48 16 = 0 by decide, show bits 0x101001 2 6 = 0 by decide, show bits 0x101001 8 4 = 0 by decide]
  unfold State.walkFrom
  simp only [p, b2, show (2 : Nat) = 0 ↔ False by simp, if_false, show 0x101000 + 8 * 1 = 0x101008 from rfl, h2]
  rw [show levelLg 2 = 30 from rfl, hz]
  rfl

theorem far_spot {s : State} (h : Far s) (a : Nat) (ha : 2 ^ 30 ≤ a) (hb : a < 2 ^ 31) :
    s.dvaSpot a true .stream = some (.peer 6 (Leaf.target ⟨2 ^ 30, 30, 6 * 2 ^ 48 + 0x9F⟩ a).2) := by
  have hw := far_walk h a ha hb
  obtain ⟨-, -, -, hi, hp, hu, -⟩ := h
  have hj : Leaf.judge ⟨2 ^ 30, 30, 6 * 2 ^ 48 + 0x9F⟩ true .stream = .ok ⟨2 ^ 30, 30, 6 * 2 ^ 48 + 0x9F⟩ := by decide
  have hm : inMap a = true := by simp [inMap, inRegs]; omega
  have hr : s.reachable 6 = true := by rw [State.reachable, Fabric.isPeer, Fabric.members, hp, hi, hu]; decide
  have ht : Leaf.target ⟨2 ^ 30, 30, 6 * 2 ^ 48 + 0x9F⟩ a = (2, (Leaf.target ⟨2 ^ 30, 30, 6 * 2 ^ 48 + 0x9F⟩ a).2) := rfl
  have hl : s.leafSpot true ownHops .stream ⟨2 ^ 30, 30, 6 * 2 ^ 48 + 0x9F⟩ a = .ok (.peer 6 (Leaf.target ⟨2 ^ 30, 30, 6 * 2 ^ 48 + 0x9F⟩ a).2) := by
    rw [show ownHops = 7 + 1 from rfl, State.leafSpot, ht, hj]
    show (if s.reachable 6 = true then (Except.ok (Spot.peer 6 _) : Except Hitch Spot) else _) = _
    rw [if_pos hr]
  rw [State.dvaSpot, hw]
  show (match s.leafSpot true ownHops .stream ⟨2 ^ 30, 30, 6 * 2 ^ 48 + 0x9F⟩ a with
    | .ok p => if inMap a then some p else none
    | .error _ => none) = _
  rw [hl]
  simp only [hm, if_true]

theorem far_peer {s : State} (h : Far s) (g : Peer → Peer) (hg : ∀ p, (g p).unreachable = p.unreachable) : Far (s.modPeer 6 g) := by
  obtain ⟨h1, h2, h3, h4, h5, h6, h7, h8⟩ := h
  refine ⟨h1, h2, h3, h4, h5, ?_, Sparse.wf_set h7 _ _, h8⟩
  rw [← h6, ← hg (s.fab.peer 6)]
  exact congrArg Peer.unreachable (Sparse.get_set_self h7 6 (g (s.fab.peer 6)))

/-- A byte for the peer stays with the command's writes, and where no packet waited it makes one. -/
theorem far_byte {s : State} (h : Far s) (key a : Nat) (b : Byte) : Far (s.peerByte key 6 a b) ∧
    ((s.cmd key).owed ≠ [] ∨ s.fab.peers = [] → ((s.peerByte key 6 a b).cmd key).owed ≠ []) := by
  have fresh {u : State} (hu : Far u) (o : Owed) : Far (u.modCmd key fun c => { c with owed := c.owed ++ [o] }) ∧
      ((u.modCmd key fun c => { c with owed := c.owed ++ [o] }).cmd key).owed ≠ [] := by
    obtain ⟨h1, h2, h3, h4, h5, h6, h7, h8⟩ := hu
    refine ⟨⟨h1, h2, h3, h4, h5, h6, h7, Sparse.wf_set h8 _ _⟩, ?_⟩
    rw [State.cmd, State.modCmd, Sparse.modify, Sparse.get_set_self h8]
    simp
  have sent (body : Nat → PacketBody) : Far (s.toPeer 6 1 body) := far_peer h _ fun _ => rfl
  unfold State.peerByte
  simp only []
  split
  · next p hp =>
    split
    · split
      · refine ⟨far_peer h _ fun _ => rfl, fun x => x.elim id fun hn => ?_⟩
        rw [Fabric.peer, hn] at hp
        cases hp
      · exact ⟨(fresh (sent _) _).1, fun _ => (fresh (sent _) _).2⟩
    · exact ⟨(fresh (sent _) _).1, fun _ => (fresh (sent _) _).2⟩
  · exact ⟨(fresh (sent _) _).1, fun _ => (fresh (sent _) _).2⟩

theorem far_write (l : List Byte) {s : State} (h : Far s) (a : Nat) (ha : 2 ^ 30 ≤ a) (hb : a + l.length ≤ 2 ^ 31) (key : Nat) (hn : l ≠ [])
    (ho : (s.cmd key).owed ≠ [] ∨ s.fab.peers = []) : ∃ v, s.writeDva .stream a l key = some v ∧ (v.cmd key).owed ≠ [] := by
  induction l generalizing s a with
  | nil => exact absurd rfl hn
  | cons b l ih =>
    rw [List.length_cons] at hb
    obtain ⟨hf, hw⟩ := far_byte h key (Leaf.target ⟨2 ^ 30, 30, 6 * 2 ^ 48 + 0x9F⟩ a).2 b
    simp only [State.writeDva, far_spot h a ha (by omega)]
    cases l with
    | nil => exact ⟨_, rfl, hw ho⟩
    | cons c l => exact ih hf (a + 1) (by omega) (by omega) (by simp) (.inl (hw ho))

/-- EVICT with a save area in a peer's memory. -/
theorem witness_FieldCommandsAct_peer : ∃ (s t v : State) (die num : Nat), s.Canonical ∧ die < 4 ∧ num < 256 ∧ bitB (s.die die).fstat.toNat 31 = false ∧
    (s.die die).traceOn = false ∧ (s.field (die * 256 + num)).st = .live ∧ s.settled (die * 256 + num) = true ∧ (s.field (die * 256 + num)).closing = none ∧
    (∀ tk ∈ s.fieldTasks (die * 256 + num), (s.task tk).asyncs = []) ∧ exec (.preempt die num) s = .next t ∧
    t.writeDva .stream (t.saveArea die) (t.saveImage (die * 256 + num)) (evictKey die) = some v ∧ (v.cmd (evictKey die)).owed ≠ [] := by
  let s : State := farState { fieldState { st := .live } with dies := [(0, { regs := [(0x112, 0x40000000)] })] } 0
  let t : State := match exec (.preempt 0 0) s with | .next t => t | _ => State.reset
  have ht : t.saveArea 0 = 2 ^ 30 := by decide +kernel
  have hl := saveImage_length t 0 (by decide +kernel) (by decide +kernel)
  have hn : t.saveImage 0 ≠ [] := by simp [State.saveImage, block]
  obtain ⟨v, hv, ho⟩ := far_write (t.saveImage 0) (s := t) (by and_intros <;> decide +kernel) (t.saveArea 0) (Nat.le_of_eq ht.symm) (by rw [ht]; omega) (evictKey 0) hn
    (.inr (by decide +kernel))
  exact ⟨s, t, v, 0, 0, canonical_of (by decide +kernel), by decide, by decide, by decide +kernel, by decide +kernel, by decide +kernel, by decide +kernel,
    by decide +kernel, by decide +kernel, rfl, hv, ho⟩

/-- The image of one empty tile stands at the start of die 0's granary. -/
def imageMem : Memory := tableMem.putAll (2 ^ 50) imageHead

theorem image_in_granary {s : State} (h : s.mem.bytes (2 ^ 50) 82020 = imageHead ++ zeroBytes 81936) :
    s.readImage 0 true 0x10000000 = some (imageHead ++ zeroBytes 81936) := by
  have e : s.mem.bytes (2 ^ 50) 82020 = s.mem.bytes (2 ^ 50) 64 ++ s.mem.bytes (2 ^ 50 + 64) 81956 := bytes_add _ _ 64 81956
  have h64 : s.mem.bytes (2 ^ 50) 64 = imageHead.take 64 := by
    have := congrArg (List.take 64) h
    rwa [e, List.take_left' (bytes_length _ _ _), List.take_append_of_le_length (by rw [imageHead_length]; decide)] at this
  have p : place (.granary 0) 0 = 2 ^ 50 := rfl
  have l : max 64 (leAt (imageHead.take 64) 40 8) = 82020 := by decide +kernel
  have i (n : Nat) (hn : n ≤ 82020) : s.imageBytes 0 true 0x10000000 n = some (s.mem.bytes (2 ^ 50) n) := by
    simp only [State.imageBytes, if_true, State.read, Nat.sub_self, p]
    exact if_pos ⟨Nat.le_refl _, by omega⟩
  simp only [State.readImage, i 64 (by decide), h64, l, i 82020 (by decide), h]

theorem empty_reason : emptyImage.reason = none := by
  have hc (x y : Nat) : emptyImage.cell x y = {} := by
    have hs (i : Nat) : emptyImage.sect i = some emptySect ∨ emptyImage.sect i = none := by
      unfold Image.sect
      generalize emptyImage.map.getD i 0 = n
      cases n with
      | zero => exact .inl rfl
      | succ n => exact .inr (by simp [emptyImage])
    unfold Image.cell
    rcases hs (y / 16 * emptyImage.w + x / 16) with h | h
    · have he (n : Nat) : emptySect.cells.getD n [] = [] := by
        rw [show emptySect.cells = List.replicate 256 [] from rfl, List.getD_eq_getElem?_getD, List.getElem?_replicate]
        split <;> rfl
      simp only [h, he]
    · simp only [h]
  have hl : emptyImage.configured = [] := by
    unfold Image.configured
    rw [List.filter_eq_nil_iff]
    intro c hcm
    simp only [List.mem_flatMap, List.mem_map] at hcm
    obtain ⟨y, -, x, -, rfl⟩ := hcm
    rw [hc]
    show ¬ (({} : Cell).en = true)
    decide +kernel
  have he : ({} : Cell).en = false := by decide +kernel
  have h4 : ({} : Cell).bad3 = false ∧ ({} : Cell).bad4 = false := by decide +kernel
  have hk (l : List (Nat × Nat × Cell)) (h : ∀ a ∈ l, a.2.2 = {}) : cellReason l = none := by
    have n (p : Nat × Nat × Cell → Bool) (q : ∀ x y, p (x, y, {}) = false) : l.any p = false := by
      rw [List.any_eq_false]
      rintro ⟨x, y, c⟩ ha
      rw [show c = {} from h _ ha, q]
      exact Bool.false_ne_true
    rw [cellReason, if_neg, if_neg, if_neg, if_neg] <;> rw [Bool.not_eq_true] <;> apply n <;> intro x y
    · exact h4.2
    · exact h4.1
    · show (({} : Cell).en && _) = false
      rw [he]; rfl
    · simp only [Cell.bad1, he, Bool.not_false, if_true]; simp
  have hr : emptyImage.rates [] = [] := rfl
  unfold Image.reason
  simp only [hl, hr]
  rw [hk _ (by intro a ha; simp only [List.mem_flatMap, List.mem_map] at ha; obtain ⟨y, -, x, -, rfl⟩ := ha; exact hc _ _)]
  rfl

theorem judge_ok {s : State} {die own w h : Nat} {b : List Byte} {im : Image} (hp : parseImage b w h = some im) (hr : im.reason = none)
    (hw : s.windowTaken die own im.gwbase im.gwsize = false) : s.judgeImage die own w h (some b) = .ok im := by
  simp [State.judgeImage, hp, hr, hw]

theorem imageMem_bytes (m : Memory) (h1 : m.bytes (2 ^ 50) 84 = imageHead) (h2 : m.all (fun x => decide (x.1 < 2 ^ 50 + 84)) = true) :
    m.bytes (2 ^ 50) 82020 = imageHead ++ zeroBytes 81936 := by
  rw [show 82020 = 84 + 81936 from rfl, bytes_add, h1, bytes_past _ _ _ h2]

/-- A save image's header of die 0's field 0, one tile at (0, 0), no granule listed; its tile block is zeros. -/
def saveHead : List Byte :=
  bytesOfNat 4 0x51465356 ++ bytesOfNat 2 1 ++ [0, 0, 0, 0, 1, 1] ++ bytesOfNat 2 1 ++ [0, 0] ++ bytesOfNat 8 0x10000000 ++ bytesOfNat 4 0 ++ bytesOfNat 4 0 ++
    bytesOfNat 4 0 ++ bytesOfNat 8 907776 ++ bytesOfNat 8 907776 ++ List.replicate 12 0

/-- The field evicted, its save image in HBM at 0x20000000, its cold image in the granary. -/
def evicted : State :=
  { fieldState { st := .frozen, evicted := true, coldG := true } with
    mem := imageMem.putAll 0x20000000 saveHead
    tiles := []
    fields := [(0, { st := .frozen, evicted := true, coldG := true })] }

def restarted : State := evicted.modDie 0 fun d => d.setReg 0x110 1024

theorem restore_ok {s : State} {f : Nat} {h l b : List Byte} {im : Image} (h64 : s.readDva .stream (s.saveArea (f / 256)) 64 = some h)
    (hb : badHeader f h = false) (ht : s.restoreTaken f h = false) (hl : s.readDva .stream (s.saveArea (f / 256)) (max 64 (leAt h 44 8)) = some l)
    (hw : s.wellsOver f h l = false) (hc : s.coldBytes f h = some b) (hj : s.judgeImage (f / 256) f (leAt h 10 1) (leAt h 11 1) (some b) = .ok im)
    (hn : leAt h 32 4 = 0) : ∃ u, s.restoreField f = .ok u := by
  have he : s.restoreField f = s.restoreImage f h l := by
    rw [State.restoreField, h64, State.restoreHeader, hb, ht, hl]; rfl
  have hi : ∃ a, s.restoreImage f h l = .ok (State.restoreTiles a f l) := by
    rw [State.restoreImage, hw, hc, hj, hn]
    exact ⟨_, rfl⟩
  obtain ⟨a, hi⟩ := hi
  exact ⟨_, he.trans hi⟩

theorem restarted_mapped : Mapped restarted := by and_intros <;> decide +kernel

theorem restarted_area : restarted.saveArea (0 / 256) = 0x20000000 := by decide +kernel

theorem restarted_cold : restarted.coldBytes 0 saveHead = some (imageHead ++ zeroBytes 81936) := by
  have h : leAt saveHead 16 8 = 0x10000000 := by decide +kernel
  rw [State.coldBytes, h]
  exact image_in_granary (imageMem_bytes _ (by decide +kernel) (by decide +kernel))

theorem restarted_wells (l : List Byte) : restarted.wellsOver 0 saveHead l = false := by
  have h1 : leAt saveHead 10 1 * leAt saveHead 11 1 = 1 := by decide +kernel
  have h2 : restarted.wellUse (fun c => decide (dieOf c = 0 / 256)) = 0 := by decide +kernel
  have h3 : savedWells 1 l ≤ 8 := by
    simp only [savedWells, show List.range 1 = [0] from rfl, List.flatMap_cons, List.flatMap_nil, List.append_nil]
    exact Nat.le_trans (List.length_filter_le _ _) (by simp)
  simp only [State.wellsOver, h1, h2, decide_eq_false_iff_not]
  omega

theorem restored_head : restarted.mem.bytes 0x20000000 64 = saveHead ∧ max 64 (leAt saveHead 44 8) = 907776 := by decide +kernel

theorem restored : ∃ u, restarted.restoreField 0 = .ok u := by
  obtain ⟨h64, hl⟩ := restored_head
  have hd : leAt saveHead 10 1 = 1 ∧ leAt saveHead 11 1 = 1 := by decide +kernel
  have hj := judge_ok (s := restarted) (die := 0) (own := 0) image_parses empty_reason (by decide +kernel)
  refine restore_ok (im := emptyImage) (l := restarted.mem.bytes 0x20000000 907776) ?_ (by decide +kernel) (by decide +kernel) ?_ (restarted_wells _) restarted_cold ?_ (by decide +kernel)
  · rw [restarted_area, mapped_read restarted_mapped 64 0x20000000 (by decide), h64]
  · rw [restarted_area, hl]; exact mapped_read restarted_mapped 907776 0x20000000 (by decide)
  · rw [hd.1, hd.2]; exact hj

theorem evicted_mapped : Mapped evicted := by and_intros <;> decide +kernel

/-- All that RESTORE reads lies in the module's own memory. -/
theorem evicted_lines : evicted.linesNeeded (evicted.restoreRanges 0) = [] := by
  have ha : evicted.saveArea (0 / 256) = 0x20000000 := by decide +kernel
  have hm : evicted.mem.bytes 0x20000000 64 = saveHead := by
    have h := restored_head.1
    have e (s : State) (k : Nat) (g : Die → Die) : (s.modDie k g).mem = s.mem := rfl
    rw [restarted, e] at h
    exact h
  have hc : (evicted.field 0).coldG = true := by decide +kernel
  have hb : badHeader 0 saveHead = false := by decide +kernel
  refine mapped_lines evicted_mapped _ fun x hx => ?_
  simp only [State.restoreRanges, ha, mapped_read evicted_mapped 64 0x20000000 (by decide), hm, hb, State.imageRanges, hc, if_true, List.mem_cons,
    List.not_mem_nil, or_false, restored_head.2, Bool.false_eq_true, if_false] at hx
  rcases hx with rfl | rfl <;> decide

/-- RESTORE finds a good save image. -/
theorem witness_FieldCommandsAct_restore : ∃ (s u : State) (die num : Nat), s.Canonical ∧ die < 4 ∧ num < 256 ∧ bitB (s.die die).fstat.toNat 31 = false ∧
    (s.die die).traceOn = false ∧ (s.field (die * 256 + num)).st = .frozen ∧ (s.field (die * 256 + num)).evicted = true ∧
    s.linesNeeded (s.restoreRanges (die * 256 + num)) = [] ∧ (s.modDie die fun d => d.setReg 0x110 (4 * 256 + num)).restoreField (die * 256 + num) = .ok u := by
  obtain ⟨u, hu⟩ := restored
  exact ⟨evicted, u, 0, 0, canonical_of (by decide +kernel), by decide, by decide, by decide +kernel, by decide +kernel, by decide +kernel, by decide +kernel, evicted_lines, hu⟩

/-- Tile 0 is free, and the record's image stands in the granary. -/
def coldState : State := { launchState (taken (launchRecord 1 8 0 0x10000000 []) .started none) .live 0 [] with fields := [], mem := imageMem }

theorem witness_LaunchesAreTakenAndComplete_cold : ∃ (s : State) (l : Launch) (b : List Byte) (im : Image) (n : Nat), s.Canonical ∧ s.launch? l.id = some l ∧
    l.st = .started ∧ l.kind ≠ 0 ∧ l.kind ≠ 2 ∧ l.legal = true ∧ s.overlaps l = [] ∧
    s.linesNeeded (s.imageRanges l.die l.imgg (l.le 8 8)) = [] ∧ s.readImage l.die l.imgg (l.le 8 8) = some b ∧
    s.freeField l.die = some n ∧ s.judgeImage l.die (l.die * 256 + n) (l.le 6 1) (l.le 7 1) (some b) = .ok im := by
  have hr : coldState.readImage 0 true 0x10000000 = some (imageHead ++ zeroBytes 81936) :=
    image_in_granary (imageMem_bytes _ (by decide +kernel) (by decide +kernel))
  have hj := judge_ok (s := coldState) (die := 0) (own := 0) image_parses empty_reason (by decide +kernel)
  let l := taken (launchRecord 1 8 0 0x10000000 []) .started none
  have h1 : l.die = 0 ∧ l.imgg = true ∧ l.le 8 8 = 0x10000000 ∧ l.le 6 1 = 1 ∧ l.le 7 1 = 1 ∧ coldState.freeField l.die = some 0 := by decide +kernel
  refine ⟨coldState, l, imageHead ++ zeroBytes 81936, emptyImage, 0, canonical_of (by decide +kernel), by decide +kernel, rfl, by decide +kernel, by decide +kernel,
    by decide +kernel, by decide +kernel, by decide +kernel, ?_, h1.2.2.2.2.2, ?_⟩
  · rw [h1.1, h1.2.1, h1.2.2.1]; exact hr
  · rw [h1.1, h1.2.2.2.1, h1.2.2.2.2.1]; exact hj

/-- The same image for a LIVE field of tile 0 with another one, the field armed or not, its launch classified or not. -/
def reconfigState (l : Launch) (armed : Bool) : State :=
  { launchState l .live 1 [] with
    mem := imageMem
    fields := [(0, { st := .live, w := 1, h := 1, ver := 1, image := 0x10000040, imageG := true, armed := armed })] }

theorem reconfig_good {l : Launch} {armed : Bool} (hl : l.die = 0 ∧ l.imgg = true ∧ l.le 8 8 = 0x10000000)
    (hg : (reconfigState l armed).windowTaken 0 0 emptyImage.gwbase emptyImage.gwsize = false) (hx : ((reconfigState l armed).field 0).w = 1 ∧ ((reconfigState l armed).field 0).h = 1) :
    ∃ b im, (reconfigState l armed).readImage l.die l.imgg (l.le 8 8) = some b ∧
      (reconfigState l armed).judgeImage l.die 0 ((reconfigState l armed).field 0).w ((reconfigState l armed).field 0).h (some b) = .ok im := by
  refine ⟨imageHead ++ zeroBytes 81936, emptyImage, ?_, ?_⟩
  · rw [hl.1, hl.2.1, hl.2.2]
    exact image_in_granary (imageMem_bytes _ (by show imageMem.bytes (2 ^ 50) 84 = imageHead; decide +kernel) (by show imageMem.all _ = true; decide +kernel))
  · rw [hl.1, hx.1, hx.2]
    exact judge_ok image_parses empty_reason hg

theorem witness_LaunchesAreTakenAndComplete_reconfig :
    (∃ (s : State) (l : Launch) (f : Nat) (b : List Byte) (im : Image), reconfigB s l f = true ∧ (s.field f).st = .live ∧ s.heldWave f = none ∧
      s.linesNeeded (s.imageRanges l.die l.imgg (l.le 8 8)) = [] ∧ (∀ w, w < 8 → bitB ((s.die (f / 256)).reg (0x132 + 4 * w)) 0 = false) ∧
      (s.field f).armed = true ∧ s.readImage l.die l.imgg (l.le 8 8) = some b ∧ s.judgeImage l.die f (s.field f).w (s.field f).h (some b) = .ok im) ∧
    ∃ (s : State) (l : Launch) (f : Nat) (b : List Byte) (im : Image), reconfigB s l f = true ∧ (s.field f).st = .live ∧ s.heldWave f = none ∧
      s.linesNeeded (s.imageRanges l.die l.imgg (l.le 8 8)) = [] ∧ (∀ w, w < 8 → bitB ((s.die (f / 256)).reg (0x132 + 4 * w)) 0 = false) ∧
      ((s.field f).armed = false ∧ (s.nameField l.id f .loading).launchesOf f Launch.atWork = []) ∧
      s.readImage l.die l.imgg (l.le 8 8) = some b ∧ s.judgeImage l.die f (s.field f).w (s.field f).h (some b) = .ok im := by
  let one := taken (launchRecord 1 8 0 0x10000000 []) .started none
  let on := taken (launchRecord 1 8 0 0x10000000 []) .reconfig (some 0)
  obtain ⟨b1, i1, h1, j1⟩ := reconfig_good (l := one) (armed := true) (by decide +kernel) (by decide +kernel) (by decide +kernel)
  obtain ⟨b2, i2, h2, j2⟩ := reconfig_good (l := on) (armed := false) (by decide +kernel) (by decide +kernel) (by decide +kernel)
  exact ⟨⟨reconfigState one true, one, 0, b1, i1, by decide +kernel, by decide +kernel, Option.isNone_iff_eq_none.mp (by decide +kernel), by decide +kernel,
    by decide +kernel, by decide +kernel, h1, j1⟩, reconfigState on false, on, 0, b2, i2, by decide +kernel, by decide +kernel,
    Option.isNone_iff_eq_none.mp (by decide +kernel), by decide +kernel, by decide +kernel, by and_intros <;> decide +kernel, h2, j2⟩

/-! ### Rings, stops, streams and the debug window -/

def frec : FRec := ⟨1, .trap, 0, 3, 1, 17, 2, 0x120, 0, 5, 0, 0, 0, 99⟩

theorem witness_RingStopsStreamsAndWindowAct_records :
    (∃ (s : State) (die : Nat) (r : FRec) (rest : List FRec), s.Canonical ∧ die < 4 ∧
      let d := s.die die
      let a := d.reg 0x108 + 64 * (d.frtail.toNat % 2 ^ (d.reg 0x109 / 2 ^ 12 % 16))
      d.recs = r :: rest ∧ d.ringOpen = true ∧ 0x10000000 ≤ a ∧ a + 64 ≤ 0x16000000) ∧
    (∃ (s : State) (f : Nat), s.Canonical ∧ (s.die (f / 256)).traceOn = false ∧ s.dumpDue f = true ∧ s.launchesOf f (fun _ => true) = []) ∧
    ∃ (s : State) (f : Nat) (w : Wave), s.Canonical ∧ (s.die (f / 256)).traceOn = false ∧ s.heldWave f = some w ∧ (s.field f).st = .live ∧ (s.field f).armed = true ∧
      s.returnsOpen f = false ∧ s.restBut f w.scfg = true ∧ s.linksEmpty f = true ∧ (∀ tk ∈ s.fieldTasks f, (s.task tk).asyncs = []) :=
  ⟨⟨{ State.reset with dies := [(3, { recs := [frec, frec], frtail := 31, regs := [(0x108, 0x10000400), (0x109, BitVec.ofNat 32 (2 ^ 31 + 4 * 2 ^ 12 + 7)), (0x10B, 16)] })] },
    3, frec, [frec], canonical_of (by decide +kernel), by and_intros <;> decide +kernel⟩,
   ⟨{ fieldState { st := .frozen, cause := some 4, dump := some 5 } with dies := [(0, { regs := [(0x114, 1)] })], cycle := 2400005 }, 0, canonical_of (by decide +kernel),
    by and_intros <;> decide +kernel⟩,
   { fieldState { st := .live, armed := true, held := some ⟨[], .scfg 128, false, false⟩ } with cmds := [(128, { st := .running, op := 8 })] }, 0,
   ⟨[], .scfg 128, false, false⟩, canonical_of (by decide +kernel), by and_intros <;> decide +kernel⟩

/-- A tile's paused stream, with lines of a peer's memory owed to it or none, and with a write that a peer owes an answer to; a paused landing. -/
theorem witness_RingStopsStreamsAndWindowAct_streams :
    (∃ (s : State) (die tile ctx entry v : Nat), s.Canonical ∧ die < 4 ∧ tile < 144 ∧ ctx < 8 ∧ entry < 16 ∧ v = tile + ctx * 2 ^ 8 + entry * 2 ^ 12 ∧
      let c := s.cmd (((die * 256 + tile) * 8 + ctx) * 16 + entry)
      c.st = .paused ∧ s.strWaits die tile ctx entry = false ∧ c.op ≤ 7 ∧ (∀ o ∈ c.owed, o.line ≠ none) ∧ c.owed ≠ []) ∧
    (∃ (s : State) (die tile ctx entry v : Nat), s.Canonical ∧ die < 4 ∧ tile < 144 ∧ ctx < 8 ∧ entry < 16 ∧ v = tile + ctx * 2 ^ 8 + entry * 2 ^ 12 ∧
      let c := s.cmd (((die * 256 + tile) * 8 + ctx) * 16 + entry)
      c.st = .paused ∧ s.strWaits die tile ctx entry = false ∧ c.op ≤ 7 ∧ ∃ o ∈ c.owed, o.line = none) ∧
    ∃ (s : State) (die tile e : Nat), s.Canonical ∧ die < 4 ∧ tile < 144 ∧ s.pausedLandings (die * 256 + tile) = [e] ∧ s.strWaits die tile 8 0 = false :=
  let paused (o : Owed) : State :=
    { State.reset with cmds := [(((3 * 256 + 143) * 8 + 7) * 16 + 15, { st := .paused, op := 7, fault := 1, owed := [o] })] }
  ⟨⟨paused { peer := 1, psn := 2, line := some 64 }, 3, 143, 7, 15, 143 + 7 * 2 ^ 8 + 15 * 2 ^ 12, canonical_of (by decide +kernel), by decide, by decide,
    by decide, by decide, rfl, by and_intros <;> decide +kernel⟩,
   ⟨paused { peer := 1, psn := 2 }, 3, 143, 7, 15, 143 + 7 * 2 ^ 8 + 15 * 2 ^ 12, canonical_of (by decide +kernel), by decide, by decide,
    by decide, by decide, rfl, by and_intros <;> decide +kernel⟩,
   { State.reset with rx := { entries := [(9, { task := (3 * 256 + 143) * 8, paused := true })] } }, 3, 143, 9, canonical_of (by decide +kernel), by and_intros <;> decide +kernel⟩

/-- A frozen field's task block at its first and last words that a write changes, and a cell's. -/
def windowState (item o : Nat) : State :=
  { fieldState { st := .frozen } with dies := [(0, { regs := [(0x120, BitVec.ofNat 32 (item * 2 ^ 16 + 7 * 2 ^ 8 + o * 2 ^ 18))] })] }

def windowB (item o : Nat) : Bool :=
  let s := windowState item o
  let sel := (s.die 0).reg 0x120
  canonB s && decide (sel / 2 ^ 16 % 4 = item) && decide (sel / 2 ^ 18 = o) && (match s.dwItem 0 sel with | some l => decide (4 * o < l.length) | none => false)

theorem witness_RingStopsStreamsAndWindowAct_window : ∀ x ∈ [(0, 4), (0, 183), (0, 300), (0, 315), (1, 4), (1, 53)], windowB x.1 x.2 = true := by decide +kernel

/-- Writes of eight bytes that were held at page 0, which is present now, and a page where nothing is held. -/
def heldState (page : Nat) : State :=
  { requestState 0xC1 0x3FFFFFF8 [7] with
    fab := { modid := 5, heldq := [⟨page, none, .request 0 8 0xC1 0x3FFFFFF8 [7]⟩] } }

def isDone : Served → Bool
  | .done _ _ _ => true
  | _ => false

theorem done_of {r : Served} (h : isDone r = true) : ∃ old line u, r = .done old line u := by
  cases r with
  | done old line u => exact ⟨old, line, u, rfl⟩
  | refused => cases h
  | hold _ => cases h
  | forward _ _ => cases h
  | absent => cases h

theorem witness_RingStopsStreamsAndWindowAct_migrelh :
    (∃ (s : State) (die v : Nat), s.Canonical ∧ die < 4 ∧ ∀ h ∈ s.fab.heldq, h.page ≠ v % 65536 * 2 ^ 32 + (s.die die).migrell.toNat / 65536 * 65536) ∧
    ∃ (s : State) (die v n tk ctl a : Nat) (data : List Nat) (old : Option Nat) (line : List Byte) (u : State), s.Canonical ∧ die < 4 ∧
      let page := v % 65536 * 2 ^ 32 + (s.die die).migrell.toNat / 65536 * 65536
      (s.fab.heldq.filter fun h => decide (h.page = page)) = [⟨page, none, .request n tk ctl a data⟩] ∧
      quietB s (coreOf tk) = true ∧ State.serve { s with fab := { s.fab with heldq := s.fab.heldq.filter fun h => decide (h.page ≠ page) } } none tk ctl a data = .done old line u := by
  refine ⟨⟨heldState 0x10000, 0, 0, canonical_of (by decide +kernel), by decide, by decide +kernel⟩, ?_⟩
  let s := heldState 0
  obtain ⟨old, line, u, h⟩ := done_of (r := State.serve { s with fab := { s.fab with heldq := s.fab.heldq.filter fun h => decide (h.page ≠ 0 % 65536 * 2 ^ 32 + (s.die 0).migrell.toNat / 65536 * 65536) } } none 8 0xC1 0x3FFFFFF8 [7])
    (by decide +kernel)
  exact ⟨s, 0, 0, 0, 8, 0xC1, 0x3FFFFFF8, [7], old, line, u, canonical_of (by decide +kernel), by decide, by decide +kernel, by decide +kernel, h⟩

/-! ### Fabric and rotor -/

theorem mapped_hbm {s : State} (h : Mapped s) (n a : Nat) (hl : a + n ≤ 2 ^ 30) : s.hbmBytes a n = some (s.mem.bytes a n) := by
  induction n generalizing a with
  | zero => rfl
  | succ n ih =>
    have ht : Leaf.target ⟨0, 30, 0x1F⟩ a = (0, a) := by show (0, 0 + a % 2 ^ 30) = (0, a); rw [Nat.mod_eq_of_lt (by omega), Nat.zero_add]
    have hj : Walk.judge (.ok ⟨0, 30, 0x1F⟩) false .stream = .ok ⟨0, 30, 0x1F⟩ := by decide
    have hm : inMap a = true := by simp [inMap, inRegs]; omega
    have hp : s.hbmPlace a false = some a := by rw [State.hbmPlace, mapped_walk h a (by omega), hj]; simp [ht, hm]
    simp only [State.hbmBytes, hp, ih (a + 1) (by omega), place, Memory.bytes, Option.map_some]

theorem mapped_putAll (l : List Byte) (a : Nat) (ha : 0x102000 ≤ a) : Mapped { State.reset with mem := tableMem.putAll a l, pkg := tablePkg } := by
  have hw : tableMem.wf = true := by decide +kernel
  refine ⟨rfl, ?_, ?_, ?_⟩
  · show (tableMem.putAll a l).wf = true
    clear ha
    suffices ∀ m : Memory, m.wf = true → (m.putAll a l).wf = true from this _ hw
    intro m hm
    induction l generalizing a m with
    | nil => exact hm
    | cons b l ih => exact ih (a + 1) _ (Memory.wf_put' hm _ _)
  · show (tableMem.putAll a l).le 0x100000 8 = _
    rw [Memory.le_putAll_out hw _ _ _ _ (.inl (by omega))]; decide +kernel
  · show (tableMem.putAll a l).le 0x101000 8 = _
    rw [Memory.le_putAll_out hw _ _ _ _ (.inl (by omega))]; decide +kernel

/-- Modules 5 and 6 at switch ports 0 and 1, the other in every pairing of plane 0. -/
def groupTable : List Byte :=
  bytesOfNat 4 0x51464754 ++ bytesOfNat 2 9 ++ bytesOfNat 2 0 ++ bytesOfNat 4 3 ++ bytesOfNat 4 0 ++ bytesOfNat 2 5 ++ bytesOfNat 2 6 ++ List.replicate 2044 255 ++
    bytesOfNat 2 1 ++ List.replicate 2046 255

theorem leAt_ones (a b : List Byte) (m k : Nat) (h : k + 2 ≤ m) : leAt (a ++ (List.replicate m 255 ++ b)) (a.length + k) 2 = 0xFFFF := by
  have hp : part (a ++ (List.replicate m 255 ++ b)) (a.length + k) 2 = [255, 255] := by
    have hm : List.replicate m (255 : Byte) = List.replicate k 255 ++ ([255, 255] ++ List.replicate (m - k - 2) 255) := by
      rw [show ([255, 255] : List Byte) = List.replicate 2 255 from rfl, List.replicate_append_replicate, List.replicate_append_replicate]
      congr 1; omega
    rw [part, hm, ← List.drop_drop, List.drop_left' rfl, List.append_assoc, List.drop_left' List.length_replicate]
    rfl
  rw [leAt, hp]; rfl

theorem range_cut (k n : Nat) (f : Nat → Nat) (c : Nat) (h : ∀ i, k ≤ i → i < k + n → f i = c) : (List.range (k + n)).map f = (List.range k).map f ++ List.replicate n c := by
  rw [List.range_add, List.map_append, List.map_map]
  congr 1
  rw [List.eq_replicate_iff]
  refine ⟨by simp, fun b hb => ?_⟩
  obtain ⟨i, hi, rfl⟩ := List.mem_map.mp hb
  exact h _ (Nat.le_add_right _ _) (Nat.add_lt_add_left (List.mem_range.mp hi) _)

theorem groupTable_ports : (List.range 1024).map (fun p => leAt groupTable (16 + 2 * p) 2) = [5, 6] ++ List.replicate 1022 0xFFFF := by
  rw [show 1024 = 2 + 1022 from rfl, range_cut 2 1022 _ 0xFFFF]
  · rw [show (List.range 2).map (fun p => leAt groupTable (16 + 2 * p) 2) = [5, 6] from by decide +kernel]
  · intro i h1 h2
    let a : List Byte := bytesOfNat 4 0x51464754 ++ bytesOfNat 2 9 ++ bytesOfNat 2 0 ++ bytesOfNat 4 3 ++ bytesOfNat 4 0 ++ bytesOfNat 2 5 ++ bytesOfNat 2 6
    have ha : a.length = 20 := by decide +kernel
    have e : groupTable = a ++ (List.replicate 2044 255 ++ (bytesOfNat 2 1 ++ List.replicate 2046 255)) := by simp only [groupTable, List.append_assoc, a]
    rw [e, show 16 + 2 * i = a.length + (2 * i - 4) by omega]
    exact leAt_ones _ _ _ _ (by omega)

theorem groupTable_sched : (List.range 1024).map (fun i => leAt groupTable (2064 + 2 * i) 2) = [1] ++ List.replicate 1023 0xFFFF := by
  rw [show 1024 = 1 + 1023 from rfl, range_cut 1 1023 _ 0xFFFF]
  · rw [show (List.range 1).map (fun i => leAt groupTable (2064 + 2 * i) 2) = [1] from by decide +kernel]
  · intro i h1 h2
    let a : List Byte := bytesOfNat 4 0x51464754 ++ bytesOfNat 2 9 ++ bytesOfNat 2 0 ++ bytesOfNat 4 3 ++ bytesOfNat 4 0 ++ bytesOfNat 2 5 ++ bytesOfNat 2 6 ++
      List.replicate 2044 255 ++ bytesOfNat 2 1
    have ha : a.length = 2066 := by decide +kernel
    have e : groupTable = a ++ (List.replicate 2046 255 ++ []) := by simp only [groupTable, List.append_assoc, List.append_nil, a]
    rw [e, show 2064 + 2 * i = a.length + (2 * i - 2) by omega]
    exact leAt_ones _ _ _ _ (by omega)

theorem groupTable_good (f : Fabric) (hf : f.applied = false) : f.tableOf groupTable = some ⟨9, 0, 3, [5, 6] ++ List.replicate 1022 0xFFFF, [1] ++ List.replicate 1023 0xFFFF⟩ := by
  have e (o n v : Nat) (h : leAt groupTable o n = v) : leAt groupTable o n = v := h
  simp only [Fabric.tableOf, groupTable_ports, groupTable_sched, e 4 2 9 (by decide +kernel), e 6 2 0 (by decide +kernel), e 8 4 3 (by decide +kernel),
    e 0 4 0x51464754 (by decide +kernel), e 12 4 0 (by decide +kernel), hf]
  have hp : (List.range 1024).all (fun p => decide (([5, 6] ++ List.replicate 1022 0xFFFF).getD p 0xFFFF = 0xFFFF) || decide (p = 0) ||
      ([1] ++ List.replicate 1023 0xFFFF).contains p) = true := by
    rw [List.all_eq_true]
    intro p _
    match p with
    | 0 => decide
    | 1 => decide +kernel
    | p + 2 =>
      have : ([5, 6] ++ List.replicate 1022 0xFFFF).getD (p + 2) 0xFFFF = 0xFFFF := by
        rw [List.getD_eq_getElem?_getD]
        show ((List.replicate 1022 0xFFFF)[p]?).getD 0xFFFF = 0xFFFF
        rw [List.getElem?_replicate]; split <;> rfl
      rw [this]; rfl
  exact if_pos ⟨by decide, by decide, by decide, .inl rfl, by decide, by decide, by decide +kernel, by decide +kernel, hp⟩

/-- A record in HBM at 0x200000, a fabric as given. -/
def fabricState (l : List Byte) (g : Fabric) : State := { State.reset with mem := tableMem.putAll 0x200000 l, pkg := tablePkg, fab := g }

theorem fabric_hbm (l : List Byte) (g : Fabric) (h : l.length < 2 ^ 29) : (fabricState l g).hbmBytes 0x200000 l.length = some l := by
  have hm : Mapped (fabricState l g) := mapped_putAll l 0x200000 (by decide)
  rw [mapped_hbm hm _ _ (by omega)]
  exact congrArg some (Memory.bytes_putAll (by decide +kernel) _ _)

theorem fabric_canonical (l : List Byte) (g : Fabric) : (fabricState l g).Canonical := by
  have hm : Mapped (fabricState l g) := mapped_putAll l 0x200000 (by decide)
  exact ⟨hm.2.1, rfl, rfl, rfl, rfl, rfl, rfl, rfl⟩

theorem witness_FabricCommandsChangeState_table :
    (∃ (s : State) (T : Table), s.Canonical ∧ (s.fab.st = .down ∨ s.fab.st = .dark) ∧ (s.hbmBytes s.fab.gtaddr 4112).bind s.fab.tableOf = some T) ∧
    (∃ s : State, s.Canonical ∧ ¬ (s.fab.st = .down ∨ s.fab.st = .dark)) ∧
    ∃ s : State, s.Canonical ∧ (s.hbmBytes s.fab.gtaddr 4112).bind s.fab.tableOf = none := by
  have hl : groupTable.length = 4112 := by simp only [groupTable, List.length_append, List.length_replicate, bytesOfNat_length]
  have hh : (fabricState groupTable { gtaddr := 0x200000 }).hbmBytes 0x200000 4112 = some groupTable := by
    have := fabric_hbm groupTable { gtaddr := 0x200000 } (by rw [hl]; decide)
    rwa [hl] at this
  refine ⟨⟨fabricState groupTable { gtaddr := 0x200000 }, ⟨9, 0, 3, [5, 6] ++ List.replicate 1022 0xFFFF, [1] ++ List.replicate 1023 0xFFFF⟩, fabric_canonical _ _, .inl rfl, ?_⟩, ⟨fabricState [] { st := .isOpen }, fabric_canonical _ _, by decide⟩,
    fabricState [] { gtaddr := 0x40000000 }, fabric_canonical _ _, by decide +kernel⟩
  show (State.hbmBytes _ 0x200000 4112).bind _ = _
  rw [hh, Option.bind_some]
  exact groupTable_good _ rfl

/-- A key record: epoch 7, activation cycle 100. -/
def keyRecord : List Byte := bytesOfNat 8 7 ++ bytesOfNat 8 100 ++ List.replicate 64 3

/-- The key is newer than the one in use, or no newer; in DOWN, OPEN, and READY; 64 cycles before it takes effect, and later; with a switch to
another key due, or not due. -/
theorem witness_FabricCommandsChangeState_key :
    (∀ g ∈ [({ keyaddr := 0x200000, cur := some ⟨6, [], 0⟩ } : Fabric), { keyaddr := 0x200000, st := .isOpen, cycle := 36 },
        { keyaddr := 0x200000, st := .isOpen, cycle := 37 }, { keyaddr := 0x200000, cur := some ⟨7, [], 0⟩ }, { keyaddr := 0x200000, st := .ready },
        { keyaddr := 0x200000, st := .isOpen, cycle := 36, nxt := some ⟨6, [], 36⟩ }, { keyaddr := 0x200000, st := .isOpen, cycle := 36, nxt := some ⟨6, [], 37⟩ },
        { keyaddr := 0x200000, st := .isOpen, cycle := 36, nxt := some ⟨7, [], 36⟩ }],
      (fabricState keyRecord g).Canonical ∧ (fabricState keyRecord g).hbmBytes g.keyaddr 80 = some keyRecord) ∧
    (leAt keyRecord 0 4 = 7 ∧ leAt keyRecord 8 8 = 100) ∧
    ∃ s : State, s.Canonical ∧ s.hbmBytes s.fab.keyaddr 80 = none := by
  refine ⟨fun g hg => ⟨fabric_canonical _ _, ?_⟩, by decide +kernel, fabricState [] { keyaddr := 0x40000000 }, fabric_canonical _ _, by decide +kernel⟩
  have hk : g.keyaddr = 0x200000 := by
    simp only [List.mem_cons, List.not_mem_nil, or_false] at hg
    rcases hg with h | h | h | h | h | h | h | h <;> rw [h]
  rw [hk]
  exact fabric_hbm keyRecord g (by decide +kernel)

theorem witness_FabricCommandsChangeState_states :
    (∃ s : State, s.Canonical ∧ (s.fab.st = .down ∨ s.fab.st = .dark) ∧ s.fab.applied = true ∧ s.fab.cur.isSome = true) ∧
    (∃ s : State, s.Canonical ∧ (s.fab.st = .ready ∨ s.fab.st = .drained)) ∧
    (∃ s : State, s.Canonical ∧ s.fab.st = .isOpen) ∧
    ∃ s : State, s.Canonical ∧ s.fab.st = .locking ∧ (s.fab.fibres.any fun x => x.2.locked) = true :=
  ⟨⟨fabricState [] { st := .dark, applied := true, cur := some ⟨7, [], 0⟩ }, fabric_canonical _ _, by decide, rfl, rfl⟩,
   ⟨fabricState [] { st := .drained }, fabric_canonical _ _, by decide⟩, ⟨fabricState [] { st := .isOpen }, fabric_canonical _ _, rfl⟩,
   fabricState [] { st := .locking, fibres := [(63, { told := true, heard := true })] }, fabric_canonical _ _, rfl, by decide +kernel⟩

/-! A module paired with module 6 in plane 0, slot 0, at the wavelengths of the fibre. -/

def rotorFab (x : Fibre) (p : Peer) : Fabric :=
  { st := .isOpen, modid := 5, group := 9, cycle := 200, ports := [5, 6], sched := [1], cur := some ⟨7, List.replicate 64 3, 100⟩
    fibres := [(0, x)], peers := [(6, p)] }

def latePacket (sends : Nat) : Packet := ⟨4, 1, .response 4 0 none [], sends, 8, false, false, none⟩

/-- No key switch or erasure is due. -/
def stillB (f : Fabric) : Bool :=
  (match f.nxt with | some k => decide (f.cycle < k.act) | none => true) &&
    (match f.cur with | some k => f.prev.isNone || decide (f.cycle < k.act + 16) | none => true)

theorem witness_RotorSlotsCarryFlits :
    (∃ (s : State) (fibre slot m : Nat) (k : Key), s.Canonical ∧ fibre < 64 ∧ slot < 16 ∧ (s.fab.st ≠ .down ∧ s.fab.st ≠ .dark) ∧ s.fab.cur = some k ∧
      s.fab.pairing fibre slot = some m ∧ (s.fab.fibre fibre).flits ≠ 0 ∧ stillB s.fab = true) ∧
    (∃ (s : State) (fibre slot : Nat) (k : Key), s.Canonical ∧ fibre < 64 ∧ slot < 16 ∧ (s.fab.st ≠ .down ∧ s.fab.st ≠ .dark) ∧ s.fab.cur = some k ∧
      s.fab.pairing fibre slot = none ∧ (s.fab.fibre fibre).flits ≠ 0 ∧ stillB s.fab = true) ∧
    (∃ s : State, s.Canonical ∧ s.fab.st ≠ .draining) ∧
    (∃ (s : State) (m psn : Nat) (k : Packet), s.Canonical ∧ (s.fab.peer m).out.find? (fun y => decide (y.psn = psn)) = some k ∧
      (s.fab.st = .isOpen ∨ s.fab.st = .draining) ∧ 8 ≤ k.age ∧ 0 < k.sends ∧ k.due = false ∧ k.refused = false ∧ k.sends < 4) ∧
    (∃ (s : State) (m psn : Nat) (k : Packet), s.Canonical ∧ (s.fab.peer m).out.find? (fun y => decide (y.psn = psn)) = some k ∧
      (s.fab.st = .isOpen ∨ s.fab.st = .draining) ∧ 8 ≤ k.age ∧ 0 < k.sends ∧ k.due = false ∧ k.refused = false ∧ 4 ≤ k.sends) ∧
    (∃ (s : State) (m : Nat), s.Canonical ∧ (s.fab.st = .isOpen ∨ s.fab.st = .draining) ∧ s.fab.isPeer m = true ∧ (s.fab.peer m).unreachable = false ∧
      16 ≤ (s.fab.peer m).silent) ∧
    (∃ (s : State) (k : Key), s.Canonical ∧ s.fab.nxt = some k ∧ k.act ≤ s.fab.cycle) ∧
    ∃ (s : State) (k o : Key), s.Canonical ∧ s.fab.cur = some k ∧ s.fab.prev = some o ∧ k.act + 16 ≤ s.fab.cycle :=
  let k : Key := ⟨7, List.replicate 64 3, 100⟩
  let o : Key := ⟨8, List.replicate 64 4, 200⟩
  ⟨⟨fabricState [] (rotorFab {} {}), 0, 0, 6, k, fabric_canonical _ _, by decide, by decide, by decide, rfl, by decide +kernel, by decide +kernel⟩,
   ⟨fabricState [] (rotorFab {} {}), 1, 0, k, fabric_canonical _ _, by decide, by decide, by decide, rfl, by decide +kernel, by decide +kernel⟩,
   ⟨fabricState [] (rotorFab {} {}), fabric_canonical _ _, by decide⟩,
   ⟨fabricState [] (rotorFab {} { out := [latePacket 3] }), 6, 4, latePacket 3, fabric_canonical _ _, by decide +kernel, by decide, by decide, by decide, rfl, rfl, by decide⟩,
   ⟨fabricState [] (rotorFab {} { out := [latePacket 4] }), 6, 4, latePacket 4, fabric_canonical _ _, by decide +kernel, by decide, by decide, by decide, rfl, rfl, by decide⟩,
   ⟨fabricState [] (rotorFab {} { silent := 16 }), 6, fabric_canonical _ _, by and_intros <;> decide +kernel⟩,
   ⟨fabricState [] { rotorFab {} {} with nxt := some o }, o, fabric_canonical _ _, rfl, by decide⟩,
   fabricState [] { rotorFab {} {} with prev := some o, cycle := 116 }, k, o, fabric_canonical _ _, rfl, rfl, by decide⟩

/-- The tag of a flit of 224 bytes has 16, so a good flit is one with that tag, and a bad one has another. -/
theorem witness_RotorSlotsCarryFlits_receive :
    ∃ (s : State) (fibre slot m : Nat) (k : Key) (ctr kind : Nat) (ct good bad : List Byte), s.Canonical ∧ fibre < 64 ∧ slot < 16 ∧
      (s.fab.st ≠ .down ∧ s.fab.st ≠ .dark) ∧ (s.fab.fibre fibre).rxdead = false ∧ s.fab.pairing fibre slot = some m ∧ ctr < 2 ^ 64 ∧ m < 2 ^ 16 ∧ kind < 4 ∧ stillB s.fab = true ∧
      s.fab.group < 2 ^ 32 ∧ s.fab.keys.filter (fun y => decide (y.epoch % 2 = k.epoch % 2)) = [k] ∧ ct.length = 224 ∧ good.length = 16 ∧ bad.length = 16 ∧
      (let hk := hopKey k m fibre
       gcmTag (hk.take 32) (nonce hk ctr) (flitHead ctr m kind (k.epoch % 2) s.fab.group) ct = good ∧ good ≠ bad) := by
  let k : Key := ⟨7, List.replicate 64 3, 100⟩
  let hk := hopKey k 6 0
  let good := gcmTag (hk.take 32) (nonce hk 1) (flitHead 1 6 2 (k.epoch % 2) (fabricState [] (rotorFab {} {})).fab.group) (List.replicate 224 0)
  have hg : good.length = 16 := by decide +kernel
  obtain ⟨bad, hb, hn⟩ : ∃ bad : List Byte, bad.length = 16 ∧ good ≠ bad := by
    by_cases h : good = List.replicate 16 0
    · exact ⟨List.replicate 16 1, rfl, by rw [h]; decide⟩
    · exact ⟨List.replicate 16 0, rfl, h⟩
  exact ⟨fabricState [] (rotorFab {} {}), 0, 0, 6, k, 1, 2, List.replicate 224 0, good, bad, fabric_canonical _ _, by decide, by decide, by decide, by decide +kernel,
    by decide +kernel, by decide +kernel, by decide +kernel, by decide +kernel, by decide +kernel, by decide +kernel, by decide +kernel, List.length_replicate, hg, hb, rfl, hn⟩

/-! ### A flash slot that boots -/

theorem part_at (a b c : List Byte) (n : Nat) (h : b.length = n) : part (a ++ (b ++ c)) a.length n = b := by
  rw [part, List.drop_left' rfl, List.take_left' h]

def flashStart : List Byte :=
  bytesOfNat 4 0x51465746 ++ bytesOfNat 2 1 ++ [0, 0] ++ bytesOfNat 4 255 ++ bytesOfNat 4 0 ++ bytesOfNat 8 4096 ++ List.replicate 40 0

/-- A firmware image's header with a public key and a signature; its body is 4,096 zeros. -/
def flashHeader (x y sig : List Byte) : List Byte := flashStart ++ ([4] ++ (x ++ (y ++ (zeroBytes 59 ++ (sig ++ zeroBytes 124)))))

theorem flash_filter (m : Memory) (p : Nat) (hp : 2 ^ 56 ≤ p) : Memory.byte (m.filter fun x => decide (2 ^ 56 ≤ x.1)) p = m.byte p := by
  induction m with
  | nil => rfl
  | cons x m ih =>
    by_cases hx : 2 ^ 56 ≤ x.1
    · rw [List.filter_cons_of_pos (by simpa using hx)]
      simp only [Memory.byte, Sparse.get]
      split
      · rfl
      · split
        · rfl
        · exact ih
    · rw [List.filter_cons_of_neg (by simpa using hx)]
      rw [ih]
      simp only [Memory.byte, Sparse.get, if_neg (show x.1 ≠ p by omega), if_neg (show ¬ p < x.1 by omega)]

theorem flash_bytes (m : Memory) (n p : Nat) (hp : 2 ^ 56 ≤ p) : Memory.bytes (m.filter fun x => decide (2 ^ 56 ≤ x.1)) p n = m.bytes p n := by
  induction n generalizing p with
  | zero => rfl
  | succ n ih => simp only [Memory.bytes, flash_filter m p hp, ih (p + 1) (by omega)]

theorem zero_bytes (m : Memory) (n p : Nat) (h : ∀ i, p ≤ i → m.byte i = 0) : m.bytes p n = zeroBytes n := by
  induction n generalizing p with
  | zero => rfl
  | succ n ih =>
    rw [Memory.bytes, h p (Nat.le_refl _), ih (p + 1) fun i hi => h i (by omega)]
    rfl

/-- POWER_ON finds a good image in slot A of a part into which the key's digest is fused: the digest, the fused counter and the
signature, which no model can compute for a part, are what this witness supposes. -/
theorem witness_bootImage (x y sig : List Byte) (hx : x.length = 66) (hy : y.length = 66) (hs : sig.length = 132)
    (hk : sha512 ([4] ++ (x ++ y)) = Config.keyDigest) (hr : Config.rollback ≤ 255)
    (hv : ecdsaVerify x y ((flashHeader x y sig).take 256 ++ zeroBytes 4096) sig = true) :
    ∃ (s : State) (l : List Byte), s.Canonical ∧ s.powerCycle.bootImage 0 = some l := by
  let h := flashHeader x y sig
  have h0 : flashStart.length = 64 := by decide +kernel
  have hl : h.length = 512 := by
    simp only [h, flashHeader, List.length_append, h0, hx, hy, hs, zeros_length, List.length_singleton]
  have hw : Memory.wf ([] : Memory) = true := rfl
  let m : Memory := Memory.putAll [] (2 ^ 56) h
  have wf : m.wf = true := by
    suffices ∀ (l : List Byte) (p : Nat) (m : Memory), m.wf = true → (m.putAll p l).wf = true from this _ _ _ hw
    intro l
    induction l with
    | nil => intro p m hm; exact hm
    | cons b l ih => intro p m hm; exact ih _ _ (Memory.wf_put' hm _ _)
  have r1 : m.bytes (2 ^ 56) 512 = h := by rw [← hl]; exact Memory.bytes_putAll hw _ _
  have r2 : m.bytes (2 ^ 56 + 512) 4096 = zeroBytes 4096 := by
    apply zero_bytes
    intro i hi
    rw [Memory.byte_putAll_out hw _ _ _ (.inr (by rw [hl]; exact hi))]
    rfl
  clear_value m
  refine ⟨{ State.reset with mem := m }, h ++ zeroBytes 4096, ⟨wf, rfl, rfl, rfl, rfl, rfl, rfl, rfl⟩, ?_⟩
  have start (o n : Nat) (hn : o + n ≤ 64) : part h o n = part flashStart o n := by
    simp only [part, h, flashHeader]
    rw [List.drop_append_of_le_length (by omega), List.take_append_of_le_length (by rw [List.length_drop]; omega)]
  have key : part h 64 133 = [4] ++ (x ++ y) := by
    rw [← h0]
    have := part_at flashStart ([4] ++ (x ++ y)) (zeroBytes 59 ++ (sig ++ zeroBytes 124)) 133 (by simp [hx, hy])
    simpa only [h, flashHeader, List.append_assoc] using this
  have px : part h 65 66 = x := by
    have := part_at (flashStart ++ [4]) x (y ++ (zeroBytes 59 ++ (sig ++ zeroBytes 124))) 66 hx
    rw [List.length_append, h0] at this
    simpa only [h, flashHeader, List.append_assoc, List.length_singleton] using this
  have py : part h 131 66 = y := by
    have := part_at (flashStart ++ [4] ++ x) y (zeroBytes 59 ++ (sig ++ zeroBytes 124)) 66 hy
    rw [List.length_append, List.length_append, h0, hx] at this
    simpa only [h, flashHeader, List.append_assoc, List.length_singleton] using this
  have pz : part h 197 59 = zeroBytes 59 := by
    have := part_at (flashStart ++ [4] ++ x ++ y) (zeroBytes 59) (sig ++ zeroBytes 124) 59 (zeros_length _)
    rw [List.length_append, List.length_append, List.length_append, h0, hx, hy] at this
    simpa only [h, flashHeader, List.append_assoc, List.length_singleton] using this
  have ps : part h 256 132 = sig := by
    have := part_at (flashStart ++ [4] ++ x ++ y ++ zeroBytes 59) sig (zeroBytes 124) 132 hs
    rw [List.length_append, List.length_append, List.length_append, List.length_append, h0, hx, hy, zeros_length] at this
    simpa only [h, flashHeader, List.append_assoc, List.length_singleton] using this
  have pe : part h 388 124 = zeroBytes 124 := by
    have := part_at (flashStart ++ [4] ++ x ++ y ++ zeroBytes 59 ++ sig) (zeroBytes 124) [] 124 (zeros_length _)
    rw [List.length_append, List.length_append, List.length_append, List.length_append, List.length_append, h0, hx, hy, hs, zeros_length] at this
    simpa only [h, flashHeader, List.append_assoc, List.append_nil, List.length_singleton] using this
  have p4 : leAt h 64 1 = 4 := by
    have := part_at flashStart [4] (x ++ (y ++ (zeroBytes 59 ++ (sig ++ zeroBytes 124)))) 1 rfl
    rw [h0] at this
    have e : part h 64 1 = [4] := this
    rw [leAt, e]; rfl
  have st (o n v : Nat) (hn : o + n ≤ 64) (hv : leAt flashStart o n = v) : leAt h o n = v := by rw [leAt, start o n hn]; exact hv
  have z1 : zeros (part h 6 2) = true := by rw [start 6 2 (by decide)]; decide +kernel
  have z2 : zeros (part h 24 40) = true := by rw [start 24 40 (by decide)]; decide +kernel
  have z3 : zeros (part h 197 59) = true := by rw [pz]; decide +kernel
  have z4 : zeros (part h 388 124) = true := by rw [pe]; decide +kernel
  have pm : (State.powerCycle { State.reset with mem := m }).mem = m.filter (fun x => decide (2 ^ 56 ≤ x.1)) := rfl
  have e1 : State.read (State.powerCycle { State.reset with mem := m }) (.flash 0) 0 512 = h := by
    rw [State.read, pm, show place (.flash 0) 0 = 2 ^ 56 by decide, flash_bytes _ _ _ (Nat.le_refl _), r1]
  have e2 : State.read (State.powerCycle { State.reset with mem := m }) (.flash 0) 512 4096 = zeroBytes 4096 := by
    rw [State.read, pm, show place (.flash 0) 512 = 2 ^ 56 + 512 by decide, flash_bytes _ _ _ (Nat.le_add_right _ _), r2]
  have rb : State.rollbackCount (State.powerCycle { State.reset with mem := m }) ≤ 255 := by
    show max Config.rollback 0 ≤ 255
    omega
  simp only [State.bootImage, e1, st 16 8 4096 (by decide) (by decide +kernel), e2, st 0 4 0x51465746 (by decide) (by decide +kernel),
    st 4 2 1 (by decide) (by decide +kernel), st 8 4 255 (by decide) (by decide +kernel), st 12 4 0 (by decide) (by decide +kernel), p4, z1, z2, z3, z4, key, px, py, ps,
    hk, h, hv]
  simp [Nat.not_lt.mpr rb]
end Sys2Proof.Tests
end

section
/-! Fixed-latency results: how a bundle counts them down, and when they land (R27, R28, R69). -/

namespace Sys2Proof.Machine

theorem Task.entries_of_empty {t : Task} (h : t.replay = []) : t.entries = [] := by
  simp [Task.entries, h]

/-- With an empty replay buffer only results in flight land. -/
theorem Task.landDue_sf_of_empty {t : Task} (h : t.replay = []) :
    t.landDue.sf = (t.flight.filter fun f => decide (f.rc = 0)).foldl (fun sf f => f.dst.write sf f.val) t.sf := by
  simp only [Task.landDue, Task.entries_of_empty h, List.filter_nil, List.foldl_nil]

/-- n bundles leave the slice file and an empty replay buffer as they are, and bring the one result in flight n bundles nearer. -/
theorem Task.countDown_repeat_single {t : Task} {rc : Nat} {d : Dst} {v : BitVec 512} (hr : t.replay = []) (hf : t.flight = [⟨rc, d, v⟩])
    (n : Nat) : (Nat.repeat Task.countDown n t).sf = t.sf ∧ (Nat.repeat Task.countDown n t).replay = [] ∧
      (Nat.repeat Task.countDown n t).flight = [⟨rc - n, d, v⟩] := by
  induction n with
  | zero => exact ⟨rfl, hr, hf⟩
  | succ n ih =>
    obtain ⟨hsf, hrep, hfl⟩ := ih
    refine ⟨hsf, ?_, ?_⟩
    · simp [Nat.repeat, Task.countDown, hrep]
    · simp [Nat.repeat, Task.countDown, hfl, Nat.sub_sub]

/-- Settles O7: each bundle counts the result down by one, so that it is due, and lands, before bundle L and not earlier. -/
theorem resultsLandAfterTheirLatency : Obligations.ResultsLandAfterTheirLatency := by
  intro t d v lat _ hr hf
  refine ⟨fun k hk => ?_, ?_⟩
  · obtain ⟨hsf, hrep, hfl⟩ := Task.countDown_repeat_single hr hf k
    have hrc : lat - 1 - k ≠ 0 := by omega
    simp [Task.landDue_sf_of_empty hrep, hfl, hsf, hrc]
  · obtain ⟨hsf, hrep, hfl⟩ := Task.countDown_repeat_single hr hf (lat - 1)
    constructor
    · simp [Task.landDue_sf_of_empty hrep, hfl, hsf]
    · simp [Task.landDue, hfl]

end Sys2Proof.Machine
end

section
/-! A core's turn (R23, R27): the bundle that its picker takes raises its cause, or its slots execute; and R52's choice among causes. -/

namespace Sys2Proof.Machine

/-- The state in which a core's turn takes context x: the boundaries passed, the cycle's marks made, x marked as taken. -/
def State.turnState (s : State) (c x : Nat) : State :=
  let e := s.boundaries c
  (e.marks c (e.standing c .queue)).taking c x

/-- A turn of a running core is the bundle of the context that its picker takes, and the cycle counted. -/
theorem coreTurn_of_pick {ex : Meaning} {s : State} {c x : Nat} (hr : s.coreRuns c = true)
    (hp : (s.boundaries c).pick c ((s.boundaries c).standing c .yes) = some x) {u : State}
    (hu : issueTask ex (taskAt c x) (s.turnState c x) = .next u) : coreTurn ex c s = .next (u.countCycle c) := by
  unfold State.turnState at hu
  simp only [coreTurn, hr, hp, hu, Bool.not_true, Bool.false_eq_true, if_false]

theorem step_of_core {s : State} {c : Nat} {l : List Turn} (ha : s.agenda = .core c :: l) (hc : coreExists c = true) :
    step s = coreTurn exec c { s with agenda := l } := by
  simp only [step, stepWith, ha, hc, if_true]

/-- A slot operation has no turn of its own; an event's turn is its meaning. -/
theorem step_of_event {s : State} {i : Instr} {l : List Turn} (ha : s.agenda = .run i :: l) (hi : i.isSlot = false) :
    step s = exec i { s with agenda := l } := by
  simp only [step, stepWith, ha, hi, Bool.false_eq_true, if_false]

theorem issueTask_of_good {ex : Meaning} {s : State} {tk : Nat} {b : List Instr}
    (hb : ((s.modTask tk Task.landDue).bundleAt tk).1 = .good b) : issueTask ex tk s = runBundle ex (s.issueState tk) b := by
  simp only [issueTask, hb]

theorem runBundle_of_cause {ex : Meaning} {s : State} {b : List Instr} {c : Cause × Nat} (hc : s.bundleCause b = some c) :
    runBundle ex s b = .next (s.precise c.1 c.2) := by
  simp only [runBundle, hc]

theorem runBundle_of_none {ex : Meaning} {s u : State} {b : List Instr} (hc : s.bundleCause b = none)
    (hu : runSlots ex (slotOrder b) (s.issued b) = .next u) : runBundle ex s b = .next u.finish := by
  simp only [runBundle, hc, hu, finishOutcome]

/-! ## The choice among causes (R51, R52) -/

/-- No slot's cause means that none is chosen. -/
theorem firstCause_eq_none {l : List (Option (Cause × Nat))} (h : firstCause l = none) (d : Cause × Nat) : some d ∉ l := by
  induction l with
  | nil => exact List.not_mem_nil
  | cons o l ih =>
    cases o with
    | none => simpa using ih h
    | some b =>
      simp only [firstCause] at h
      split at h
      · split at h <;> cases h
      · cases h

/-- Cause c stands at place n of a list, ranks least in it, and is the earliest of its rank (R52). -/
def ChosenAt (l : List (Option (Cause × Nat))) (c : Cause × Nat) (n : Nat) : Prop :=
  l[n]? = some (some c) ∧ (∀ d, some d ∈ l → causeRank c.1 ≤ causeRank d.1) ∧
    ∀ m d, m < n → l[m]? = some (some d) → causeRank c.1 < causeRank d.1

/-- The choice among later slots stands when the slot before them raises nothing, or a cause that ranks behind it. -/
theorem ChosenAt.later {l : List (Option (Cause × Nat))} {c : Cause × Nat} {n : Nat} (h : ChosenAt l c n) {o : Option (Cause × Nat)}
    (ho : ∀ b, o = some b → causeRank c.1 < causeRank b.1) : ChosenAt (o :: l) c (n + 1) := by
  obtain ⟨hn, hmin, hlt⟩ := h
  refine ⟨hn, fun d hd => ?_, fun m d hm hd => ?_⟩
  · rcases List.mem_cons.1 hd with hd | hd
    · exact Nat.le_of_lt (ho d hd.symm)
    · exact hmin d hd
  · cases m with
    | zero => exact ho d (Option.some.inj hd)
    | succ m => exact hlt m d (by omega) hd

/-- The first slot's cause is the choice when none of a later slot ranks before it. -/
theorem ChosenAt.first {l : List (Option (Cause × Nat))} {b : Cause × Nat} (h : ∀ d, some d ∈ l → causeRank b.1 ≤ causeRank d.1) :
    ChosenAt (some b :: l) b 0 := by
  refine ⟨rfl, fun d hd => ?_, fun m _ hm => absurd hm (Nat.not_lt_zero m)⟩
  rcases List.mem_cons.1 hd with hd | hd
  · exact Nat.le_of_eq (by rw [Option.some.inj hd])
  · exact h d hd

theorem firstCause_chosenAt {l : List (Option (Cause × Nat))} {c : Cause × Nat} (h : firstCause l = some c) : ∃ n, ChosenAt l c n := by
  induction l generalizing c with
  | nil => cases h
  | cons o l ih =>
    cases o with
    | none =>
      obtain ⟨n, hn⟩ := ih h
      exact ⟨n + 1, hn.later (by intro b hb; cases hb)⟩
    | some b =>
      simp only [firstCause] at h
      split at h
      · next d hl =>
        obtain ⟨n, hn⟩ := ih hl
        split at h <;> cases h
        · next hr => exact ⟨n + 1, hn.later (by intro b' hb; cases hb; exact hr)⟩
        · next hr => exact ⟨0, ChosenAt.first fun e he => Nat.le_trans (Nat.not_lt.1 hr) (hn.2.1 e he)⟩
      · next hl =>
        cases h
        exact ⟨0, ChosenAt.first fun d hd => absurd hd (firstCause_eq_none hl d)⟩

/-- What firstCause chooses is one of the causes. -/
theorem firstCause_mem {l : List (Option (Cause × Nat))} {c : Cause × Nat} (h : firstCause l = some c) : some c ∈ l := by
  obtain ⟨n, hn, -⟩ := firstCause_chosenAt h
  exact List.mem_of_getElem? hn

/-- PRIV, which decoding finds, is a bundle's cause where a slot raises it; else R52's choice is (R51). -/
theorem State.bundleCause_chosen {s : State} {b : List Instr} {c : Cause × Nat} (h : s.bundleCause b = some c) :
    some c ∈ slotCauses s 0 0 b ∧ ((∃ n, some (Cause.priv, n) ∈ slotCauses s 0 0 b) → c.1 = .priv) ∧
      ((∀ n, some (Cause.priv, n) ∉ slotCauses s 0 0 b) → firstCause (slotCauses s 0 0 b) = some c) := by
  simp only [State.bundleCause] at h
  split at h
  · next d hd =>
    subst h
    have hp : c.1 = .priv := by simpa using List.find?_some hd
    have hm := List.mem_of_find?_eq_some hd
    refine ⟨hm, fun _ => hp, fun hno => absurd hm ?_⟩
    obtain ⟨_, n⟩ := c
    cases hp
    exact hno n
  · next hd =>
    refine ⟨firstCause_mem h, fun ⟨n, hn⟩ => ?_, fun _ => h⟩
    have := List.find?_eq_none.1 hd _ hn
    simp at this

/-- Settles O38: the turn of a context whose bundle raises a cause is that fault taken, and the cause is R51's and R52's choice. -/
theorem faultingBundlesHaveNoEffect : Obligations.FaultingBundlesHaveNoEffect := by
  refine ⟨?_, fun s b c => State.bundleCause_chosen, fun l c h => ?_⟩
  · intro s c x l b cause ha hc a e hr hp f hb g hcause
    rw [step_of_core ha hc]
    exact coreTurn_of_pick hr hp ((issueTask_of_good hb).trans (runBundle_of_cause hcause))
  · obtain ⟨n, hn, hmin, hlt⟩ := firstCause_chosenAt h
    exact ⟨firstCause_mem h, hmin, n, hn, hlt⟩

/-! ## The order of a bundle's slots (R36, R201, R224) -/

/-- Slot y is no DCDEC of a counter that slot z sets with DCSET (R224: the DCSET comes first). -/
def DecBehindSet (y z : Nat × Instr) : Prop := ∀ lc lc' dc p, y.2 = .dcdec lc dc → z.2 ≠ .dcset lc' p dc

/-- A slot z of bundle b stands behind one stored after it only as a DCDEC behind a later DCSET of its counter. -/
def LateOnlyAsDec (b : List Instr) (y z : Nat × Instr) : Prop :=
  z.1 < y.1 → ∃ lc lc' dc p n, z.2 = .dcdec lc dc ∧ z.1 < n ∧ b[n]? = some (.dcset lc' p dc)

theorem setsCounter_iff {dc : Nat} {i : Instr} : setsCounter dc i = true ↔ ∃ lc p, i = .dcset lc p dc := by
  cases i <;> simp [setsCounter, eq_comm]

theorem isWaitc_of_setsCounter {dc : Nat} {i : Instr} (h : setsCounter dc i = true) : isWaitc i = false := by
  obtain ⟨lc, p, rfl⟩ := setsCounter_iff.1 h
  rfl

theorem putDec_perm (x : Nat × Instr) (dc : Nat) (l : List (Nat × Instr)) : (putDec x dc l).Perm (x :: l) := by
  induction l with
  | nil => exact List.Perm.refl _
  | cons y r ih =>
    unfold putDec
    split
    · exact (ih.cons y).trans (List.Perm.swap x y r)
    · exact List.Perm.refl _

theorem decsLast_perm (l : List (Nat × Instr)) : (decsLast l).Perm l := by
  induction l with
  | nil => exact List.Perm.refl _
  | cons x l ih =>
    unfold decsLast
    split
    · exact (putDec_perm x _ _).trans (ih.cons x)
    · exact ih.cons x

/-- A relation that holds along a list holds after a DCDEC is put in: it need hold of the DCDEC and what is no DCSET behind it, and of what
stands before it while a DCSET of its counter is still to come. -/
theorem putDec_pairwise {R : Nat × Instr → Nat × Instr → Prop} {x : Nat × Instr} {dc : Nat} {l : List (Nat × Instr)} (hl : l.Pairwise R)
    (hbefore : (∃ z ∈ l, setsCounter dc z.2 = true) → ∀ y ∈ l, R y x) (hbehind : ∀ y ∈ l, setsCounter dc y.2 = false → R x y) :
    (putDec x dc l).Pairwise R := by
  induction l with
  | nil => exact List.pairwise_singleton R x
  | cons y r ih =>
    obtain ⟨hy, hr⟩ := List.pairwise_cons.1 hl
    unfold putDec
    split
    · next hany =>
      obtain ⟨z, hz, hs⟩ := List.any_eq_true.1 hany
      have hb := hbefore ⟨z, hz, hs⟩
      refine List.pairwise_cons.2 ⟨fun w hw => ?_, ih hr (fun _ w hw => hb w (List.mem_cons_of_mem _ hw)) fun w hw => hbehind w (List.mem_cons_of_mem _ hw)⟩
      rcases List.mem_cons.1 ((putDec_perm x dc r).mem_iff.1 hw) with rfl | hw
      · exact hb y List.mem_cons_self
      · exact hy w hw
    · next hany =>
      refine List.pairwise_cons.2 ⟨fun w hw => hbehind w hw ?_, hl⟩
      exact Bool.eq_false_iff.2 fun hs => hany (List.any_eq_true.2 ⟨w, hw, hs⟩)

/-- Putting DCDECs behind the DCSETs of their counters does that, and moves nothing else back. -/
theorem decsLast_pairwise {b : List Instr} {l : List (Nat × Instr)} (hs : l.Pairwise fun y z => y.1 < z.1) (hb : ∀ x ∈ l, b[x.1]? = some x.2) :
    (decsLast l).Pairwise fun y z => DecBehindSet y z ∧ LateOnlyAsDec b y z := by
  induction l with
  | nil => exact List.Pairwise.nil
  | cons x l ih =>
    obtain ⟨hx, hl⟩ := List.pairwise_cons.1 hs
    have hlater : ∀ y ∈ decsLast l, x.1 < y.1 := fun y hy => hx y ((decsLast_perm l).mem_iff.1 hy)
    have hfar : ∀ y ∈ decsLast l, LateOnlyAsDec b x y := fun y hy h => absurd h (Nat.lt_asymm (hlater y hy))
    have ih := ih hl fun y hy => hb y (List.mem_cons_of_mem _ hy)
    unfold decsLast
    split
    · next lc dc hdec =>
      refine putDec_pairwise ih (fun ⟨z, hz, hset⟩ y _ => ⟨?_, fun _ => ?_⟩) fun y hy hno => ⟨?_, hfar y hy⟩
      · intro _ _ _ _ _ h
        rw [hdec] at h
        cases h
      · obtain ⟨lc', p, hset⟩ := setsCounter_iff.1 hset
        exact ⟨lc, lc', dc, p, z.1, hdec, hlater z hz, hset ▸ hb z (List.mem_cons_of_mem _ ((decsLast_perm l).mem_iff.1 hz))⟩
      · intro lc1 lc2 dc' p h1 h2
        rw [hdec] at h1
        cases h1
        rw [setsCounter_iff.2 ⟨lc2, p, h2⟩] at hno
        cases hno
    · next hno =>
      exact List.pairwise_cons.2 ⟨fun y hy => ⟨fun lc _ dc _ h => absurd h (hno lc dc), hfar y hy⟩, ih⟩

/-- The slots of a bundle with their numbers, as they are stored. -/
def slotsAsStored (b : List Instr) : List (Nat × Instr) := b.zipIdx.map fun y => (y.2, y.1)

theorem slotsAsStored_sorted (b : List Instr) : (slotsAsStored b).Pairwise fun y z => y.1 < z.1 := by
  rw [slotsAsStored, List.pairwise_map]
  exact (List.pairwise_map (f := Prod.snd) (R := (· < ·))).1 (by simpa [List.zipIdx_map_snd] using List.pairwise_lt_range')

theorem getElem?_of_mem_slotsAsStored {b : List Instr} {x : Nat × Instr} (h : x ∈ slotsAsStored b) : b[x.1]? = some x.2 := by
  obtain ⟨y, hy, rfl⟩ := List.mem_map.1 h
  exact List.mem_zipIdx_iff_getElem?.1 hy

theorem slotOrder_perm (b : List Instr) : (slotOrder b).Perm (slotsAsStored b) := by
  have h := List.filter_append_perm (fun x : Nat × Instr => !isWaitc x.2) (decsLast (slotsAsStored b))
  simp only [Bool.not_not] at h
  exact h.trans (decsLast_perm _)

/-- A relation of what stands in order in a bundle's list holds along its slots as they execute, if it holds of a slot and a WAITC. -/
theorem slotOrder_pairwise {b : List Instr} {R : Nat × Instr → Nat × Instr → Prop}
    (hsame : (decsLast (slotsAsStored b)).Pairwise fun y z => isWaitc y.2 = isWaitc z.2 → R y z)
    (hlast : ∀ y z, isWaitc y.2 = false → isWaitc z.2 = true → R y z) : (slotOrder b).Pairwise R := by
  refine List.pairwise_append.2 ⟨?_, ?_, fun y hy z hz => ?_⟩
  · refine (List.Pairwise.filter _ hsame).imp_of_mem ?_
    intro y z hy hz h
    apply h
    simp only [List.mem_filter, Bool.not_eq_true'] at hy hz
    rw [hy.2, hz.2]
  · refine (List.Pairwise.filter _ hsame).imp_of_mem ?_
    intro y z hy hz h
    apply h
    simp only [List.mem_filter] at hy hz
    rw [hy.2, hz.2]
  · simp only [List.mem_filter, Bool.not_eq_true'] at hy hz
    exact hlast y z hy.2 hz.2

/-- Settles O3: an event's turn is its meaning, a core's turn is its bundle's slots in slotOrder and what follows them; and slotOrder moves
only DCDECs and WAITCs back. -/
theorem stepTakesItsTurn : Obligations.StepTakesItsTurn := by
  refine ⟨fun s i l => step_of_event, ?_⟩
  intro s c x l b u ha hc a e hr hp f hb g hcause hu
  refine ⟨?_, slotOrder_perm b, slotOrder_pairwise ?_ fun y z hy hz => ⟨?_, ?_, ?_⟩⟩
  · rw [step_of_core ha hc]
    exact coreTurn_of_pick hr hp ((issueTask_of_good hb).trans (runBundle_of_none hcause hu))
  · refine (decsLast_pairwise (slotsAsStored_sorted b) fun x => getElem?_of_mem_slotsAsStored).imp fun ⟨hset, hlate⟩ hw => ⟨?_, hset, ?_⟩
    · exact fun h => hw ▸ h
    · exact fun h _ => Or.inr (hlate h)
  · exact fun _ => hz
  · intro lc lc' dc p h1 h2
    rw [h2] at hz
    cases hz
  · exact fun _ _ => Or.inl hz

end Sys2Proof.Machine
end

section
/-! What every slot operation does first (R50, R51, R138): its cause in place of its effect, and nothing when it does not act. -/

namespace Sys2Proof.Machine

/-- The predicate under which a slot acts: SEL's gate selects its operand instead (R138). -/
def actPred : Instr → Pred
  | .sel _ => Pred.always
  | i => slotPred i

/-- A slot without a cause of its own is one that may raise none. -/
theorem exists_slotOr_of_slot {o : Host.Outcome State Fault Refusal} {s : State} {act : Bool} (h : ∃ f, o = slot s act f) :
    ∃ f, o = slotOr s act none f := h

/-- With the supervisor view a supervisor-only form is a slot as any. -/
theorem slotPriv_supervisor {s : State} (h : s.supervisor = true) (act : Bool) (cause : Option (Cause × Nat)) (f : State → State) :
    slotPriv s act cause f = slotOr s act cause f := by
  simp only [slotPriv, h, if_true]

theorem slotPriv_unprivileged {s : State} (h : s.supervisor = false) (act : Bool) (cause : Option (Cause × Nat)) (f : State → State) :
    slotPriv s act cause f = .next (s.precise .priv (s.issue.word * 2 ^ 32 + s.issue.slot)) := by
  simp only [slotPriv, h, Bool.false_eq_true, if_false]

/-- A BKPT that an ERET has skipped raises nothing and has no effect: it is as one that does not act. -/
theorem execBkpt_eq_slotOr (c : Ctl) (code : Nat) (s : State) :
    execBkpt c code s = slotOr s (s.acts c.lc c.p) (when_ (!s.issue.skip) .bkpt code) id := by
  unfold execBkpt slotOr when_
  cases s.issue.skip <;> cases s.acts c.lc c.p <;> rfl

theorem aluP_slotOr (s : State) (o : OpP) (lat : Nat) (g : Int → Int → Int) : ∃ f, aluP s o lat g = slotOr s (s.acts o.lc o.p) none f :=
  exists_slotOr_of_slot ⟨_, rfl⟩

theorem aluU_slotOr (s : State) (o : OpP) (lat : Nat) (g : Nat → Nat → Int) : ∃ f, aluU s o lat g = slotOr s (s.acts o.lc o.p) none f :=
  exists_slotOr_of_slot ⟨_, rfl⟩

theorem aluW_slotOr (s : State) (o : OpW) (lat : Nat) (g : Nat → Nat → Int) : ∃ f, aluW s o lat g = slotOr s (s.acts o.lc o.p) none f :=
  exists_slotOr_of_slot ⟨_, rfl⟩

theorem minMax_slotOr (s : State) (o : OpP) (g : Int → Int → Int) : ∃ f, minMax s o g = slotOr s (s.acts o.lc o.p) none f :=
  exists_slotOr_of_slot ⟨_, rfl⟩

theorem fpOp_slotOr (s : State) (o : OpP) (g : State → FVal) : ∃ f, fpOp s o g = slotOr s (s.acts o.lc o.p) none f :=
  exists_slotOr_of_slot ⟨_, rfl⟩

theorem stream_slotOr (op : Nat) (o : OpStr) (s : State) :
    ∃ f, stream op o s = slotOr s (s.acts o.lc Pred.always) (strCause op o s) f := ⟨_, rfl⟩

theorem atomic_slotOr (op : Nat) (o : OpAt) (s : State) :
    ∃ f, atomic op o s = slotOr s (s.acts o.lc Pred.always) (atomicCause o s) f := ⟨_, rfl⟩

/-- Every slot operation that its task may issue raises its own cause, or has an effect, when it acts, and does nothing otherwise. -/
theorem exec_slotOr {i : Instr} (hi : i.isSlot = true) {s : State} (hp : isSupervisor i = true → s.supervisor = true) :
    ∃ f, exec i s = slotOr s (s.acts (slotLoop i) (actPred i)) (ownCause i s) f := by
  cases i
  case bkpt c code => exact ⟨id, execBkpt_eq_slotOr c code s⟩
  case eret | hold | ipage | tinv =>
    unfold exec
    exact ⟨_, slotPriv_supervisor (hp rfl) _ _ _⟩
  case mfs c d r =>
    change ∃ f, execMfs c d r s = slotOr s (s.acts c.lc c.p) none f
    unfold execMfs
    by_cases hr : sysregSupervisor r = true
    · rw [if_pos hr]
      exact ⟨_, slotPriv_supervisor (hp hr) _ _ _⟩
    · rw [if_neg hr]
      exact exists_slotOr_of_slot ⟨_, rfl⟩
  case mts c r sl =>
    change ∃ f, execMts c r sl s = slotOr s (s.acts c.lc c.p) (if sysregSupervisor r then none else mtsCause r sl s) f
    unfold execMts
    by_cases hr : sysregSupervisor r = true
    · rw [if_pos hr, if_pos hr]
      exact ⟨_, slotPriv_supervisor (hp hr) _ _ _⟩
    · rw [if_neg hr, if_neg hr]
      exact ⟨_, rfl⟩
  case sld | sst | scp | sga | ssc | srec | smc | sfil =>
    unfold exec
    exact stream_slotOr _ _ _
  case aadd | amin | amax | aminu | amaxu | aand | aor | axor | aswp | acas | ald | ast =>
    unfold exec
    exact atomic_slotOr _ _ _
  case ld | st | ldl | stu | spill | fill | scfg | sbar | msend | sig | sigm | draw | fput | resv | publ | rtake | mpost | mprobe
      | hld | hst | loop | loopi | waitf | trap =>
    unfold exec
    exact ⟨_, rfl⟩
  case add | sub | mulh | adds | subs | neg | abs | logAnd | logOr | logXor | andn | logNot =>
    unfold exec
    exact aluP_slotOr _ _ _ _
  case mulhu | addsu | subsu | rol | ror | brev =>
    unfold exec
    exact aluU_slotOr _ _ _ _
  case clz | ctz | popc | bfx | pack =>
    unfold exec
    exact aluW_slotOr _ _ _ _
  case minS | maxS =>
    unfold exec
    exact minMax_slotOr _ _ _
  case fadd | fsub | fmul | fma | fmin | fmax | frcp | frsq =>
    unfold exec
    exact fpOp_slotOr _ _ _
  all_goals cases hi
  all_goals
    unfold exec
    exact exists_slotOr_of_slot ⟨_, rfl⟩

/-- A supervisor-only form in an unprivileged task raises PRIV, whatever its predicate (R104). -/
theorem exec_unprivileged {i : Instr} (hi : isSupervisor i = true) {s : State} (hs : s.supervisor = false) :
    exec i s = .next (s.precise .priv (s.issue.word * 2 ^ 32 + s.issue.slot)) := by
  cases i
  case eret | hold | ipage | tinv =>
    unfold exec
    exact slotPriv_unprivileged hs _ _ _
  case mfs c d r =>
    unfold exec
    exact (if_pos hi).trans (slotPriv_unprivileged hs _ _ _)
  case mts c r sl =>
    unfold exec
    exact (if_pos hi).trans (slotPriv_unprivileged hs _ _ _)
  all_goals cases hi

theorem slotCause_of_supervisor {i : Instr} {s : State} (hp : isSupervisor i = true → s.supervisor = true) :
    slotCause i s = if s.acts (slotLoop i) (slotPred i) then ownCause i s else none := by
  have h : ¬ (isSupervisor i && !s.supervisor) = true := by simpa using hp
  rw [slotCause, if_neg h]

theorem slotCause_of_unprivileged {i : Instr} {s : State} (hi : isSupervisor i = true) (hs : s.supervisor = false) :
    slotCause i s = some (.priv, s.issue.word * 2 ^ 32 + s.issue.slot) := by
  simp [slotCause, hi, hs]

/-- SEL alone has a predicate field that is none; it raises nothing. -/
theorem actPred_of_ownCause {i : Instr} {s : State} {c : Cause × Nat} (h : ownCause i s = some c) : actPred i = slotPred i := by
  cases i
  case sel => cases h
  all_goals rfl

theorem actPred_of_not_sel {i : Instr} (h : ∀ o, i ≠ .sel o) : actPred i = slotPred i := by
  cases i
  case sel o => exact absurd rfl (h o)
  all_goals rfl

/-- Settles O37: a slot operation is its cause or its effect when it acts, and a supervisor-only form in an unprivileged task is PRIV. -/
theorem causesAndIdleSlots : Obligations.CausesAndIdleSlots := by
  intro i s hi
  by_cases hp : isSupervisor i = true → s.supervisor = true
  · obtain ⟨f, he⟩ := exec_slotOr hi hp
    rw [slotCause_of_supervisor hp, he]
    refine ⟨fun c hc => ?_, fun _ ha hs => ?_, ?_, fun h hs => absurd (hp h) (by simp [hs])⟩
    · obtain ⟨ha, hc⟩ : s.acts (slotLoop i) (slotPred i) = true ∧ ownCause i s = some c := by simpa using hc
      rw [actPred_of_ownCause hc, ha, hc, slotOr_some]
    · rw [actPred_of_not_sel hs, ha, slotOr_false]
    · rintro o rfl ha
      rw [show s.acts (slotLoop (.sel o)) (actPred (.sel o)) = false from ha, slotOr_false]
  · obtain ⟨hsup, hs⟩ : isSupervisor i = true ∧ s.supervisor = false := by simpa using hp
    have he := exec_unprivileged hsup hs
    rw [slotCause_of_unprivileged hsup hs]
    refine ⟨fun c hc => ?_, nofun, ?_, fun _ _ => ⟨_, he⟩⟩
    · cases hc
      exact he
    · rintro o rfl
      cases hsup

end Sys2Proof.Machine
end

section
/-! A fault at a program counter with bits below the word: the model ignores them (R105), the statement keeps them. -/

namespace Sys2Proof.Machine

/-- Task 8 of a LIVE field runs at program counter 1, that is at word 0 (R105), and the page there is not loaded. -/
def unalignedTask : State :=
  { State.reset with
    tasks := [(8, { st := .runnable, pc := 1 })]
    tiles := [(1, { fld := some 0, ver := 1 })]
    fields := [(0, { st := .live, w := 2, h := 1, ver := 1 })] }

theorem unalignedTask_canonical : unalignedTask.Canonical := Tests.canonical_of (by decide +kernel)

theorem unalignedTask_mayTake : unalignedTask.mayTake 8 = true := by decide +kernel

theorem unalignedTask_fetchCause : unalignedTask.fetchCause 8 = some (.ifetchMiss, 0) := by decide +kernel

/-- The program counter of a task, once an instruction has answered a state. -/
def pcAfter (o : Host.Outcome State Fault Refusal) (tk : Nat) : Nat :=
  match o with
  | .next t => (t.task tk).pc
  | _ => 1

theorem unalignedTask_pcAfter : pcAfter (exec (.ifetchMiss 8) unalignedTask) 8 = 0 := by decide +kernel

/-- Refutes O42: IFETCH_MISS of a task at program counter 1 holds it at 0, the address of its bundle (R105), where the statement keeps 1. -/
theorem not_faultsOfTasksAreTaken : ¬ Obligations.FaultsOfTasksAreTaken := by
  intro h
  obtain ⟨hfetch, -, -⟩ := h unalignedTask 8 unalignedTask_canonical (by decide)
  obtain ⟨t, he, -, -, -, -, -, -, -, ht, -⟩ := hfetch .ifetchMiss 0 unalignedTask_mayTake unalignedTask_fetchCause
  have hpc : (t.task 8).pc = 1 := by
    rw [ht]
    rfl
  have hzero := unalignedTask_pcAfter
  rw [if_pos rfl] at he
  rw [he] at hzero
  exact absurd (hpc.symm.trans hzero) (by decide)

end Sys2Proof.Machine
end

section
/-! A precise fault of the issuing task: what it leaves of the task and where its record goes (R50, R367, R368). -/

namespace Sys2Proof.Machine

/-- The record of a task's fault in state s, taken at address `addr` (R368). -/
def State.taskFRec (s : State) (tk : Nat) (c : Cause) (addr info : Nat) : FRec :=
  ⟨1, c, dieOf (coreOf tk), s.fieldNum (coreOf tk), s.verOf (coreOf tk), tileOf (coreOf tk), ctxOf tk, addr, 255, 255, info, 0, 0, s.cycle⟩

/-- A record of a kind other than a watch record is never dropped. -/
theorem State.pushRec_of_kind {s : State} {r : FRec} (h : r.kind ≠ 5) :
    s.pushRec r = s.modDie r.die fun d => { d with recs := d.recs ++ [r] } := by
  simp [State.pushRec, h]

/-- A field task's fault sends its record toward the die's ring. -/
theorem State.taskRec_field {s : State} {tk : Nat} (h : isMgmt (coreOf tk) = false) (c : Cause) (addr info : Nat) :
    s.taskRec tk c addr info = { s with fresh := s.fresh + 1 }.modDie (dieOf (coreOf tk)) fun d =>
      { d with recs := d.recs ++ [s.taskFRec tk c addr info] } := by
  simp only [State.taskRec, h, Bool.false_eq_true, if_false]
  exact State.pushRec_of_kind (r := s.taskFRec tk c addr info) (by simp [State.taskFRec])

/-- A management task's fault halts its core and the module. -/
theorem State.taskRec_mgmt {s : State} {tk : Nat} (h : isMgmt (coreOf tk) = true) (c : Cause) (addr info : Nat) :
    s.taskRec tk c addr info = { s with pkg := { s.pkg with fwstate := 2 } }.modDie (dieOf (coreOf tk)) fun d => { d with halted := true } := by
  simp only [State.taskRec, h, if_true]

/-- A task as a precise fault leaves it, to resume at pc. -/
def Task.faultedAt (k : Task) (c : Cause) (pc : Nat) : Task :=
  { k.capture with st := .held, rem := .runnable, kind := .none, pc := pc, atBkpt := decide (c = .bkpt) }

/-- Where a precise fault's task resumes: at its own bundle, of TRAP at the next. -/
def Issue.resumeAt (i : Issue) (c : Cause) : Nat := if c = .trap then i.next else i.addr

theorem State.precise_eq (s : State) (c : Cause) (info : Nat) :
    s.precise c info = (s.modTask s.me fun k => k.faultedAt c (s.issue.resumeAt c)).taskRec s.me c s.issue.addr info := rfl

/-- A fault's record leaves the tasks as they are. -/
theorem State.taskRec_task (s : State) (tk : Nat) (c : Cause) (addr info j : Nat) : (s.taskRec tk c addr info).task j = s.task j := by
  cases h : isMgmt (coreOf tk)
  · rw [State.taskRec_field h]
    rfl
  · rw [State.taskRec_mgmt h]
    rfl

/-- A fault's record changes no die but the task's own. -/
theorem State.taskRec_die_ne {s : State} (hd : Sparse.wf ({} : Die) s.dies = true) {tk j : Nat} (hj : j ≠ dieOf (coreOf tk)) (c : Cause)
    (addr info : Nat) : (s.taskRec tk c addr info).die j = s.die j := by
  cases h : isMgmt (coreOf tk)
  · rw [State.taskRec_field h]
    exact State.die_modDie_ne (by exact hd) hj _
  · rw [State.taskRec_mgmt h]
    exact State.die_modDie_ne (by exact hd) hj _

theorem exec_trap_of_acts {s : State} {x : Ctl} (h : s.acts x.lc x.p = true) (code : Nat) :
    exec (.trap x code) s = .next (s.precise .trap code) := by
  change slotOr s (s.acts x.lc x.p) (some (.trap, code)) (fun s => s) = _
  rw [h, slotOr_some]

theorem exec_bkpt_of_acts {s : State} {x : Ctl} (h : s.acts x.lc x.p = true) (hskip : s.issue.skip = false) (code : Nat) :
    exec (.bkpt x code) s = .next (s.precise .bkpt code) := by
  change slotOr s (s.acts x.lc x.p && !s.issue.skip) (some (.bkpt, code)) (fun s => s) = _
  rw [h, hskip]
  exact slotOr_some ..

theorem exec_bkpt_of_skip {s : State} {x : Ctl} (hskip : s.issue.skip = true) (code : Nat) : exec (.bkpt x code) s = .next s := by
  change slotOr s (s.acts x.lc x.p && !s.issue.skip) (some (.bkpt, code)) (fun s => s) = _
  rw [hskip, Bool.not_true, Bool.and_false, slotOr_false]

/-- Settles O35: the cause of TRAP and BKPT is a precise fault; a BKPT that was skipped does not act. -/
theorem trapsHoldTheTask : Obligations.TrapsHoldTheTask := by
  intro s x code hs ha
  obtain ⟨-, htasks, -, -, -, -, -, hdies⟩ := hs
  intro c k d rec_ held
  have hheld (cause : Cause) : held (s.precise cause code) cause (s.issue.resumeAt cause) := by
    rw [State.precise_eq]
    refine ⟨fun j hj => ?_, fun j hj => State.taskRec_die_ne (by exact hdies) hj .., ?_, fun hm => ?_, fun hm => ?_⟩
    · rw [State.taskRec_task, State.task_modTask_ne htasks hj]
    · rw [State.taskRec_task, State.task_modTask_self htasks]
      rfl
    · rw [State.taskRec_field (tk := s.me) hm]
      exact ⟨rfl, State.die_modDie_self (by exact hdies) _ _⟩
    · rw [State.taskRec_mgmt (tk := s.me) hm]
      exact ⟨rfl, State.die_modDie_self (by exact hdies) _ _⟩
  exact ⟨⟨_, exec_trap_of_acts ha code, hheld .trap⟩, fun hskip => ⟨_, exec_bkpt_of_acts ha hskip code, hheld .bkpt⟩,
    fun hskip => exec_bkpt_of_skip hskip code⟩

end Sys2Proof.Machine
end

section
/-! Counters: what a decrement leaves, and whom it wakes (R34, R35, R224). -/

namespace Sys2Proof.Machine

theorem bitB_eq_testBit (w i : Nat) : bitB w i = w.testBit i := by
  rw [bitB, Nat.testBit_eq_decide_div_mod_eq]

/-- A core's registers with one counter written. -/
def Tile.putCounter (u : Tile) (dc : Nat) (k : Counter) : Tile := { u with counters := Sparse.set {} u.counters dc k }

theorem State.decCounter_of_zero {s : State} {c dc : Nat} (h : ((s.tile c).counter dc).val = 0) :
    s.decCounter c dc = s.modTile c fun t => t.putCounter dc { (s.tile c).counter dc with uf := true } := by
  simp only [State.decCounter, h, if_true]
  rfl

theorem State.decCounter_of_unbound {s : State} {c dc : Nat} (h : ((s.tile c).counter dc).val ≠ 0)
    (hb : ((s.tile c).counter dc).val ≠ 1 ∨ ((s.tile c).counter dc).bound = none) :
    s.decCounter c dc = s.modTile c fun t => t.putCounter dc { (s.tile c).counter dc with val := ((s.tile c).counter dc).val - 1 } := by
  simp only [State.decCounter, h, if_false]
  rcases hb with hb | hb
  · rw [if_neg hb]
    rfl
  · rw [hb, ite_self]
    rfl

theorem State.decCounter_of_bound {s : State} {c dc x : Nat} (h : ((s.tile c).counter dc).val = 1)
    (hb : ((s.tile c).counter dc).bound = some x) :
    s.decCounter c dc = (s.modTile c fun t => t.putCounter dc { (s.tile c).counter dc with val := 0 }).modTask (taskAt c x)
      fun t => t.counterWake dc := by
  have h0 : ((s.tile c).counter dc).val ≠ 0 := by rw [h]; decide
  simp only [State.decCounter, h0, if_false, hb]
  rw [if_pos h, h]
  rfl

/-- A task waits in one parking kind only. -/
theorem Task.waits_of_ne {t : Task} {a b : ParkKind} (hab : a ≠ b) (h : t.waits a = true) : t.waits b = false := by
  obtain ⟨hk, -⟩ : t.kind = a ∧ _ := by simpa [Task.waits] using h
  simp [Task.waits, hk, hab]

theorem Task.counterWake_of_waitc {k : Task} {dc : Nat} (h : k.waits .waitc = true) (hd : k.waitDc = dc) : k.counterWake dc = k.wake k.pc := by
  simp [Task.counterWake, h, hd]

theorem Task.counterWake_of_endK {k : Task} (h : k.waits .endK = true) (dc : Nat) : k.counterWake dc = k.wake k.entry := by
  simp [Task.counterWake, h, Task.waits_of_ne (b := .waitc) (by decide) h]

theorem Task.counterWake_of_idle {k : Task} {dc : Nat} (he : k.waits .endK = false) (hw : k.waits .waitc = false ∨ k.waitDc ≠ dc) :
    k.counterWake dc = if k.st = .free ∨ k.st = .faulted then k else { k with latch := true } := by
  have hw : (k.waits .waitc && decide (k.waitDc = dc)) = false := by
    rcases hw with hw | hw <;> simp [hw]
  simp [Task.counterWake, he, hw]

theorem exec_dcset {s : State} {lc : LoopCond} (ha : s.acts lc Pred.always = true) (sl dc : Nat) :
    exec (.dcset lc sl dc) s = .next (s.modTile s.myCore fun t => t.putCounter dc
      ⟨BitVec.ofNat 16 (s.rd sl 32), if bitB (s.rd sl 32) 19 then some (bits (s.rd sl 32) 16 3) else none,
        (t.counter dc).uf && !bitB (s.rd sl 32) 20⟩) := by
  change execDcset lc sl dc s = _
  rw [execDcset, ha, slot_true]
  rfl

theorem exec_dcdec_of_busy {s : State} {lc : LoopCond} (ha : s.acts lc Pred.always = true) {b : Access} {l : List Access}
    (hp : (s.task s.me).port = b :: l) (dc : Nat) :
    exec (.dcdec lc dc) s = .next (s.modTask s.me fun t => { t with port := t.port ++ [⟨.dec dc, 0, none, []⟩] }) := by
  change execDcdec lc dc s = _
  rw [execDcdec, ha, slot_true, hp]
  rfl

theorem exec_dcdec_of_free {s : State} {lc : LoopCond} (ha : s.acts lc Pred.always = true) (hp : (s.task s.me).port = []) (dc : Nat) :
    exec (.dcdec lc dc) s = .next (s.decCounter s.myCore dc) := by
  change execDcdec lc dc s = _
  rw [execDcdec, ha, slot_true, hp]
  rfl

/-- Settles O23: DCSET writes one counter; DCDEC is decCounter, by its three cases, where the port is empty. -/
theorem countersAreSetAndDecremented : Obligations.CountersAreSetAndDecremented := by
  intro s lc dc hs ha c put
  have hwf := hs.2.1
  have htile := hs.2.2.1
  refine ⟨fun sl => ⟨_, exec_dcset ha sl dc, State.modTile_onlyTile hs _ _, ?_⟩,
    fun b l hp => ⟨_, exec_dcdec_of_busy ha hp dc, State.modTask_onlyTask hs _ _, ?_⟩, fun hp h0 => ?_, fun hp h0 hb => ?_,
    fun x hp h1 hb => ?_⟩
  · rw [State.tile_modTile_self htile]
    simp only [bitB_eq_testBit]
    rfl
  · rw [State.task_modTask_self hwf, hp]
  · rw [exec_dcdec_of_free ha hp, State.decCounter_of_zero h0]
    exact ⟨_, rfl, State.modTile_onlyTile hs _ _, State.tile_modTile_self htile _ _⟩
  · rw [exec_dcdec_of_free ha hp, State.decCounter_of_unbound h0 hb]
    exact ⟨_, rfl, State.modTile_onlyTile hs _ _, State.tile_modTile_self htile _ _⟩
  · rw [exec_dcdec_of_free ha hp, State.decCounter_of_bound h1 hb]
    refine ⟨_, _, rfl, State.modTile_onlyTile hs _ _, State.tile_modTile_self htile _ _,
      ⟨rfl, fun j hj => State.task_modTask_ne (by exact hwf) hj _⟩, ?_⟩
    intro k'
    have hk : k' = (s.task (s.myCore * 8 + x)).counterWake dc := State.task_modTask_self (by exact hwf) _ _
    rw [hk]
    exact ⟨Task.counterWake_of_waitc, fun h => Task.counterWake_of_endK h dc, Task.counterWake_of_idle⟩

end Sys2Proof.Machine
end

section
/-! What a bundle leaves of its task at its end (R31, R162, R164), and a FENCE at a free port (R166). -/

namespace Sys2Proof.Machine

/-- The loop sequencer changes the loop levels, and adds results in flight. -/
theorem sequencer_frame (addr : Nat) (sf : SliceFile) (n : Nat) (t : Task) :
    ∃ fl lv, (sequencer addr sf n t).1 = { t with flight := fl, levels := lv } := by
  induction n generalizing t with
  | zero => exact ⟨_, _, rfl⟩
  | succ n ih =>
    unfold sequencer
    dsimp only
    split
    · exact ⟨_, _, rfl⟩
    · generalize hind : (levelOf t.levels (activeCount t.levels - 1)).ind = ind
      cases ind with
      | none =>
        split
        · exact ⟨_, _, rfl⟩
        · obtain ⟨fl, lv, h⟩ := ih { t with levels := clearLevel t.levels (activeCount t.levels - 1) }
          exact ⟨fl, lv, h⟩
      | some b =>
        split
        · exact ⟨_, _, rfl⟩
        · obtain ⟨fl, lv, h⟩ := ih { t with flight := _, levels := clearLevel t.levels (activeCount t.levels - 1) }
          exact ⟨fl, lv, h⟩

/-- A bundle's end changes neither the task's state nor the asynchronous faults that wait for it. -/
theorem Task.afterBundle_frame (t : Task) (i : Issue) : (t.afterBundle i).st = t.st ∧ (t.afterBundle i).asyncs = t.asyncs := by
  unfold Task.afterBundle
  dsimp only
  split
  · exact ⟨rfl, rfl⟩
  split
  · exact ⟨rfl, rfl⟩
  split
  · exact ⟨rfl, rfl⟩
  · obtain ⟨fl, lv, h⟩ := sequencer_frame i.addr i.sf 7 { t with noAct := false, skip := false, tcycle := t.tcycle + 1 }
    rw [h]
    exact ⟨rfl, rfl⟩

/-- After END the task is at its entry address (R32). -/
theorem Task.afterBundle_of_ended (t : Task) {i : Issue} (h : i.ended = true) :
    t.afterBundle i = { t with noAct := false, skip := false, tcycle := t.tcycle + 1, pc := t.entry } := by
  simp only [Task.afterBundle, h, if_true]

theorem State.takeAsyncs_of_none {s : State} {tk : Nat} (h : (s.task tk).asyncs = []) : s.takeAsyncs tk = s := by
  unfold State.takeAsyncs
  simp only [h, ite_self]

/-- A task as the end of its bundle leaves it: parked, its results are captured (R31). -/
def Task.atEnd (t : Task) (i : Issue) : Task := if (t.afterBundle i).st = .runnable then t.afterBundle i else (t.afterBundle i).capture

/-- A task whose bundle parked it has its results captured. -/
theorem Task.atEnd_of_parked {t : Task} (h : t.st ≠ .runnable) (i : Issue) : t.atEnd i = (t.afterBundle i).capture :=
  if_neg (by rwa [(t.afterBundle_frame i).1])

theorem Task.atEnd_of_runnable {t : Task} (h : t.st = .runnable) (i : Issue) : t.atEnd i = t.afterBundle i :=
  if_pos (by rwa [(t.afterBundle_frame i).1])

theorem Task.atEnd_asyncs (t : Task) (i : Issue) : (t.atEnd i).asyncs = t.asyncs := by
  unfold Task.atEnd
  split
  · exact (t.afterBundle_frame i).2
  · exact (t.afterBundle_frame i).2

/-- With no asynchronous fault due, a bundle's end changes its task alone. -/
theorem State.finish_eq {s : State} (hs : s.Canonical) (ha : (s.task s.me).asyncs = []) :
    s.finish = { s with issue := { s.issue with active := false } }.modTask s.me fun t => t.atEnd s.issue := by
  apply State.takeAsyncs_of_none
  exact (congrArg Task.asyncs (State.task_modTask_self (by exact hs.2.1) _ _)).trans ((Task.atEnd_asyncs _ _).trans ha)

/-- The issuing task at the end of a bundle whose last effect on it was f. -/
theorem State.finish_task_modTask {s : State} (hs : s.Canonical) (f : Task → Task) {i : Issue} {tk : Nat} (hi : i.task = tk)
    (ha : (f (s.task tk)).asyncs = []) :
    (State.finish { s.modTask tk f with issue := i }).task tk = (f (s.task tk)).atEnd i := by
  subst hi
  have hc : State.Canonical { s.modTask i.task f with issue := i } := State.modTask_canonical hs i.task f
  have hk : State.task { s.modTask i.task f with issue := i } i.task = f (s.task i.task) := State.task_modTask_self hs.2.1 _ _
  rw [State.finish_eq hc ((congrArg Task.asyncs hk).trans ha), ← hk]
  exact State.task_modTask_self (by exact hc.2.1) _ _

theorem State.wordWaits_iff (s : State) : s.wordWaits s.me = true ↔ ∃ n, (s.task s.me).vc = some n ∧ (s.tile s.myCore).vc n ≠ [] := by
  unfold State.wordWaits
  cases (s.task s.me).vc with
  | none => simp
  | some n => simp [State.myCore, State.me]

/-- A task after END has acted, its bundle not yet over (R32). -/
def Task.ended (t : Task) (stay : Bool) : Task :=
  if stay then { t with levels := [], latch := false } else { t with levels := [], st := .parked, kind := .endK }

theorem Task.ended_asyncs (t : Task) (stay : Bool) : (t.ended stay).asyncs = t.asyncs := by cases stay <;> rfl

theorem exec_endTask {s : State} {x : Ctl} (ha : s.acts x.lc x.p = true) : exec (.endTask x) s =
    .next { s.modTask s.me (fun t => t.ended (s.wordWaits s.me || (s.task s.me).latch)) with issue := { s.issue with ended := true } } := by
  change execEnd x s = _
  rw [execEnd, ha, slot_true]
  rfl

theorem exec_yield {s : State} {x : Ctl} (ha : s.acts x.lc x.p = true) : exec (.yield x) s =
    .next (s.modTile s.myCore fun t => { t with last := Sparse.set 7 t.last (s.task s.me).prio (ctxOf s.me) }) := by
  change execYield x s = _
  rw [execYield, ha, slot_true]

theorem exec_prio {s : State} {x : Ctl} (ha : s.acts x.lc x.p = true) (p : Nat) :
    exec (.prio x p) s = .next (s.modTask s.me fun t => { t with prio := p }) := by
  change execPrio x p s = _
  rw [execPrio, ha, slot_true]

theorem exec_waitc {s : State} {x : Ctl} (ha : s.acts x.lc x.p = true) (dc : Nat) : exec (.waitc x dc) s =
    .next (if ((s.tile s.myCore).counter dc).val = 0 then s
      else s.modTask s.me fun t => { t with st := .parked, kind := .waitc, waitDc := dc }) := by
  change execWaitc x dc s = _
  rw [execWaitc, ha, slot_true]

theorem exec_fence {s : State} {x : Ctl} (ha : s.acts x.lc x.p = true) (kind scope : Nat) :
    exec (.fence x kind scope) s = .next (s.access ⟨.hold (s.task s.me).reqNo kind scope, 0, none, []⟩) := by
  change execFence x kind scope s = _
  rw [execFence, ha, slot_true]

/-- An access that waits for responses holds a free port (R166). -/
theorem State.access_held {s : State} (h : s.Canonical) (hp : PortFree s) {a : Access} (ha : (s.task s.me).held a = true) :
    s.access a = s.withPort a := by
  obtain ⟨hport, hwait, hlag, -, -⟩ := hp
  have hpush : (s.modTask s.me fun t => { t with port := t.port ++ [a] }) = s.withPort a := by
    apply State.modTask_congr
    rw [hport]
    rfl
  have hheld : ((s.withPort a).task s.me).held a = true := by
    rw [State.withPort_task h]
    exact ha
  have hport1 : ((s.withPort a).task s.me).port = [a] := by rw [State.withPort_task h]
  unfold State.access
  simp only [hpush, hlag, hport1, List.length_singleton, State.drainPort, State.accWaits, hheld, Bool.true_or, Bool.or_true, if_true,
    Bool.false_eq_true, if_false]

/-- An access that only waits for responses changes nothing when none is owed. -/
theorem State.access_hold_free {s : State} (h : s.Canonical) (hp : PortFree s) (hw : Unwatched s) {n kind scope : Nat}
    (ha : (s.task s.me).owes n = false) : s.access ⟨.hold n kind scope, 0, none, []⟩ = s := by
  rw [State.access_task h hp ⟨.hold n kind scope, 0, none, []⟩ id ha rfl rfl ?_ fun _ _ => rfl]
  · exact State.modTask_same h _ rfl
  · rw [State.modTask_same (s := s.withPort _) (State.modTask_canonical h _ _) _ rfl]
    exact State.perform_plain (s := s.withPort _) (tk := s.me) hw _ rfl nofun nofun

/-- Settles O33: each operation is one update of its task or tile, and a bundle's end is Task.atEnd of what its slots left. -/
theorem tasksParkAndYield : Obligations.TasksParkAndYield := by
  intro s x hs ha k waits
  have hwf := hs.2.1
  have hstay : (s.wordWaits s.me || (s.task s.me).latch) = true ↔ waits ∨ k.latch = true := by
    rw [Bool.or_eq_true, State.wordWaits_iff]
  have hself (f : Task → Task) : (s.modTask s.me f).task s.me = f k := State.task_modTask_self hwf _ _
  refine ⟨⟨_, exec_endTask ha, State.modTask_onlyTask hs _ _, fun hw => ?_, fun hw hl => ?_, fun hasync => ?_⟩,
    ⟨_, exec_yield ha, State.modTile_onlyTile hs _ _, State.tile_modTile_self hs.2.2.1 _ _⟩, fun dc => ⟨fun h0 => ?_, fun h0 => ?_⟩,
    fun v hv hasync => ?_, fun p => ⟨_, exec_prio ha p, State.modTask_onlyTask hs _ _, hself _⟩, fun kind scope hp hu => ⟨fun h => ?_, fun h => ?_⟩⟩
  · rw [hself, hstay.2 hw, Task.ended, if_pos rfl]
  · rw [hself, Task.ended, if_neg fun h => (hstay.1 h).elim hw (by simp [hl])]
  · intro f
    have hf : f.task s.me = (k.ended (s.wordWaits s.me || k.latch)).atEnd { s.issue with ended := true } :=
      State.finish_task_modTask hs _ rfl ((Task.ended_asyncs _ _).trans hasync)
    refine ⟨fun hw hst => ?_, fun hw hl => ?_⟩
    · rw [hf, hstay.2 hw, Task.atEnd_of_runnable (t := k.ended true) hst, Task.afterBundle_of_ended _ rfl]
      rfl
    · have hstay : (s.wordWaits s.me || k.latch) = false := Bool.eq_false_iff.2 fun h => (hstay.1 h).elim hw (by simp [hl])
      rw [hf, hstay, Task.atEnd_of_parked (by simp [Task.ended]), Task.afterBundle_of_ended _ rfl]
      exact ⟨rfl, rfl⟩
  · rw [exec_waitc ha, if_pos h0]
  · rw [exec_waitc ha, if_neg h0]
    refine ⟨_, rfl, State.modTask_onlyTask hs _ _, hself _, fun hasync => ?_⟩
    have hf := State.finish_task_modTask hs (fun t => { t with st := .parked, kind := .waitc, waitDc := dc }) (i := s.issue) rfl hasync
    rw [Task.atEnd_of_parked (by simp)] at hf
    exact ⟨hf, congrArg Task.flight hf⟩
  · rw [State.finish_eq hv hasync]
    exact ⟨⟨rfl, fun j hj => State.task_modTask_ne (by exact hv.2.1) hj _⟩, State.task_modTask_self (by exact hv.2.1) _ _⟩
  · rw [exec_fence ha, State.access_hold_free hs hp hu h]
  · rw [exec_fence ha, State.access_held hs hp (a := ⟨.hold k.reqNo kind scope, 0, none, []⟩) h]
    exact ⟨_, rfl, State.modTask_onlyTask hs _ _, hself _⟩

end Sys2Proof.Machine
end

section
/-! A write to a storage: the bytes it puts, the dirty bits it sets, and what it leaves (R4, R375); an access to a free port with any effect
(R295). -/

namespace Sys2Proof.Machine

/-! ## A change of every entry -/

theorem Sparse.get_mapAll {α : Type} [DecidableEq α] {d : α} {m : Sparse α} {lo : Nat} (hm : Sparse.wfFrom d lo m = true) {f : Nat → α → α}
    (hf : ∀ i, f i d = d) (i : Nat) : Sparse.get d (Sparse.mapAll d f m) i = f i (Sparse.get d m i) := by
  induction m generalizing lo with
  | nil => exact (hf i).symm
  | cons x m ih =>
    obtain ⟨k, v⟩ := x
    obtain ⟨-, hm⟩ : _ ∧ Sparse.wfFrom d (k + 1) m = true := by simpa only [Sparse.wfFrom, Bool.and_eq_true] using hm
    have hrest := Sparse.wfFrom_mapAll f hm
    rcases Nat.lt_trichotomy i k with hi | rfl | hi
    · have hmiss : Sparse.get d ((k, v) :: m) i = d := by rw [Sparse.get, if_neg (by omega), if_pos hi]
      rw [hmiss, hf, Sparse.mapAll]
      split
      · exact Sparse.get_below hrest (by omega)
      · rw [Sparse.get, if_neg (by omega), if_pos hi]
    · rw [Sparse.get, if_pos rfl, Sparse.mapAll]
      split
      · next hd => rw [hd, Sparse.get_below hrest (by omega)]
      · rw [Sparse.get, if_pos rfl]
    · have hskip : Sparse.get d ((k, v) :: m) i = Sparse.get d m i := by rw [Sparse.get, if_neg (by omega), if_neg (by omega)]
      rw [hskip, ← ih hm, Sparse.mapAll]
      split
      · rfl
      · rw [Sparse.get, if_neg (by omega), if_neg (by omega)]

theorem Sparse.mapAll_modify {α : Type} [DecidableEq α] {d : α} {m : Sparse α} (hm : Sparse.wf d m = true) {f : Nat → α → α}
    (hf : ∀ i, f i d = d) {k : Nat} {g : α → α} (hg : ∀ v, f k (g v) = g (f k v)) :
    Sparse.mapAll d f (Sparse.modify d m k g) = Sparse.modify d (Sparse.mapAll d f m) k g :=
  Sparse.ext (Sparse.wf_mapAll (Sparse.wf_modify hm _ _) _) (Sparse.wf_modify (Sparse.wf_mapAll hm _) _ _) fun i => by
    rw [Sparse.get_mapAll (Sparse.wf_modify hm k g) hf, Sparse.get_modify hm, Sparse.get_modify (Sparse.wf_mapAll hm _), Sparse.get_mapAll hm hf,
      Sparse.get_mapAll hm hf]
    split
    · next h => rw [← h, hg]
    · rfl

/-! ## Dirty bits -/

/-- Marking granules changes fields only. -/
theorem State.markDirty_eq (s : State) (sp : Space) (o n : Nat) : s.markDirty sp o n = { s with fields := (s.markDirty sp o n).fields } := by
  unfold State.markDirty
  split
  · split <;> rfl
  · rfl
  · rfl

theorem State.markDirty_modTask (s : State) (sp : Space) (o n k : Nat) (f : Task → Task) :
    (s.modTask k f).markDirty sp o n = (s.markDirty sp o n).modTask k f := by
  cases sp with
  | bin c =>
    have h : (s.modTask k f).fieldOf c = s.fieldOf c := rfl
    simp only [State.markDirty, h]
    cases s.fieldOf c <;> rfl
  | _ => rfl

/-- An entry without a window has no granule of the granary (R375). -/
theorem dirtyG_default (o n d k : Nat) : (if k / 256 = d then
    { ({} : Field) with dirtyG := ((granules o n).filter fun g => decide (({} : Field).gwbase ≤ 0x10000000 + g * 4096 ∧
        0x10000000 + g * 4096 < ({} : Field).gwbase + ({} : Field).gwsize)).foldl (fun m g => Sparse.set false m g true) ({} : Field).dirtyG }
    else {}) = ({} : Field) := by
  split
  · rw [List.filter_eq_nil_iff.2 fun g _ hg => absurd (of_decide_eq_true hg).2 (Nat.not_lt_zero _)]
    rfl
  · rfl

/-- Marking granules changes nothing of a field but its dirty bits. -/
theorem State.markDirty_field {s : State} (h : Sparse.wf ({} : Field) s.fields = true) (sp : Space) (o n k : Nat) :
    ∃ g b, (s.markDirty sp o n).field k = { s.field k with dirtyG := g, dirtyB := b } := by
  cases sp with
  | bin c =>
    simp only [State.markDirty]
    cases s.fieldOf c with
    | none => exact ⟨_, _, rfl⟩
    | some j =>
      dsimp only
      rw [State.field_modField h]
      split
      · next e => exact e ▸ ⟨_, _, rfl⟩
      · exact ⟨_, _, rfl⟩
  | granary d =>
    simp only [State.markDirty, State.field]
    rw [Sparse.get_mapAll h]
    · split
      · exact ⟨_, _, rfl⟩
      · exact ⟨_, _, rfl⟩
    · exact dirtyG_default _ _ _
  | _ => exact ⟨_, _, rfl⟩

/-! ## A write -/

theorem State.writeLE_eq (s : State) (sp : Space) (o n v : Nat) :
    s.writeLE sp o n v = { s with mem := s.mem.putLE (place sp o) n v, fields := (s.writeLE sp o n v).fields } :=
  (State.markDirty_eq _ _ _ _).trans rfl

theorem State.writeLE_mem (s : State) (sp : Space) (o n v : Nat) : (s.writeLE sp o n v).mem = s.mem.putLE (place sp o) n v :=
  congrArg State.mem (s.writeLE_eq sp o n v)

theorem State.writeLE_modTask (s : State) (sp : Space) (o n v k : Nat) (f : Task → Task) :
    (s.modTask k f).writeLE sp o n v = (s.writeLE sp o n v).modTask k f :=
  State.markDirty_modTask { s with mem := s.mem.putLE (place sp o) n v } _ _ _ _ _

theorem State.markDirty_fields_wf {s : State} (h : Sparse.wf ({} : Field) s.fields = true) (sp : Space) (o n : Nat) :
    Sparse.wf ({} : Field) (s.markDirty sp o n).fields = true := by
  cases sp with
  | bin c =>
    simp only [State.markDirty]
    cases s.fieldOf c with
    | none => exact h
    | some j =>
      dsimp only [State.modField]
      exact Sparse.wf_modify h _ _
  | granary d => exact Sparse.wf_mapAll h _
  | _ => exact h

theorem State.writeLE_canonical {s : State} (h : s.Canonical) (sp : Space) (o n v : Nat) : (s.writeLE sp o n v).Canonical := by
  obtain ⟨hmem, htasks, htiles, hcells, hcmds, hlocks, hfields, hdies⟩ := h
  have hf : Sparse.wf ({} : Field) (s.writeLE sp o n v).fields = true := State.markDirty_fields_wf (by exact hfields) _ _ _
  rw [State.writeLE_eq]
  exact ⟨Memory.wf_putAll hmem _ _, htasks, htiles, hcells, hcmds, hlocks, hf, hdies⟩

theorem State.writeLE_onlyMem {s : State} (h : s.Canonical) (sp : Space) (o n v : Nat) : OnlyMem s (s.writeLE sp o n v) := by
  have heq := s.writeLE_eq sp o n v
  refine ⟨?_, fun k => ?_⟩
  · rw [← State.writeLE_mem] at heq
    exact heq
  · obtain ⟨g, b, hk⟩ := State.markDirty_field (s := { s with mem := s.mem.putLE (place sp o) n v }) h.2.2.2.2.2.2.1 sp o (bytesOfNat n v).length k
    change (s.writeLE sp o n v).field k = _ at hk
    rw [hk]
    rfl

theorem OnlyMem.trans {s t u : State} (hst : OnlyMem s t) (htu : OnlyMem t u) : OnlyMem s u := by
  obtain ⟨ht, htf⟩ := hst
  obtain ⟨hu, huf⟩ := htu
  refine ⟨?_, fun k => ?_⟩
  · rw [hu, ht]
  · rw [huf k, htf k]

theorem State.writeLE_outside {s : State} (h : s.Canonical) (sp : Space) (o n v : Nat) : SameOutside s (s.writeLE sp o n v) sp o n := by
  intro p hp
  rw [State.writeLE_mem]
  exact Memory.byte_putAll_out h.1 _ _ _ (by rwa [bytesOfNat_length])

theorem State.readLE_writeLE {s : State} (h : s.Canonical) (sp : Space) (o n v : Nat) : (s.writeLE sp o n v).readLE sp o n = v % 256 ^ n := by
  rw [State.readLE, State.writeLE_mem]
  exact Memory.le_putLE h.1 _ _ _

/-- A write through a local address is a store (R4, R147). -/
theorem State.writeLocal_stores {s : State} (h : s.Canonical) (c a n v : Nat) : Stores s (s.writeLocal c a n v) c a n v :=
  ⟨State.writeLE_onlyMem h _ _ _ _, State.readLE_writeLE h _ _ _ _, State.writeLE_outside h _ _ _ _⟩

theorem State.writeLocal_modTask (s : State) (c a n v k : Nat) (f : Task → Task) :
    (s.modTask k f).writeLocal c a n v = (s.writeLocal c a n v).modTask k f := State.writeLE_modTask ..

theorem State.writeLocal_canonical {s : State} (h : s.Canonical) (c a n v : Nat) : (s.writeLocal c a n v).Canonical :=
  State.writeLE_canonical h ..

/-- What is counted behind a port stands in tables that a write leaves. -/
theorem State.writeLocal_noneBehind {s : State} {tk : Nat} (h : NoneBehind s tk) (c a n v : Nat) : NoneBehind (s.writeLocal c a n v) tk := by
  rw [State.writeLocal, State.writeLE_eq]
  exact h

/-! ## Any plain access to a free port -/

/-- The access neither waits for responses or .sc order, nor takes or frees a lock bit. -/
def AccKind.plain : AccKind → Bool
  | .ldl _ | .stu _ _ | .hold _ _ _ | .atomic _ _ _ _ _ _ _ => false
  | _ => true

theorem Task.held_of_plain {a : Access} (h : a.kind.plain = true) (t : Task) : t.held a = false := by
  unfold Task.held
  split
  · next hk => simp [hk, AccKind.plain] at h
  · rfl

theorem State.scWaits_of_plain {a : Access} (h : a.kind.plain = true) (s : State) (tk : Nat) : s.scWaits tk a = false := by
  unfold State.scWaits
  split
  · next hk => simp [hk, AccKind.plain] at h
  · rfl

theorem lockNeed_of_plain {a : Access} (h : a.kind.plain = true) (c : Nat) : lockNeed c a = none := by
  unfold lockNeed
  split
  · next hk => simp [hk, AccKind.plain] at h
  · next hk => simp [hk, AccKind.plain] at h
  · rfl

/-- A whole plain access performs its own effect, where no watchpoint is enabled. -/
theorem State.perform_of_plain {s : State} (hw : Unwatched s) {a : Access} (h : a.kind.plain = true) (hd : a.did = []) :
    s.perform s.me a = s.doAccess s.me a :=
  State.perform_plain (tk := s.me) hw a hd (fun n hk => by simp [hk, AccKind.plain] at h) fun n v hk => by simp [hk, AccKind.plain] at h

/-- The port and the lock wait of a task, as given. -/
def Task.atPort (t : Task) (p : List Access) (w : Option Nat) : Task := { t with port := p, waitLock := w }

/-- A plain access to a free port has its effect and leaves the port, when the effect does not look at the port. -/
theorem State.access_plain {s : State} (h : s.Canonical) (hp : PortFree s) (hw : Unwatched s) {a : Access} (hk : a.kind.plain = true)
    (hd : a.did = []) {g : State → State} (hdo : (s.withPort a).doAccess s.me a = g (s.withPort a))
    (hg : ∀ p w, g (s.modTask s.me fun t => t.atPort p w) = (g s).modTask s.me fun t => t.atPort p w)
    (hc : (g s).Canonical) (hb : NoneBehind (g s) s.me) : s.access a = g s := by
  obtain ⟨hport, hwait, -⟩ := id hp
  have hpush : s.withPort a = s.modTask s.me fun t => t.atPort [a] none := by
    apply State.modTask_congr
    rw [Task.atPort, ← hwait]
  have hself : (s.modTask s.me fun t => t.atPort [] none) = s := by
    apply State.modTask_same h
    rw [Task.atPort, ← hport, ← hwait]
  have hperf : (s.withPort a).perform s.me a = (s.withPort a).doAccess s.me a := State.perform_of_plain (s := s.withPort a) hw hk hd
  calc s.access a = ((s.withPort a).perform s.me a).popPort s.me :=
        State.access_free h hp a (Task.held_of_plain hk _) (State.scWaits_of_plain hk _ _) fun k hn => by rw [lockNeed_of_plain hk] at hn; cases hn
    _ = ((g s).modTask s.me fun t => t.atPort [a] none).popPort s.me := by rw [hperf, hdo, hpush, hg]
    _ = (g s).modTask s.me fun t => t.atPort [] none := by
      rw [State.popPort_free (State.modTask_canonical hc _ _) _ (by exact hb), State.modTask_modTask hc]
      rfl
    _ = g s := by rw [← hg, hself]

/-- What a task update leaves of a free port. -/
theorem PortFree.modTask {s : State} (h : s.Canonical) (hp : PortFree s) {f : Task → Task}
    (hf : ∀ t : Task, (f t).port = t.port ∧ (f t).waitLock = t.waitLock ∧ (f t).lag = t.lag) : PortFree (s.modTask s.me f) := by
  obtain ⟨hport, hwait, hlag, hver, hbehind⟩ := hp
  obtain ⟨fport, fwait, flag⟩ := hf (s.task s.me)
  have hself : (s.modTask s.me f).task (s.modTask s.me f).me = f (s.task s.me) := State.task_modTask_self h.2.1 _ _
  refine ⟨?_, ?_, ?_, hver, hbehind⟩
  · rw [hself, fport, hport]
  · rw [hself, fwait, hwait]
  · rw [hself, flag, hlag]

/-- A change of the module that neither reads nor changes a task, nor what is counted behind a port: a write is one. -/
structure Writes (w : State → State) : Prop where
  modTask : ∀ (s : State) (k : Nat) (f : Task → Task), w (s.modTask k f) = (w s).modTask k f
  canonical : ∀ s : State, s.Canonical → (w s).Canonical
  noneBehind : ∀ (s : State) (tk : Nat), NoneBehind s tk → NoneBehind (w s) tk

theorem writes_id : Writes id := ⟨fun _ _ _ => rfl, fun _ h => h, fun _ _ h => h⟩

theorem writes_writeLocal (c a n v : Nat) : Writes fun s => s.writeLocal c a n v :=
  ⟨fun s k f => s.writeLocal_modTask c a n v k f, fun _ h => State.writeLocal_canonical h c a n v, fun _ _ h => State.writeLocal_noneBehind h c a n v⟩

theorem Writes.comp {v w : State → State} (hv : Writes v) (hw : Writes w) : Writes fun s => w (v s) where
  modTask s k f := by rw [hv.modTask, hw.modTask]
  canonical s h := hw.canonical _ (hv.canonical _ h)
  noneBehind s tk h := hw.noneBehind _ _ (hv.noneBehind _ _ h)

/-- The task after a value has returned into n slices from d. -/
def Task.returned (t : Task) (d n v : Nat) : Task := (t.addRet (some (d, n)) none none).fillRet t.nextRet v false

theorem State.returned_returns {s : State} (h : s.Canonical) (d n v : Nat) : Returns s (s.modTask s.me fun t => t.returned d n v) d n v :=
  ⟨State.modTask_onlyTask h _ _, State.task_modTask_self h.2.1 _ _⟩

/-- A plain access to a free port that returns v into n slices from d, and writes. -/
theorem State.accessRet_writes {s : State} (h : s.Canonical) (hp : PortFree s) (hu : Unwatched s) {kind : AccKind} (hk : kind.plain = true)
    {addr d n v : Nat} {w : State → State} (hw : Writes w)
    (hdo : ∀ u : State, u.mem = s.mem → u.doAccess s.me ⟨kind, addr, some (s.task s.me).nextRet, []⟩ =
      (w u).modTask s.me fun t => t.fillRet (s.task s.me).nextRet v false) :
    s.accessRet kind addr d n = w (s.modTask s.me fun t => t.returned d n v) := by
  have hc := State.modTask_canonical h s.me fun t => t.addRet (some (d, n)) none none
  have hp := hp.modTask h (f := fun t => t.addRet (some (d, n)) none none) fun _ => ⟨rfl, rfl, rfl⟩
  have hdone := State.access_plain hc hp hu (a := ⟨kind, addr, some (s.task s.me).nextRet, []⟩) hk rfl
    (g := fun u => (w u).modTask s.me fun t => t.fillRet (s.task s.me).nextRet v false) (hdo _ rfl)
    (fun p l => by
      rw [hw.modTask, State.modTask_me, State.modTask_modTask (hw.canonical _ hc), State.modTask_modTask (hw.canonical _ hc)]
      rfl)
    (State.modTask_canonical (hw.canonical _ hc) _ _) (hw.noneBehind _ _ hp.2.2.2.2)
  rw [State.accessRet, hdone, ← hw.modTask, State.modTask_modTask h]
  exact congrArg w (State.modTask_congr _ rfl)

end Sys2Proof.Machine
end

section
/-! DRAW (R44, R225). -/

namespace Sys2Proof.Machine

/-- A sheaf is what R44 gives, at least one element and at most what is left. -/
theorem sheafSize_bounds {n total m k : Nat} (h : n < total) : 1 ≤ sheafSize n total m k ∧ n + sheafSize n total m k ≤ total := by
  simp only [sheafSize]
  generalize (total - n + 2 * max k 1 - 1) / (2 * max k 1) = q
  omega

theorem ceilDiv_bounds (r d : Nat) (hd : 0 < d) : d * ((r + d - 1) / d) < r + d ∧ r ≤ d * ((r + d - 1) / d) := by
  have hdiv := Nat.div_add_mod (r + d - 1) d
  have hmod := Nat.mod_lt (r + d - 1) hd
  omega

theorem State.drawCard_of_empty {s : State} {c a : Nat} (h : s.readLocal c (a + 4) 4 ≤ s.readLocal c a 4) :
    s.drawCard c a = (s.readLocal c a 4, 0, s) := if_pos h

/-- The size of the sheaf that the card at a gives. -/
def State.cardSize (s : State) (c a : Nat) : Nat :=
  sheafSize (s.readLocal c a 4) (s.readLocal c (a + 4) 4) (s.readLocal c (a + 8) 4) (s.readLocal c (a + 12) 2)

theorem State.drawCard_of_lt {s : State} {c a : Nat} (h : s.readLocal c a 4 < s.readLocal c (a + 4) 4) :
    s.drawCard c a = (s.readLocal c a 4, s.cardSize c a, s.writeLocal c a 4 (s.readLocal c a 4 + s.cardSize c a)) :=
  if_neg (by omega)

theorem State.doAccess_draw {u v : State} {tk a n size : Nat} (h : u.drawCard (coreOf tk) a = (n, size, v)) (r : Nat) :
    u.doAccess tk ⟨.draw, a, some r, []⟩ = v.modTask tk fun t => t.fillRet r (n + size * 2 ^ 32) false := by
  change State.answer (u.drawCard (coreOf tk) a).2.2 tk (some r) ((u.drawCard (coreOf tk) a).1 + (u.drawCard (coreOf tk) a).2.1 * 2 ^ 32) false = _
  rw [h]
  rfl

theorem exec_draw {s : State} {o : OpHS} (ha : s.acts o.lc Pred.always = true) (hc : drawCause o s = none) :
    exec (.draw o) s = .next (s.accessRet .draw (hLocal (s.hnd o.h) / 64 * 64) o.s 16) := by
  change execDraw o s = _
  rw [execDraw, ha, hc, slotOr_none]

/-- Settles O24: the card is read, and its next written, in the one access that DRAW makes. -/
theorem drawTakesASheaf : Obligations.DrawTakesASheaf := by
  intro s o hs hp hu ha hcause c a n total m k rem
  have hread (u : State) (hm : u.mem = s.mem) (b l : Nat) : u.readLocal c b l = s.readLocal c b l := by
    simp only [State.readLocal, State.readLE, hm]
  refine ⟨fun hempty => ?_, fun hlt => ?_⟩
  · have hdraw : s.accessRet .draw a o.s 16 = s.modTask s.me fun t => t.returned o.s 16 n :=
      State.accessRet_writes hs hp hu rfl writes_id fun u hm => by
        have hcard : u.drawCard c a = (n, 0, u) := by
          rw [State.drawCard_of_empty (by rw [hread u hm, hread u hm]; exact hempty), hread u hm]
        rw [State.doAccess_draw (tk := s.me) hcard, Nat.zero_mul, Nat.add_zero]
        rfl
    exact ⟨_, (exec_draw ha hcause).trans (congrArg _ hdraw), State.returned_returns hs _ _ _⟩
  · have hdraw : s.accessRet .draw a o.s 16 =
        (s.modTask s.me fun t => t.returned o.s 16 (n + s.cardSize c a * 2 ^ 32)).writeLocal c a 4 (n + s.cardSize c a) :=
      State.accessRet_writes hs hp hu rfl (writes_writeLocal c a 4 (n + s.cardSize c a)) fun u hm => by
        have hcard : u.drawCard c a = (n, s.cardSize c a, u.writeLocal c a 4 (n + s.cardSize c a)) := by
          rw [State.drawCard_of_lt (by rw [hread u hm, hread u hm]; exact hlt)]
          simp only [State.cardSize, hread u hm]
          rfl
        exact State.doAccess_draw hcard _
    obtain ⟨hup, hlow⟩ := ceilDiv_bounds rem (2 * k) (by omega)
    obtain ⟨hone, hleft⟩ := sheafSize_bounds (m := s.readLocal c (a + 8) 4) (k := s.readLocal c (a + 12) 2) hlt
    exact ⟨_, _, s.cardSize c a, (exec_draw ha hcause).trans (congrArg _ hdraw), rfl, hup, hlow, hone, hleft, State.returned_returns hs _ _ _,
      State.writeLocal_stores (State.modTask_canonical hs _ _) _ _ _ _⟩

end Sys2Proof.Machine
end

section
/-! Futures: FPUT and WAITF (R38-R40, R165, R226). -/

namespace Sys2Proof.Machine

/-! ## Two writes side by side -/

theorem Memory.le_lt (m : Memory) (p n : Nat) : m.le p n < 256 ^ n := by
  induction n generalizing p with
  | zero => exact Nat.one_pos
  | succ n ih =>
    have hbyte := (m.byte p).isLt
    have hrest := ih (p + 1)
    rw [Memory.le, Nat.pow_succ]
    omega

theorem State.readLocal_lt (s : State) (c a n : Nat) : s.readLocal c a n < 256 ^ n := Memory.le_lt _ _ _

theorem State.rd_lt (s : State) (a w : Nat) : s.rd a w < 2 ^ w := Nat.mod_lt _ (Nat.two_pow_pos w)

/-- A write leaves a read that it does not touch. -/
theorem State.readLE_writeLE_out {s : State} (h : s.Canonical) {sp sp' : Space} {o o' n m : Nat}
    (hout : place sp' o' + m ≤ place sp o ∨ place sp o + n ≤ place sp' o') (v : Nat) :
    (s.writeLE sp o n v).readLE sp' o' m = s.readLE sp' o' m := by
  rw [State.readLE, State.writeLE_mem]
  exact Memory.le_putAll_out h.1 _ _ _ _ (by rwa [bytesOfNat_length])

/-- What two writes leave where the second goes right behind the first. -/
theorem State.writeLE_writeLE {s : State} (h : s.Canonical) {sp : Space} {o n m : Nat} (hplace : place sp (o + n) = place sp o + n) (v w : Nat) :
    OnlyMem s ((s.writeLE sp o n v).writeLE sp (o + n) m w) ∧ ((s.writeLE sp o n v).writeLE sp (o + n) m w).readLE sp o n = v % 256 ^ n ∧
      ((s.writeLE sp o n v).writeLE sp (o + n) m w).readLE sp (o + n) m = w % 256 ^ m ∧
      SameOutside s ((s.writeLE sp o n v).writeLE sp (o + n) m w) sp o (n + m) := by
  have hc := State.writeLE_canonical h sp o n v
  refine ⟨(State.writeLE_onlyMem h _ _ _ _).trans (State.writeLE_onlyMem hc _ _ _ _), ?_, State.readLE_writeLE hc _ _ _ _, fun p hp => ?_⟩
  · rw [State.readLE_writeLE_out hc (by omega), State.readLE_writeLE h]
  · exact (State.writeLE_outside hc _ _ _ _ p (by omega)).trans (State.writeLE_outside h _ _ _ _ p (by omega))

/-! ## FPUT -/

/-- The two writes of FPUT: the value, and the byte that holds the full bit (R39). -/
def State.futureBytes (s : State) (c a v x : Nat) : State := (s.writeLocal c a 8 v).writeLocal c (a + 8) 1 x

theorem writes_futureBytes (c a v x : Nat) : Writes fun s => s.futureBytes c a v x :=
  (writes_writeLocal c a 8 v).comp (writes_writeLocal c (a + 8) 1 x)

/-- What FPUT of core c does to task j, where it waits for the future at a (R39). -/
def Task.filledBy (c a v j : Nat) (t : Task) : Task := if dieOf (coreOf j) = dieOf c then t.fillWell a v else t

def State.fillWells (s : State) (c a v : Nat) : State := { s with tasks := Sparse.mapAll {} (Task.filledBy c a v) s.tasks }

theorem State.fillFuture_of_full {s : State} {c a : Nat} (h : s.readLocal c (a + 8) 1 % 2 = 1) (v : Nat) :
    s.fillFuture c a v = s.futureBytes c a v (s.readLocal c (a + 8) 1 / 2 * 2 + 1) := by
  simp only [State.fillFuture, h, decide_true, if_true]
  rfl

theorem State.fillFuture_of_empty {s : State} {c a : Nat} (h : ¬ s.readLocal c (a + 8) 1 % 2 = 1) (v : Nat) :
    s.fillFuture c a v = (s.futureBytes c a v (s.readLocal c (a + 8) 1 / 2 * 2 + 1)).fillWells c a v := by
  simp only [State.fillFuture, h, decide_false, Bool.false_eq_true, if_false]
  rfl

/-- A default task waits for no future. -/
theorem Task.filledBy_default (c a v j : Nat) : Task.filledBy c a v j {} = {} := ite_self _

theorem State.fillWells_task {s : State} (h : s.Canonical) (c a v j : Nat) : (s.fillWells c a v).task j = Task.filledBy c a v j (s.task j) :=
  Sparse.get_mapAll h.2.1 (Task.filledBy_default c a v) j

theorem State.fillWells_canonical {s : State} (h : s.Canonical) (c a v : Nat) : (s.fillWells c a v).Canonical := by
  obtain ⟨hmem, htasks, hrest⟩ := h
  exact ⟨hmem, Sparse.wf_mapAll htasks _, hrest⟩

/-- A task whose return r was filled from the well (R39, R57). -/
def Task.unparked (t : Task) (r v : Nat) : Task :=
  if Task.waits { t.fillRet r v true with well := none } .waitf then Task.wake { t.fillRet r v true with well := none } t.pc
  else { t.fillRet r v true with well := none }

theorem Task.fillWell_of_well {t : Task} {w : Well} (hw : t.well = some w) (v : Nat) : t.fillWell w.addr v = t.unparked w.ret v := by
  simp only [Task.fillWell, hw, if_true]
  rfl

theorem Task.fillWell_of_not {t : Task} {a : Nat} (h : ∀ w, t.well = some w → w.addr ≠ a) (v : Nat) : t.fillWell a v = t := by
  unfold Task.fillWell
  split
  · next w hw => exact if_neg (h w hw)
  · rfl

theorem Task.unparked_atPort (t : Task) (r v : Nat) (p : List Access) (w : Option Nat) :
    (t.atPort p w).unparked r v = (t.unparked r v).atPort p w := by
  unfold Task.unparked
  rw [apply_ite (fun t : Task => t.atPort p w)]
  rfl

theorem Task.fillWell_atPort (t : Task) (a v : Nat) (p : List Access) (l : Option Nat) :
    (t.atPort p l).fillWell a v = (t.fillWell a v).atPort p l := by
  by_cases h : ∃ w, t.well = some w ∧ w.addr = a
  · obtain ⟨w, hw, rfl⟩ := h
    rw [Task.fillWell_of_well hw, Task.fillWell_of_well (t := t.atPort p l) hw, Task.unparked_atPort]
  · have h : ∀ w, t.well = some w → w.addr ≠ a := fun w hw ha => h ⟨w, hw, ha⟩
    rw [Task.fillWell_of_not h, Task.fillWell_of_not (t := t.atPort p l) h]

theorem Task.filledBy_atPort (c a v j : Nat) (t : Task) (p : List Access) (l : Option Nat) :
    Task.filledBy c a v j (t.atPort p l) = (Task.filledBy c a v j t).atPort p l := by
  unfold Task.filledBy
  split
  · exact t.fillWell_atPort a v p l
  · rfl

theorem State.fillWells_atPort {s : State} (h : s.Canonical) (c a v k : Nat) (p : List Access) (l : Option Nat) :
    (s.modTask k fun t => t.atPort p l).fillWells c a v = (s.fillWells c a v).modTask k fun t => t.atPort p l := by
  simp only [State.fillWells, State.modTask, Sparse.mapAll_modify h.2.1 (Task.filledBy_default c a v) (k := k) (g := fun t => t.atPort p l)
    fun t => Task.filledBy_atPort c a v k t p l]

theorem State.fillFuture_atPort {s : State} (h : s.Canonical) (c a v k : Nat) (p : List Access) (w : Option Nat) :
    (s.modTask k fun t => t.atPort p w).fillFuture c a v = (s.fillFuture c a v).modTask k fun t => t.atPort p w := by
  have hread : (s.modTask k fun t => t.atPort p w).readLocal c (a + 8) 1 = s.readLocal c (a + 8) 1 := rfl
  have hw := writes_futureBytes c a v (s.readLocal c (a + 8) 1 / 2 * 2 + 1)
  by_cases hfull : s.readLocal c (a + 8) 1 % 2 = 1
  · rw [State.fillFuture_of_full (by rw [hread]; exact hfull), State.fillFuture_of_full hfull, hread]
    exact hw.modTask s k _
  · rw [State.fillFuture_of_empty (by rw [hread]; exact hfull), State.fillFuture_of_empty hfull, hread, ← State.fillWells_atPort (hw.canonical s h)]
    exact congrArg (State.fillWells · c a v) (hw.modTask s k _)

theorem State.fillFuture_canonical {s : State} (h : s.Canonical) (c a v : Nat) : (s.fillFuture c a v).Canonical := by
  have hc := (writes_futureBytes c a v (s.readLocal c (a + 8) 1 / 2 * 2 + 1)).canonical s h
  by_cases hfull : s.readLocal c (a + 8) 1 % 2 = 1
  · rw [State.fillFuture_of_full hfull]
    exact hc
  · rw [State.fillFuture_of_empty hfull]
    exact State.fillWells_canonical hc _ _ _

theorem State.fillFuture_noneBehind {s : State} {tk : Nat} (h : NoneBehind s tk) (c a v : Nat) : NoneBehind (s.fillFuture c a v) tk := by
  have hb := (writes_futureBytes c a v (s.readLocal c (a + 8) 1 / 2 * 2 + 1)).noneBehind s tk h
  by_cases hfull : s.readLocal c (a + 8) 1 % 2 = 1
  · rw [State.fillFuture_of_full hfull]
    exact hb
  · rw [State.fillFuture_of_empty hfull]
    exact hb

theorem exec_fput {s : State} (hs : s.Canonical) (hp : PortFree s) (hu : Unwatched s) {o : OpHS} (ha : s.acts o.lc Pred.always = true)
    (hc : fputCause o s = none) : exec (.fput o) s = .next (s.fillFuture s.myCore (hLocal (s.hnd o.h) / 16 * 16) (s.rd o.s 64)) := by
  have haccess := State.access_plain hs hp hu (a := ⟨.fput (s.rd o.s 64), hLocal (s.hnd o.h) / 16 * 16, none, []⟩) rfl rfl
    (g := fun u => u.fillFuture s.myCore (hLocal (s.hnd o.h) / 16 * 16) (s.rd o.s 64)) rfl
    (fun p w => State.fillFuture_atPort hs _ _ _ _ _ _) (State.fillFuture_canonical hs _ _ _) (State.fillFuture_noneBehind hp.2.2.2.2 _ _ _)
  change execFput o s = _
  rw [execFput, ha, hc, slotOr_none, haccess]

/-- FPUT to a future in the granary: its nine bytes (R38, R39). -/
theorem State.futureBytes_granary {s : State} (h : s.Canonical) {c a : Nat} (hlo : 0x10000000 ≤ a) (hhi : a < 0x16000000) (v x : Nat) :
    OnlyMem s (s.futureBytes c a v x) ∧ (s.futureBytes c a v x).readLocal c a 8 = v % 256 ^ 8 ∧
      (s.futureBytes c a v x).readLocal c (a + 8) 1 = x % 256 ^ 1 ∧
      SameOutside s (s.futureBytes c a v x) (.granary (dieOf c)) (a - 0x10000000) 9 := by
  have hplace (b : Nat) (hb : 0x10000000 ≤ b) (hb' : b < 0x20000000) : localPlace c b = (.granary (dieOf c), b - 0x10000000) := by
    rw [localPlace, if_neg (by omega), if_pos hb']
  have hnext : a + 8 - 0x10000000 = a - 0x10000000 + 8 := by omega
  simp only [State.futureBytes, State.writeLocal, State.readLocal, hplace a hlo (by omega), hplace (a + 8) (by omega) (by omega), hnext]
  exact State.writeLE_writeLE h (by simp only [place]; omega) v x

theorem OnlyMem.tasks_eq {s t : State} (h : OnlyMem s t) : t.tasks = s.tasks := by rw [h.1]

/-- Where only memory differs, the tasks may be put in place of others. -/
theorem OnlyMem.with_tasks {s t : State} (h : OnlyMem s t) (l : Sparse Task) :
    ({ t with tasks := l } : State) = { s with mem := t.mem, fields := t.fields, tasks := l } := by
  rw [h.1]

theorem OnlyMem.with_own_tasks {s t : State} (h : OnlyMem s t) : OnlyMem s { t with tasks := s.tasks } :=
  ⟨h.with_tasks s.tasks, h.2⟩

/-- FPUT of core c fills the task that waits for the future (R39). -/
theorem Task.filledBy_of_well {c a v j : Nat} {t : Task} {w : Well} (hd : dieOf (coreOf j) = dieOf c) (hw : t.well = some w) (ha : w.addr = a) :
    Task.filledBy c a v j t = t.unparked w.ret v := by
  subst ha
  rw [Task.filledBy, if_pos hd, Task.fillWell_of_well hw]

theorem Task.filledBy_of_not {c a j : Nat} {t : Task} (h : dieOf (coreOf j) ≠ dieOf c ∨ ∀ w, t.well = some w → w.addr ≠ a) (v : Nat) :
    Task.filledBy c a v j t = t := by
  unfold Task.filledBy
  split
  · next hd => exact Task.fillWell_of_not (h.resolve_left fun hn => hn hd) v
  · rfl

/-! ## WAITF -/

/-- A plain access of the issuing task to a free port has the effect on the task that its performing has. -/
theorem State.access_plain_task {s : State} (h : s.Canonical) (hp : PortFree s) (hw : Unwatched s) {a : Access} (hk : a.kind.plain = true)
    (hd : a.did = []) {f : Task → Task} (hdo : (s.withPort a).doAccess s.me a = (s.withPort a).modTask s.me f)
    (hf : ∀ t p w, f (Task.atPort t p w) = (f t).atPort p w) : s.access a = s.modTask s.me f :=
  State.access_plain h hp hw hk hd (g := fun u => u.modTask s.me f) hdo
    (fun p w => by
      rw [State.modTask_modTask h, State.modTask_modTask h]
      exact State.modTask_congr _ (hf _ _ _))
    (State.modTask_canonical h _ _) hp.2.2.2.2

/-- A change of one entry that the condition does not see leaves the number of entries that meet it. -/
theorem Sparse.length_filter_set {α : Type} [DecidableEq α] {d : α} (m : Sparse α) (k : Nat) {v : α} {q : Nat × α → Bool}
    (hd : ∀ i, q (i, d) = false) (hv : q (k, v) = q (k, Sparse.get d m k)) :
    ((Sparse.set d m k v).filter q).length = (m.filter q).length := by
  induction m with
  | nil =>
    rw [Sparse.get, hd] at hv
    rw [Sparse.set]
    split
    · rfl
    · simp [hv]
  | cons x m ih =>
    obtain ⟨j, w⟩ := x
    rw [Sparse.set]
    split
    · next hj =>
      subst hj
      rw [Sparse.get, if_pos rfl] at hv
      split
      · next hd' => simp [← hv, hd', hd]
      · simp [List.filter_cons, hv, apply_ite List.length]
    · next hj =>
      split
      · next hlt =>
        rw [Sparse.get, if_neg hj, if_pos hlt, hd] at hv
        split
        · rfl
        · simp [hv]
      · next hlt =>
        rw [Sparse.get, if_neg hj, if_neg hlt] at hv
        simp [List.filter_cons, apply_ite List.length, ih hv]

/-- The wait well counts tasks with an entry, so that a change that leaves a task's entry leaves the count (R40). -/
theorem State.wellUse_modTask (s : State) (k : Nat) {f : Task → Task} (hf : ∀ t, (f t).well = t.well) (p : Nat → Bool) :
    (s.modTask k f).wellUse p = s.wellUse p :=
  Sparse.length_filter_set s.tasks k (q := fun x => x.2.well.isSome && p (coreOf x.1)) (fun _ => rfl) (by rw [hf])

theorem State.wellRoom_modTask (s : State) (k : Nat) {f : Task → Task} (hf : ∀ t, (f t).well = t.well) (c : Nat) :
    (s.modTask k f).wellRoom c = s.wellRoom c := by
  unfold State.wellRoom
  rw [State.wellUse_modTask s k hf]
  have h : (s.modTask k f).fieldOf c = s.fieldOf c := rfl
  rw [h]
  split
  · next j _ => rw [State.wellUse_modTask s k hf]; rfl
  · rfl

/-- A task whose WAITF, of return n and gate g, has parked it on the empty future at a (R39). -/
def Task.parkedOn (t : Task) (a n g : Nat) : Task :=
  match t.rets.find? (fun r => some n = some r.id) with
  | some r => { t with st := if t.st = .runnable then .parked else t.st, kind := .waitf, well := some ⟨a, (r.rng.getD (0, 0)).1, g, r.id⟩ }
  | none => t

/-- A return that is added with a new number is the one of that number. -/
theorem Task.parkedOn_addRet {k : Task} (h : ∀ r ∈ k.rets, r.id ≠ k.nextRet) (a v n g : Nat) :
    (k.addRet (some (v, n)) (some g) none).parkedOn a k.nextRet g = { k.addRet (some (v, n)) (some g) none with
      st := if k.st = .runnable then .parked else k.st, kind := .waitf, well := some ⟨a, v, g, k.nextRet⟩ } := by
  have hfind : (k.addRet (some (v, n)) (some g) none).rets.find? (fun r => some k.nextRet = some r.id) =
      some ⟨k.nextRet, some (v, n), some g, none, none, false, false⟩ := by
    have hold : k.rets.find? (fun r => some k.nextRet = some r.id) = none := by
      refine List.find?_eq_none.2 fun r hr => ?_
      simpa using (h r hr).symm
    simp only [Task.addRet, List.find?_append, hold, Option.none_or]
    simp
  unfold Task.parkedOn
  rw [hfind]
  rfl

theorem Task.parkedOn_atPort (t : Task) (a n g : Nat) (p : List Access) (l : Option Nat) :
    (t.atPort p l).parkedOn a n g = (t.parkedOn a n g).atPort p l := by
  unfold Task.parkedOn Task.atPort
  dsimp only
  split
  · rfl
  · rfl

theorem Task.writeRet_atPort (t : Task) (r : Ret) (p : List Access) (l : Option Nat) : (t.atPort p l).writeRet r = (t.writeRet r).atPort p l := rfl

/-- A return written over what a replay entry has yet to land (R72, R73). -/
def Task.patchEntry (lay : SliceFile → SliceFile) (t : Task) (e : Nat × REntry) : Task :=
  match e.2.dst with
  | .list a n => { t with shadow := shadowWrite t.shadow (.list a n) (e.2.dst.patch (e.2.val t.shadow) lay) }
  | _ => { t with replay := Sparse.set 0 t.replay e.1 (REntry.bits { e.2 with value := (e.2.dst.patch (e.2.val t.shadow) lay).toNat }) }

/-- A return written over what is in flight. -/
def Task.patchFlight (lay : SliceFile → SliceFile) (t : Task) : Task :=
  { t with flight := t.flight.map fun (f : Flight) => { f with val := f.dst.patch f.val lay } }

theorem Task.forceRet_eq (t : Task) (r : Ret) : t.forceRet r =
    (t.entries.foldl (Task.patchEntry fun sf => (Task.writeRet { t with sf := sf } r).sf)
      (t.patchFlight fun sf => (Task.writeRet { t with sf := sf } r).sf)).writeRet r := by
  refine congrArg (Task.writeRet · r) (List.foldl_hom id fun u e => ?_)
  unfold Task.patchEntry
  cases e.2.dst <;> rfl

theorem Task.patchEntry_atPort (lay : SliceFile → SliceFile) (t : Task) (e : Nat × REntry) (p : List Access) (l : Option Nat) :
    (t.atPort p l).patchEntry lay e = (t.patchEntry lay e).atPort p l := by
  unfold Task.patchEntry
  split
  · rfl
  · rfl

theorem Task.forceRet_atPort (t : Task) (r : Ret) (p : List Access) (l : Option Nat) : (t.atPort p l).forceRet r = (t.forceRet r).atPort p l := by
  rw [Task.forceRet_eq, Task.forceRet_eq, ← Task.writeRet_atPort,
    ← List.foldl_hom (fun t => Task.atPort t p l) fun u e => Task.patchEntry_atPort _ u e p l]
  rfl

theorem Task.gateRet_atPort (t : Task) (n : Nat) (p : List Access) (l : Option Nat) : (t.atPort p l).gateRet n = (t.gateRet n).atPort p l := by
  have h : (t.atPort p l).rets = t.rets := rfl
  unfold Task.gateRet
  rw [h]
  split
  · exact Task.forceRet_atPort _ _ _ _
  · rfl

theorem exec_waitf {s : State} {x : Ctl} {f : Nat} (ha : s.acts x.lc x.p = true) (hc : s.windowCause (s.rd f 32 / 16 * 16) 16 = none) (v g : Nat) :
    exec (.waitf x f v g) s = .next ((s.modTask s.me fun t => t.addRet (some (v, 16)) (some g) none).access
      ⟨.waitf g, s.rd f 32 / 16 * 16, some (s.task s.me).nextRet, []⟩) := by
  change execWaitf x f v g s = _
  rw [execWaitf, ha, show s.windowCause (s.futureAddr f) 16 = none from hc, slotOr_none]
  rfl

/-- What the performing of WAITF does to its task: a full future answers, an empty one parks it where the well has room (R39, R40). -/
def State.waitfStep (s : State) (a id g : Nat) (t : Task) : Task :=
  if s.readLocal s.myCore (a + 8) 1 % 2 = 1 then t.fillRet id (s.readLocal s.myCore a 8) true
  else if s.wellRoom s.myCore then t.parkedOn a id g
  else t.gateRet id

theorem State.waitfStep_atPort (s : State) (a id g : Nat) (t : Task) (p : List Access) (l : Option Nat) :
    s.waitfStep a id g (t.atPort p l) = (s.waitfStep a id g t).atPort p l := by
  unfold State.waitfStep
  split
  · rfl
  · split
    · exact t.parkedOn_atPort a id g p l
    · exact t.gateRet_atPort id p l

theorem State.doAccess_waitf (s : State) (tk a id g : Nat) : s.doAccess tk ⟨.waitf g, a, some id, []⟩ =
    if s.readLocal (coreOf tk) (a + 8) 1 % 2 = 1 then s.modTask tk fun t => t.fillRet id (s.readLocal (coreOf tk) a 8) true
    else if s.wellRoom (coreOf tk) then s.modTask tk fun t => t.parkedOn a id g
    else s.modTask tk fun t => t.gateRet id := rfl

/-- A state with the memory and the room that s has performs WAITF as s does. -/
theorem State.doAccess_waitfStep (s u : State) (a id g : Nat) (hm : u.mem = s.mem) (hr : u.wellRoom s.myCore = s.wellRoom s.myCore) :
    u.doAccess s.me ⟨.waitf g, a, some id, []⟩ = u.modTask s.me (s.waitfStep a id g) := by
  have hread (b n : Nat) : u.readLocal (coreOf s.me) b n = s.readLocal s.myCore b n := by
    simp only [State.readLocal, State.readLE, hm]
    rfl
  have hr : u.wellRoom (coreOf s.me) = s.wellRoom s.myCore := hr
  rw [State.doAccess_waitf, hread, hread, hr]
  unfold State.waitfStep
  split
  · rfl
  · split
    · rfl
    · rfl

/-- WAITF with a free port: its return is outstanding, and then the future answers, parks the task, or gives up. -/
theorem exec_waitf_free {s : State} (hs : s.Canonical) (hp : PortFree s) (hu : Unwatched s) {x : Ctl} {f : Nat} (ha : s.acts x.lc x.p = true)
    (hc : s.windowCause (s.rd f 32 / 16 * 16) 16 = none) (v g : Nat) : exec (.waitf x f v g) s = .next (s.modTask s.me fun t =>
      s.waitfStep (s.rd f 32 / 16 * 16) (s.task s.me).nextRet g (t.addRet (some (v, 16)) (some g) none)) := by
  have hs' := State.modTask_canonical hs s.me fun t => t.addRet (some (v, 16)) (some g) none
  have hp' := hp.modTask hs (f := fun t => t.addRet (some (v, 16)) (some g) none) fun _ => ⟨rfl, rfl, rfl⟩
  rw [exec_waitf ha hc, State.access_plain_task hs' hp' hu (f := s.waitfStep (s.rd f 32 / 16 * 16) (s.task s.me).nextRet g) rfl rfl
    (State.doAccess_waitfStep s _ _ _ _ rfl ?_) (s.waitfStep_atPort _ _ _), State.modTask_me, State.modTask_modTask hs]
  refine (State.wellRoom_modTask _ _ ?_ _).trans (State.wellRoom_modTask _ _ ?_ _)
  · exact fun _ => rfl
  · exact fun _ => rfl

/-- Settles O25: FPUT's access fills the future and the wells, WAITF's access is one step of its own task. -/
theorem futuresFillAndWait : Obligations.FuturesFillAndWait := by
  intro s hs hp hu c k full
  constructor
  · intro o ha hc a hlo hhi
    have hx := s.readLocal_lt c (a + 8) 1
    obtain ⟨hmem, hval, hbit, hout⟩ := State.futureBytes_granary hs (c := c) hlo hhi (s.rd o.s 64) (s.readLocal c (a + 8) 1 / 2 * 2 + 1)
    rw [Nat.mod_eq_of_lt (by exact s.rd_lt o.s 64)] at hval
    rw [Nat.mod_eq_of_lt (by omega)] at hbit
    by_cases hfull : full a
    · refine ⟨_, (exec_fput hs hp hu ha hc).trans (congrArg _ (State.fillFuture_of_full hfull _)), ?_⟩
      have htask := hmem.tasks_eq
      refine ⟨?_, ?_, hval, hbit, hout, fun _ => htask, fun h => absurd hfull h, fun j _ => by simp only [State.task, htask]⟩
      · exact hmem.with_tasks _
      · exact hmem.with_own_tasks
    · refine ⟨_, (exec_fput hs hp hu ha hc).trans (congrArg _ (State.fillFuture_of_empty hfull _)), hmem.with_tasks _, hmem.with_own_tasks, hval, hbit,
        hout, fun h => absurd h hfull, ?_⟩
      have htask (j : Nat) : (State.fillWells (s.futureBytes c a (s.rd o.s 64) (s.readLocal c (a + 8) 1 / 2 * 2 + 1)) c a (s.rd o.s 64)).task j =
          Task.filledBy c a (s.rd o.s 64) j (s.task j) := by
        rw [State.fillWells_task ((writes_futureBytes _ _ _ _).canonical s hs)]
        simp only [State.task, hmem.tasks_eq]
      refine ⟨fun _ j w hd hw hwa => ?_, fun j hj => ?_⟩
      · exact (htask j).trans (Task.filledBy_of_well hd hw hwa)
      · exact (htask j).trans (Task.filledBy_of_not hj _)
  · intro x f v g ha a hc u
    refine ⟨_, exec_waitf_free hs hp hu ha hc v g, State.modTask_onlyTask hs _ _, ?_⟩
    rw [State.task_modTask_self hs.2.1]
    refine ⟨fun hfull => if_pos hfull, fun hempty hroom hnew => ?_, fun hempty hroom => ?_⟩
    · rw [State.waitfStep, if_neg hempty, if_pos hroom]
      exact Task.parkedOn_addRet hnew _ _ _ _
    · rw [State.waitfStep, if_neg hempty, if_neg (by rw [show s.wellRoom s.myCore = false from hroom]; decide)]

end Sys2Proof.Machine
end

section
/-! Words that arrive and lock bits that move (R18, R33, R55, R150, R153, R275). -/

namespace Sys2Proof.Machine

/-! ## Words -/

theorem State.wordArrives_of_behind {s : State} {i : Nat} {m : MeshWord} (h : s.mesh[i]? = some m) (hb : 0 < m.behind) : s.wordArrives i = s := by
  simp [State.wordArrives, h, hb]

/-- A word that nothing holds is discarded where no interface takes it, and else enters its channel if there is room (R153). -/
theorem State.wordArrives_of_free {s : State} {i : Nat} {m : MeshWord} (h : s.mesh[i]? = some m) (hb : m.behind = 0)
    (hfirst : ∀ j x, j < i → s.mesh[j]? = some x → ¬ (x.src = m.src ∧ x.core = m.core ∧ x.vc = m.vc)) :
    s.wordArrives i = if s.takesWords m.core = false then { s with mesh := s.mesh.eraseIdx i }
      else if 8 ≤ ((s.tile m.core).vc m.vc).length then s else State.vcPut { s with mesh := s.mesh.eraseIdx i } m.core m.vc m.word := by
  have hno : ((s.mesh.take i).any fun x => decide (x.src = m.src ∧ x.core = m.core ∧ x.vc = m.vc)) = false := by
    refine List.any_eq_false.2 fun x hx => ?_
    obtain ⟨j, hj, rfl⟩ := List.mem_take_iff_getElem.1 hx
    have := hfirst j _ (by omega) (List.getElem?_eq_getElem (by omega))
    simpa using this
  simp only [State.wordArrives, h, hb, hno]
  simp

theorem State.vcPut_of_unbound {s : State} {c n : Nat} (h : s.boundTo c n = none) (w : Word64) :
    s.vcPut c n w = s.modTile c fun t => { t with vcs := Sparse.set [] t.vcs n (t.vc n ++ [w]) } := by
  simp only [State.vcPut, h]

theorem State.vcPut_of_bound {s : State} {c n b : Nat} (h : s.boundTo c n = some b) (w : Word64) :
    s.vcPut c n w = (s.modTile c fun t => { t with vcs := Sparse.set [] t.vcs n (t.vc n ++ [w]) }).modTask b Task.wordWake := by
  simp only [State.vcPut, h]

/-! ## Lock bits of tasks -/

/-- With an empty port, a task that has not parked is left as it is. -/
theorem State.drain_of_empty {s : State} {tk : Nat} (hp : (s.task tk).port = []) (hst : (s.task tk).st ≠ .parked) : s.drain tk = s := by
  have hafter : s.afterPort tk = s := if_neg hst
  unfold State.drain
  rw [hp]
  split
  · exact hafter
  · exact hafter

/-- LDL performs: its lock bit is taken and its value returns (R150). -/
theorem State.perform_ldl {s : State} {tk n addr r lk : Nat}
    (hw : ∀ w, w < 8 → bitB ((s.die (dieOf (coreOf tk))).reg (0x132 + 4 * w)) 0 = false) (hl : lockOf (coreOf tk) addr = some lk) :
    s.perform tk ⟨.ldl n, addr, some r, []⟩ = (s.takeLock lk tk).modTask tk fun t => t.fillRet r (s.readLocal (coreOf tk) addr n) false := by
  change s.performWhole tk _ = _
  simp only [State.performWhole, State.watchLocal_off hw, hl]
  rfl

theorem State.modLock_canonical {s : State} (h : s.Canonical) (k : Nat) (f : Lock → Lock) : (s.modLock k f).Canonical := by
  obtain ⟨hmem, htasks, htiles, hcells, hcmds, hlocks, hrest⟩ := h
  exact ⟨hmem, htasks, htiles, hcells, hcmds, Sparse.wf_modify hlocks _ _, hrest⟩

/-- A lock bit given to a task. -/
def Lock.givenTo (l : Lock) (tk : Nat) : Lock := if l.heldBy tk then l else { l with held := true, byCell := false, holder := tk, cycles := 0 }

/-- A free bit goes to the task whose LDL waits for it, and the load performs. -/
theorem State.grantLock_ldl {s : State} (hs : s.Canonical) {lk k n a r : Nat} {rest : List (Bool × Nat × Nat)}
    (hwait : (s.lockBit lk).waiters = (false, k, 0) :: rest) (hheld : (s.lockBit lk).held = false) (hruns : s.portRuns (coreOf k) = true)
    (hport : (s.task k).port = [⟨.ldl n, a, some r, []⟩]) (hl : lockOf (coreOf k) a = some lk) (hst : (s.task k).st = .runnable)
    (hb : NoneBehind s k) (hw : ∀ w, w < 8 → bitB ((s.die (dieOf (coreOf k))).reg (0x132 + 4 * w)) 0 = false) :
    s.grantLock lk = ((s.modLock lk fun l => { l with waiters := rest }).modLock lk fun l => l.givenTo k).modTask k fun t =>
      { t.fillRet r (s.readLocal (coreOf k) a n) false with port := [], waitLock := none } := by
  let s1 := (s.modLock lk fun l => { l with waiters := rest }).modTask k fun t => { t with waitLock := none }
  have hgrant : s.grantLock lk = ((s1.perform k ⟨.ldl n, a, some r, []⟩).popPort k).drain k := by
    simp only [State.grantLock, hwait, hheld, hruns, hport, Bool.false_eq_true, if_false, Bool.not_true]
    rfl
  have hperf : s1.perform k ⟨.ldl n, a, some r, []⟩ = (s1.takeLock lk k).modTask k fun t => t.fillRet r (s.readLocal (coreOf k) a n) false :=
    State.perform_ldl hw hl
  let s2 := (s.modLock lk fun l => { l with waiters := rest }).modLock lk fun l => l.givenTo k
  have hs2 : s2.Canonical := State.modLock_canonical (State.modLock_canonical hs _ _) _ _
  have htaken : s1.takeLock lk k = s2.modTask k fun t => { t with waitLock := none } := rfl
  have hpop : (s1.perform k ⟨.ldl n, a, some r, []⟩).popPort k = s2.modTask k fun t =>
      { t.fillRet r (s.readLocal (coreOf k) a n) false with port := [], waitLock := none } := by
    rw [hperf, htaken, State.modTask_modTask hs2, State.popPort_free (State.modTask_canonical hs2 _ _) k hb, State.modTask_modTask hs2]
    apply State.modTask_congr
    have htask : (s2.task k).port = [⟨.ldl n, a, some r, []⟩] := hport
    simp only [Task.fillRet, htask, List.eraseIdx_zero, List.tail_cons]
  have htask := State.task_modTask_self hs2.2.1 k fun t => { t.fillRet r (s.readLocal (coreOf k) a n) false with port := [], waitLock := none }
  rw [hgrant, hpop]
  refine State.drain_of_empty (by rw [htask]) ?_
  rw [htask]
  change (s.task k).st ≠ .parked
  rw [hst]
  decide

theorem Lock.expired_of_held {l : Lock} (hh : l.held = true) (hc : 12 * 4096 ≤ l.cycles) : l.expired = true := by
  simp [Lock.expired, hh, hc]

/-- A task's bit that expired is freed, and LOCK_HELD is due (R54, R150). -/
theorem exec_lockHeldTimeout {s : State} {lk : Nat} (hh : (s.lockBit lk).held = true) (hb : (s.lockBit lk).byCell = false)
    (hc : 12 * 4096 ≤ (s.lockBit lk).cycles) (hst : (s.task (s.lockBit lk).holder).st = .runnable) :
    exec (.lockHeldTimeout lk) s = .next ((s.releaseLock lk).modTask (s.lockBit lk).holder fun t =>
      { t with asyncs := t.asyncs ++ [(.lockHeld, lockInfo lk, 0)] }) := by
  have hraise : (s.releaseLock lk).raiseAsync (s.lockBit lk).holder .lockHeld (lockInfo lk) = (s.releaseLock lk).modTask (s.lockBit lk).holder
      fun t => { t with asyncs := t.asyncs ++ [(.lockHeld, lockInfo lk, 0)] } := by
    have hst : ((s.releaseLock lk).task (s.lockBit lk).holder).st = .runnable := hst
    simp only [State.raiseAsync, hst]
  change execLockHeldTimeout lk s = _
  simp only [execLockHeldTimeout, Lock.expired_of_held hh hc, hb, Bool.not_false, Bool.and_self, if_true, hraise]

/-- A cell's bit that expired is freed, and the cell's field faults (R55, R275). -/
theorem exec_cellLockHeldTimeout {s : State} {lk f : Nat} (hh : (s.lockBit lk).held = true) (hb : (s.lockBit lk).byCell = true)
    (hc : 12 * 4096 ≤ (s.lockBit lk).cycles) (hf : s.fieldOf (coreOfCell (s.lockBit lk).holder) = some f) :
    exec (.cellLockHeldTimeout lk) s = .next ((s.releaseLock lk).fieldFault f .lockHeld (tileOf (coreOfCell (s.lockBit lk).holder))
      (s.cell (s.lockBit lk).holder).group ((s.lockBit lk).holder % 256) (lockInfo lk)) := by
  have hf : (s.releaseLock lk).fieldOf (coreOfCell (s.lockBit lk).holder) = some f := hf
  change execCellLockHeldTimeout lk s = _
  simp only [execCellLockHeldTimeout, Lock.expired_of_held hh hc, hb, Bool.and_self, if_true, State.cellFault, hf]
  rfl

/-! ## A field fault freezes its field -/

/-- What writing a trace record can change: memory, packets to peers, the commands they are of, and the die (R379). -/
def TraceFrame (s t : State) : Prop :=
  ∃ m fb c d, t = { s with mem := m, fab := fb, cmds := c, dies := d } ∧ (Sparse.wf ({} : Die) s.dies = true → Sparse.wf ({} : Die) d = true)

theorem TraceFrame.refl (s : State) : TraceFrame s s := ⟨_, _, _, _, rfl, id⟩

theorem TraceFrame.trans {s t u : State} (h : TraceFrame s t) (h' : TraceFrame t u) : TraceFrame s u := by
  obtain ⟨m, fb, c, d, rfl, hd⟩ := h
  obtain ⟨m', fb', c', d', rfl, hd'⟩ := h'
  exact ⟨m', fb', c', d', rfl, fun h => hd' (hd h)⟩

theorem TraceFrame.modDie (s : State) (k : Nat) (f : Die → Die) : TraceFrame s (s.modDie k f) :=
  ⟨_, _, _, _, rfl, fun h => Sparse.wf_modify h k f⟩

theorem TraceFrame.peerByte (s : State) (key m a : Nat) (b : Byte) : TraceFrame s (s.peerByte key m a b) := by
  unfold State.peerByte
  dsimp only
  split
  · split
    · split
      · exact ⟨_, _, _, _, rfl, id⟩
      · exact ⟨_, _, _, _, rfl, id⟩
    · exact ⟨_, _, _, _, rfl, id⟩
  · exact ⟨_, _, _, _, rfl, id⟩

theorem TraceFrame.writeDva {s t : State} {via : Via} {a key : Nat} {l : List Byte} (h : s.writeDva via a l key = some t) : TraceFrame s t := by
  induction l generalizing s a with
  | nil =>
    obtain rfl : s = t := Option.some.inj h
    exact TraceFrame.refl s
  | cons b l ih =>
    unfold State.writeDva at h
    split at h
    · exact TraceFrame.trans ⟨_, _, _, _, rfl, id⟩ (ih h)
    · exact (TraceFrame.peerByte s _ _ _ _).trans (ih h)
    · cases h

theorem TraceFrame.traceWrite (s : State) (dn k rcd : Nat) : TraceFrame s (s.traceWrite dn k rcd) := by
  unfold State.traceWrite
  dsimp only
  split
  · exact TraceFrame.refl s
  · split
    · exact TraceFrame.modDie s _ _
    · split
      · next u hu => exact (TraceFrame.writeDva hu).trans (TraceFrame.modDie u _ _)
      · exact TraceFrame.modDie s _ _

theorem TraceFrame.traceEvent (s : State) (dn k info tile fld ver : Nat) : TraceFrame s (s.traceEvent dn k info tile fld ver) :=
  TraceFrame.traceWrite s dn k _

/-- Steps that change tasks only, one after the other, change tasks only. -/
theorem foldl_tasks {α : Type} {g : State → α → State} (hg : ∀ s x, ∃ l, g s x = { s with tasks := l }) (xs : List α) (s : State) :
    ∃ l, xs.foldl g s = { s with tasks := l } := by
  induction xs generalizing s with
  | nil => exact ⟨_, rfl⟩
  | cons x xs ih =>
    obtain ⟨l, h⟩ := hg s x
    rw [List.foldl_cons, h]
    exact ih _

theorem State.landField_tasks (s : State) (k : Nat) : ∃ l, s.landField k = { s with tasks := l } :=
  foldl_tasks (fun u _ => foldl_tasks (fun _ _ => ⟨_, rfl⟩) _ u) _ s

/-- A field as a fault freezes it. -/
def Field.frozenBy (x : Field) (cause : Cause) (cycle : Nat) : Field :=
  { x with st := .frozen, stopping := false, closing := none, cause := some (causeCode cause), dump := some cycle, frozenAt := cycle }

/-- A field that a fault freezes at once: besides the field, its tasks, commands and the trace change. -/
theorem State.freezeNow_frame (s : State) (k : Nat) (cause : Cause) : ∃ l c, TraceFrame
    ({ s with tasks := l, cmds := c }.modField k fun f => f.frozenBy cause s.cycle) (s.freezeNow k cause false) := by
  obtain ⟨l, hl⟩ := s.landField_tasks k
  simp only [State.freezeNow, Bool.false_eq_true, if_false, hl]
  exact ⟨_, _, TraceFrame.traceEvent _ _ _ _ _ _ _⟩

/-- The record of a field fault (R55, R368). -/
def State.fieldFRec (s : State) (k : Nat) (c : Cause) (tile group cell info : Nat) : FRec :=
  ⟨2, c, k / 256, k % 256, (s.field k).ver, tile, 255, 0, group, cell, info, 0, 0, s.cycle⟩

/-- A fault of a field that runs and is not being frozen freezes it and sends one record. -/
theorem State.fieldFault_of_runs {s : State} {k : Nat} (hr : (s.field k).st = .live ∨ (s.field k).st = .loading) (hc : (s.field k).closing = none)
    (c : Cause) (tile group cell info : Nat) : s.fieldFault k c tile group cell info =
      (s.freeze k c false).modDie (k / 256) fun d => { d with recs := d.recs ++ [s.fieldFRec k c tile group cell info] } := by
  have hruns : (s.field k).runs = true := by simpa [Field.runs] using hr
  simp only [State.fieldFault, hruns, hc, Option.isNone_none, Bool.and_self, if_true]
  exact State.pushRec_of_kind (r := s.fieldFRec k c tile group cell info) (show (2 : Nat) ≠ 5 by decide)

theorem State.freeze_of_open {s : State} {k : Nat} (h : s.returnsOpen k = true) (c : Cause) :
    s.freeze k c false = s.modField k fun f => { f with stopping := true, closing := some (c, false) } := if_pos h

theorem State.freeze_of_closed {s : State} {k : Nat} (h : s.returnsOpen k = false) (c : Cause) : s.freeze k c false = s.freezeNow k c false := by
  simp only [State.freeze, h, Bool.false_eq_true, if_false]

theorem exec_vcWordArrival (s : State) (i : Nat) : exec (.vcWordArrival i) s = .next (s.wordArrives i) := rfl

theorem exec_lockBitGrant (s : State) (lk : Nat) : exec (.lockBitGrant lk) s = .next (s.grantLock lk) := rfl

/-- A free bit given to a task has counted no cycles (R150). -/
theorem Lock.givenTo_of_free {l : Lock} (h : l.held = false) (tk : Nat) : l.givenTo tk = { held := true, holder := tk, waiters := l.waiters } := by
  have hno : l.heldBy tk = false := by simp [Lock.heldBy, h]
  rw [Lock.givenTo, if_neg (by simp [hno])]

theorem State.releaseLock_lockBit {s : State} (hs : s.Canonical) (lk j : Nat) :
    (s.releaseLock lk).lockBit j = if lk = j then { waiters := (s.lockBit lk).waiters } else s.lockBit j :=
  State.lockBit_modLock hs.2.2.2.2.2.1 _ _ _

/-- CELL_LOCK_HELD_TIMEOUT while a return is outstanding: the field stops and is to freeze (R73, R275). -/
theorem State.releaseLock_freeze_open {s : State} {lk f : Nat} (h : s.returnsOpen f = true) (c : Cause) : (s.releaseLock lk).freeze f c false =
    (s.releaseLock lk).modField f fun x => { x with stopping := true, closing := some (c, false) } :=
  State.freeze_of_open (s := s.releaseLock lk) h c

/-- With no return outstanding it freezes at once: of the locks, fields and cells, only it and the bit change. -/
theorem State.releaseLock_freeze_closed {s : State} (hs : s.Canonical) {lk f : Nat} (h : s.returnsOpen f = false) (c : Cause) :
    ∃ t, (s.releaseLock lk).freeze f c false = t ∧ t.locks = (s.releaseLock lk).locks ∧ t.cells = s.cells ∧
      t.fields = Sparse.modify {} s.fields f (fun x => x.frozenBy c s.cycle) ∧ Sparse.wf ({} : Die) t.dies = true := by
  obtain ⟨l, cm, m, fb, c', d, heq, hd⟩ := (s.releaseLock lk).freezeNow_frame f c
  refine ⟨_, (State.freeze_of_closed (s := s.releaseLock lk) h c).trans heq, rfl, rfl, rfl, hd hs.2.2.2.2.2.2.2⟩

/-- Settles O43: each event is its own update, of a channel and the bound task, of a lock bit and its task, or of a lock bit and a field. -/
theorem wordsArriveAndLockBitsMove : Obligations.WordsArriveAndLockBitsMove := by
  intro s hs
  have hwf := hs
  obtain ⟨-, htasks, htiles, -, -, hlocks, hfields, -⟩ := hwf
  refine ⟨fun i m hm hb => ?_, fun i m hm hb hfirst => ⟨fun hno => ?_, fun htakes hroom => ?_⟩, ?_, ?_, ?_⟩
  · rw [exec_vcWordArrival, State.wordArrives_of_behind hm hb]
  · rw [exec_vcWordArrival, State.wordArrives_of_free hm hb hfirst, if_pos hno]
  · rw [exec_vcWordArrival, State.wordArrives_of_free hm hb hfirst, if_neg (by simp [htakes]), if_neg (by omega)]
    refine ⟨_, _, rfl, State.modTile_onlyTile (s := { s with mesh := s.mesh.eraseIdx i }) hs m.core
      fun t => { t with vcs := Sparse.set [] t.vcs m.vc (t.vc m.vc ++ [m.word]) }, State.tile_modTile_self (by exact htiles) _ _,
      fun hnone => ?_, fun b hsome => ?_⟩
    · exact State.vcPut_of_unbound (by exact hnone) _
    · rw [State.vcPut_of_bound (s := { s with mesh := s.mesh.eraseIdx i }) hsome]
      exact ⟨⟨rfl, fun j hj => State.task_modTask_ne (by exact htasks) hj _⟩, State.task_modTask_self (by exact htasks) _ _⟩
  · intro lk k n a r rest hwait hheld hruns hport hl hst hb hw
    have hc := State.modLock_canonical hs lk fun l => { l with waiters := rest }
    rw [exec_lockBitGrant, State.grantLock_ldl hs hwait hheld hruns hport hl hst hb hw]
    refine ⟨_, rfl, rfl, fun j hj => State.task_modTask_ne (by exact htasks) hj _, fun j hj => ?_, State.task_modTask_self (by exact htasks) _ _, ?_⟩
    · rw [State.modTask_lockBit, State.lockBit_modLock_ne hc.2.2.2.2.2.1 hj, State.lockBit_modLock_ne hlocks hj]
    · rw [State.modTask_lockBit, State.lockBit_modLock_self hc.2.2.2.2.2.1, State.lockBit_modLock_self hlocks]
      exact Lock.givenTo_of_free (l := { s.lockBit lk with waiters := rest }) hheld k
  · intro lk l hh hb hc hst
    refine ⟨_, exec_lockHeldTimeout hh hb hc hst, rfl, fun j hj => ?_, ?_, ⟨rfl, fun j hj => State.task_modTask_ne (by exact htasks) hj _⟩,
      State.task_modTask_self (by exact htasks) _ _⟩
    · exact (State.releaseLock_lockBit hs lk j).trans (if_neg (Ne.symm hj))
    · exact (State.releaseLock_lockBit hs lk lk).trans (if_pos rfl)
  · intro lk f l hh hb hc hf hrun hclosing
    have hexec := exec_cellLockHeldTimeout hh hb hc hf
    rw [State.fieldFault_of_runs (s := s.releaseLock lk) hrun hclosing] at hexec
    refine ⟨fun hopen => ?_, fun hclosed => ?_⟩
    · rw [State.releaseLock_freeze_open hopen] at hexec
      refine ⟨_, hexec, ?_, rfl, ?_⟩
      · rw [State.modDie_lockBit, State.modField_lockBit, State.releaseLock_lockBit hs, if_pos rfl]
      · rw [State.modDie_field, State.field_modField_self (by exact hfields)]
        rfl
    · obtain ⟨t, ht, htl, htc, htf, htd⟩ := State.releaseLock_freeze_closed hs (lk := lk) hclosed .lockHeld
      rw [ht] at hexec
      have hlock (j : Nat) : t.lockBit j = (s.releaseLock lk).lockBit j := by simp only [State.lockBit, htl]
      have hfield (j : Nat) : t.field j = if f = j then (s.field f).frozenBy .lockHeld s.cycle else s.field j := by
        simp only [State.field, htf]
        exact Sparse.get_modify hfields _ _ _
      refine ⟨_, hexec, fun j hj => ?_, ?_, ?_, ?_, fun j hj => ?_, htc,
        (s.releaseLock lk).fieldFRec f .lockHeld (tileOf (coreOfCell l.holder)) (s.cell l.holder).group (l.holder % 256) (lockInfo lk),
        ?_, rfl, rfl, rfl, rfl⟩
      · exact (hlock j).trans ((State.releaseLock_lockBit hs lk j).trans (if_neg (Ne.symm hj)))
      · exact (hlock lk).trans ((State.releaseLock_lockBit hs lk lk).trans (if_pos rfl))
      · rw [State.modDie_field, hfield, if_pos rfl]
        rfl
      · rw [State.modDie_field, hfield, if_pos rfl]
        rfl
      · rw [State.modDie_field, hfield, if_neg (Ne.symm hj)]
      · rw [State.die_modDie_self htd]
        exact List.mem_append_right _ List.mem_cons_self

end Sys2Proof.Machine
end

section
/-! The slice file and its gates: a read after a write, and what a write leaves alone (R59, R60, R67). -/

namespace Sys2Proof.Machine

theorem sfRead_testBit (sf : SliceFile) (a w i : Nat) :
    (sfRead sf a w).testBit i = (decide (i < w) && sf.getLsbD (4 * a + i)) := by
  rw [sfRead, Nat.testBit_mod_two_pow, BitVec.testBit_toNat, BitVec.getLsbD_ushiftRight]

theorem shiftLeft_one_getLsbD (g : Nat) {i : Nat} (hi : i < 512) : ((1#512) <<< g).getLsbD i = decide (i = g) := by
  rw [BitVec.getLsbD_shiftLeft, BitVec.getLsbD_one]
  by_cases h : i = g
  · simp [h, h ▸ hi]
  · simp [h]
    omega

/-- Bit i of a slice file after a gate is written. -/
theorem gateWrite_getLsbD (sf : SliceFile) (g : Nat) (b : Bool) {i : Nat} (hi : i < 512) :
    (gateWrite sf g b).getLsbD i = (decide (i = 0) || if i = g then b else sf.getLsbD i) := by
  have hput : ((if b then 1#512 else 0#512) <<< g).getLsbD i = (decide (i = g) && b) := by
    cases b
    · simp
    · simpa using shiftLeft_one_getLsbD g hi
  have hone : (1#512).getLsbD i = decide (i = 0) := by simp [BitVec.getLsbD_one]
  simp only [gateWrite, BitVec.getLsbD_or, BitVec.getLsbD_and, BitVec.getLsbD_not, shiftLeft_one_getLsbD g hi, hput, hone, hi,
    decide_true, Bool.true_and]
  by_cases hg : i = g <;> simp [hg, Bool.or_comm]

/-- Where g0 reads 1, forcing bit 0 changes nothing. -/
theorem getLsbD_forced_of_gate {sf : SliceFile} (h : gateRead sf 0 = true) (i : Nat) :
    (decide (i = 0) || sf.getLsbD i) = sf.getLsbD i := by
  by_cases h0 : i = 0
  · subst h0
    exact h.symm
  · rw [decide_eq_false h0, Bool.false_or]

/-- A range reads back what was written to it, but that bit 0 of slice 0 reads 1. -/
theorem sfRead_sfWrite_same (sf : SliceFile) {a n : Nat} (v : Nat) (h : a + n ≤ 128) :
    sfRead (sfWrite sf a n v) a (4 * n) = v % 2 ^ (4 * n) ||| (if a = 0 ∧ 1 ≤ n then 1 else 0) := by
  have hforced (i : Nat) : (if a = 0 ∧ 1 ≤ n then 1 else 0).testBit i = decide (4 * a + i = 0 ∧ 1 ≤ n) := by
    split
    · next h0 => simpa [h0, eq_comm] using Nat.testBit_two_pow (n := 0) (m := i)
    · next h0 => simp; omega
  refine Nat.eq_of_testBit_eq fun i => ?_
  rw [sfRead_testBit, Nat.testBit_or, hforced, Nat.testBit_mod_two_pow]
  by_cases hi : i < 4 * n
  · rw [sfWrite_getLsbD _ _ _ _ _ (by omega), if_pos (by omega), Nat.testBit_mod_two_pow, Nat.add_sub_cancel_left]
    simp [hi, show 1 ≤ n by omega, Bool.or_comm]
  · simp [hi]
    omega

/-- A range that a write does not touch reads as before, where g0 read 1. -/
theorem sfRead_sfWrite_disjoint {sf : SliceFile} (hg : gateRead sf 0 = true) {a n b m : Nat} (v : Nat) (hd : b + m ≤ a ∨ a + n ≤ b)
    (hb : b + m ≤ 128) : sfRead (sfWrite sf a n v) b (4 * m) = sfRead sf b (4 * m) := by
  refine Nat.eq_of_testBit_eq fun i => ?_
  rw [sfRead_testBit, sfRead_testBit]
  by_cases hi : i < 4 * m
  · rw [sfWrite_getLsbD _ _ _ _ _ (by omega), if_neg (by omega), getLsbD_forced_of_gate hg]
  · rw [decide_eq_false hi, Bool.false_and, Bool.false_and]

/-- Settles O6: each read is taken bit by bit. -/
theorem sliceWritesReadBack : Obligations.SliceWritesReadBack := by
  refine ⟨fun sf a n v hn hg => ⟨fun ha => ?_, fun ha h1 => ?_, fun b m hd hb => sfRead_sfWrite_disjoint hg v hd hb⟩,
    fun sf g v hlt hg => ⟨?_, fun i hi hne => ?_⟩⟩
  · rw [sfRead_sfWrite_same sf v hn, if_neg (by omega), Nat.or_zero]
  · rw [sfRead_sfWrite_same sf v hn, if_pos ⟨ha, h1⟩]
  · rw [gateRead, gateWrite_getLsbD sf g v (by omega), if_pos rfl, Bool.or_comm]
  · rw [gateWrite_getLsbD sf g v hi, if_neg hne, getLsbD_forced_of_gate hg]

end Sys2Proof.Machine
end

section
/-! Captured results: an entry of the replay buffer as its 96 bits, and when it lands (R74, R75, R76). -/

namespace Sys2Proof.Machine

/-- Every field of the entry fits its bits (R75). -/
def REntry.Fits (e : REntry) : Prop :=
  e.value < 2 ^ 64 ∧ e.start < 2 ^ 7 ∧ e.nsl < 2 ^ 4 ∧ e.rc < 2 ^ 3 ∧ e.seq < 2 ^ 4 ∧ e.lw < 2 ^ 7 ∧ e.top < 2 ^ 4

theorem b2n_le_one (b : Bool) : b2n b ≤ 1 := by
  cases b <;> decide

theorem b2n_eq_one (b : Bool) : decide (b2n b = 1) = b := by
  cases b <;> rfl

theorem REntry.bits_toNat {e : REntry} (h : e.Fits) : e.bits.toNat = e.value + 2 ^ 64 * (e.start + 2 ^ 7 * (e.nsl + 2 ^ 4 * (e.rc +
    2 ^ 3 * (e.seq + 2 ^ 4 * (b2n e.g + 2 * (b2n e.v + 2 * (b2n e.lst + 2 * (e.lw + 2 ^ 7 * e.top)))))))) := by
  obtain ⟨hvalue, hstart, hnsl, hrc, hseq, hlw, htop⟩ := h
  have hg := b2n_le_one e.g
  have hv := b2n_le_one e.v
  have hlst := b2n_le_one e.lst
  rw [REntry.bits, BitVec.toNat_ofNat]
  omega

theorem rEntry_bits {e : REntry} (h : e.Fits) : rEntry e.bits = e := by
  have hn := REntry.bits_toNat h
  obtain ⟨hvalue, hstart, hnsl, hrc, hseq, hlw, htop⟩ := h
  have hg := b2n_le_one e.g
  have hv := b2n_le_one e.v
  have hlst := b2n_le_one e.lst
  have hflag (b : Bool) {x : Nat} (hx : x = b2n b) : decide (x = 1) = b := by rw [hx, b2n_eq_one]
  show rEntry e.bits = ⟨e.value, e.start, e.nsl, e.rc, e.seq, e.g, e.v, e.lst, e.lw, e.top⟩
  simp only [rEntry, Sys2Proof.bits, bitB, hn, REntry.mk.injEq]
  refine ⟨?_, ?_, ?_, ?_, ?_, hflag _ ?_, hflag _ ?_, hflag _ ?_, ?_, ?_⟩ <;> omega

/-- A destination that one entry of the replay buffer can hold: at most 16 slices of the slice file, or a gate (R75). -/
def Dst.Captures (d : Dst) : Prop := (∃ a n, d = .range a n ∧ 1 ≤ n ∧ n ≤ 16 ∧ a + n ≤ 128) ∨ ∃ g, d = .gate g ∧ g < 16

theorem captureEntry_fits {d : Dst} (hd : d.Captures) {rc : Nat} (hrc : rc < 2 ^ 3) (v : BitVec 512) : (captureEntry 0 rc d v).Fits := by
  obtain ⟨a, n, rfl, h1, h16, hend⟩ | ⟨g, rfl, hg⟩ := hd
  · have hpow : 2 ^ (4 * n) ≤ 2 ^ 64 := Nat.pow_le_pow_right (by omega) (by omega)
    have hv := Nat.mod_lt v.toNat (Nat.two_pow_pos (4 * n))
    refine ⟨?_, ?_, ?_, hrc, ?_, ?_, ?_⟩ <;> simp only [captureEntry] <;> omega
  · refine ⟨?_, ?_, ?_, hrc, ?_, ?_, ?_⟩ <;> simp only [captureEntry] <;> omega

/-- The entry lands what its result would have. -/
theorem captureEntry_write {d : Dst} (hd : d.Captures) (rc : Nat) (v shadow : BitVec 512) (sf : SliceFile) :
    (captureEntry 0 rc d v).dst.write sf ((captureEntry 0 rc d v).val shadow) = d.write sf v := by
  obtain ⟨a, n, rfl, h1, h16, hend⟩ | ⟨g, rfl, hg⟩ := hd
  · have hval : (BitVec.ofNat 512 (v.toNat % 2 ^ (4 * n))).toNat = v.toNat % 2 ^ (4 * n) := by
      rw [BitVec.toNat_ofNat]
      exact Nat.mod_eq_of_lt (Nat.lt_of_le_of_lt (Nat.mod_le _ _) v.isLt)
    simp only [captureEntry, REntry.dst, REntry.val, Dst.write, Bool.false_eq_true, if_false, Nat.sub_add_cancel h1, hval, sfWrite,
      Nat.mod_mod]
  · have hval : (BitVec.ofNat 512 (v.toNat % 2)).getLsbD 0 = v.getLsbD 0 := by
      rw [BitVec.getLsbD_ofNat, BitVec.getLsbD, Nat.testBit_zero, Nat.testBit_zero, Nat.mod_mod]
      rfl
    simp only [captureEntry, REntry.dst, REntry.val, Dst.write, Bool.false_eq_true, if_false, if_true, Nat.mod_eq_of_lt hg, hval]

theorem Task.landDue_of_none_due {t : Task} (hr : t.replay = []) (hf : ∀ f ∈ t.flight, f.rc ≠ 0) : t.landDue = t := by
  have hdue : (t.flight.filter fun f => decide (f.rc = 0)) = [] := List.filter_eq_nil_iff.2 fun f hm => by simp [hf f hm]
  have hrest : (t.flight.filter fun f => decide (f.rc ≠ 0)) = t.flight := List.filter_eq_self.2 fun f hm => by simp [hf f hm]
  simp only [Task.landDue, Task.entries_of_empty hr, hr, hdue, hrest, List.filter_nil, List.foldl_nil]
  exact congrArg (fun r => { t with replay := r }) hr.symm

/-- The task holds nothing but one valid entry, the first of the replay buffer. -/
structure Task.HoldsEntry (t : Task) (e : REntry) : Prop where
  flight : t.flight = []
  replay : t.replay = [(0, e.bits)]
  fits : e.Fits
  valid : e.v = true
  first : e.seq = 0

theorem Task.capture_of_single {t : Task} {rc : Nat} {d : Dst} {v : BitVec 512} (hr : t.replay = []) (hf : t.flight = [⟨rc, d, v⟩])
    (h1 : 1 ≤ rc) (h7 : rc ≤ 7) (hd : d.Captures) : t.capture.sf = t.sf ∧ t.capture.HoldsEntry (captureEntry 0 rc d v) := by
  have hland : t.landDue = t := Task.landDue_of_none_due hr (by simp [hf]; omega)
  refine ⟨by rw [Task.capture, hland], rfl, ?_, captureEntry_fits hd (by omega) v, ?_, ?_⟩
  · simp [Task.capture, hland, Task.entries_of_empty hr, hf, numberEntries]
  all_goals cases d <;> rfl

theorem Task.HoldsEntry.entries {t : Task} {e : REntry} (h : t.HoldsEntry e) : t.entries = [(0, e)] := by
  simp [Task.entries, h.replay, rEntry_bits h.fits, h.valid, h.first, List.range, List.range.loop]

/-- The entry lands exactly when its count is 0. -/
theorem Task.HoldsEntry.landDue {t : Task} {e : REntry} (h : t.HoldsEntry e) :
    t.landDue.sf = (if e.rc = 0 then e.dst.write t.sf (e.val t.shadow) else t.sf) ∧ (e.rc = 0 → t.landDue.replay = []) := by
  constructor
  · by_cases h0 : e.rc = 0 <;> simp [Task.landDue, h.entries, h.flight, h0]
  · intro h0
    simp [Task.landDue, h.replay, rEntry_bits h.fits, h.valid, h0]

/-- A bundle brings the entry one bundle nearer. -/
theorem Task.HoldsEntry.countDown {t : Task} {e : REntry} (h : t.HoldsEntry e) : t.countDown.HoldsEntry { e with rc := e.rc - 1 } where
  flight := by simp [Task.countDown, h.flight]
  replay := by simp [Task.countDown, h.replay, rEntry_bits h.fits, h.valid]
  fits := by
    obtain ⟨hvalue, hstart, hnsl, hrc, hseq, hlw, htop⟩ := h.fits
    exact ⟨hvalue, hstart, hnsl, Nat.lt_of_le_of_lt (Nat.sub_le _ _) hrc, hseq, hlw, htop⟩
  valid := h.valid
  first := h.first

/-- k bundles bring the entry k bundles nearer and leave the slice file as it is. -/
theorem Task.HoldsEntry.countDown_repeat {t : Task} {e : REntry} (h : t.HoldsEntry e) (k : Nat) :
    (Nat.repeat Task.countDown k t).sf = t.sf ∧ (Nat.repeat Task.countDown k t).HoldsEntry { e with rc := e.rc - k } := by
  induction k with
  | zero => exact ⟨rfl, h⟩
  | succ k ih =>
    obtain ⟨hsf, hk⟩ := ih
    exact ⟨hsf, by simpa only [Nat.repeat, Nat.sub_sub] using hk.countDown⟩

/-- Settles O36: the entry that captures the result counts down as the result does, and writes the same bits to the same place. -/
theorem capturedResultsLandAfterResuming : Obligations.CapturedResultsLandAfterResuming := by
  intro t rc k d v hr hf h7 hk hd h1
  obtain ⟨hcap, hheld⟩ := Task.capture_of_single hr hf h1 h7 hd
  obtain ⟨hsf, hentry⟩ := hheld.countDown_repeat k
  obtain ⟨hland, hreplay⟩ := hentry.landDue
  obtain ⟨hsf', hr', hf'⟩ := Task.countDown_repeat_single hr hf k
  have hcount : (captureEntry 0 rc d v).rc = rc := by cases d <;> rfl
  refine ⟨?_, rfl, fun hkrc => hreplay (by simp only [hcount]; omega)⟩
  rw [hland, hsf, hcap, Task.landDue_sf_of_empty hr', hf', hsf']
  by_cases h0 : rc - k = 0
  · simp only [hcount, h0]
    exact captureEntry_write hd rc v _ _
  · simp [hcount, h0]

end Sys2Proof.Machine
end

section
/-! The module at power-on (R336, R358, R382, R412). -/

namespace Sys2Proof.Machine

theorem State.reset_ok : State.reset.Ok :=
  .of rfl rfl rfl rfl rfl rfl rfl rfl (fun _ hx => nomatch hx) SliceFile.gate_one

@[simp] theorem State.die_reset (d : Nat) : State.reset.die d = {} := rfl
@[simp] theorem State.field_reset (k : Nat) : State.reset.field k = {} := rfl

theorem State.wellUse_reset (p : Nat → Bool) : State.reset.wellUse p = 0 := by
  rw [State.wellUse, show State.reset.tasks = [] from rfl, List.filter_nil, List.length_nil]

/-- At reset the management registers of every die read as those of die 0. -/
theorem State.mgmtRead_reset (die r : Nat) : State.reset.mgmtRead die r = State.reset.mgmtRead 0 r := by
  simp only [State.mgmtRead, State.die_reset, State.field_reset, State.wellUse_reset]

/-- Whatever rollback counter the part has fused: PKGSTAT holds its low 8 bits beneath TJ (R382). -/
theorem State.pkgstat_tj_reset (die : Nat) : State.reset.pkgRead die 0x81 / 2 ^ 24 = 0 := by
  have hread : State.reset.pkgRead die 0x81 = State.reset.rollbackCount % 256 * 2 ^ 8 := by
    simp [State.pkgRead, State.reset]
  rw [hread]
  omega

/-- Settles O5: every table is empty at reset, so each register reads a default. -/
theorem resetSatisfiesTheInvariant : Obligations.ResetSatisfiesTheInvariant := by
  refine ⟨(State.ok_iff_inv _).1 State.reset_ok, fun die r hr => ?_, fun die w hw => ?_,
    fun die _ => ⟨rfl, rfl, rfl, State.pkgstat_tj_reset die, rfl⟩, rfl, by decide, by decide, rfl, fun o ho => ?_⟩
  · rw [State.mgmtRead_reset]
    revert r
    decide
  · simp only [State.mgmtRead_reset die]
    revert w
    decide
  · rw [State.bar0Read, if_neg ho]
    rfl

end Sys2Proof.Machine
end

section
/-! Every step keeps the invariant: the meaning of each row of the opcode table does, and so does a step that runs them (R60). -/

namespace Sys2Proof.Machine

theorem State.badTurn_ok {s : State} (h : s.Ok) (tk : Nat) : (s.badTurn tk).Ok :=
  State.countCycle_ok (State.takeBad_ok (State.taking_ok (State.marks_ok h _ _) _ _) _) _

theorem execIllegalBundle_ok {s : State} (h : s.Ok) (tk : Nat) : OutOk (execIllegalBundle tk s) := by
  unfold execIllegalBundle
  apply next_ok
  split
  · exact h
  · exact h
  · exact State.ite_ok (State.badTurn_ok h tk) h

theorem execIfetchMiss_ok {s : State} (h : s.Ok) (tk : Nat) : OutOk (execIfetchMiss tk s) := by
  unfold execIfetchMiss
  apply next_ok
  split
  · exact State.ite_ok (State.badTurn_ok h tk) h
  · exact h

/-- The meaning of every row keeps the invariant, arm by arm as the dispatch has them. -/
theorem exec_ok : Meaning.Ok exec
  | .add _, _, h => execAdd_ok h _
  | .sub _, _, h => execSub_ok h _
  | .addi _, _, h => execAddi_ok h _
  | .mul _, _, h => execMul_ok h _
  | .logAnd _, _, h => execAnd_ok h _
  | .logOr _, _, h => execOr_ok h _
  | .logXor _, _, h => execXor_ok h _
  | .shl _, _, h => execShl_ok h _
  | .shr _, _, h => execShr_ok h _
  | .mov _, _, h => execMov_ok h _
  | .sel _, _, h => execSel_ok h _
  | .cmp _, _, h => execCmp_ok h _
  | .minS _, _, h => execMin_ok h _
  | .maxS _, _, h => execMax_ok h _
  | .ld _, _, h => execLd_ok h _
  | .st _, _, h => execSt_ok h _
  | .mulh _, _, h => execMulh_ok h _
  | .mulhu _, _, h => execMulhu_ok h _
  | .adds _, _, h => execAdds_ok h _
  | .subs _, _, h => execSubs_ok h _
  | .addsu _, _, h => execAddsu_ok h _
  | .subsu _, _, h => execSubsu_ok h _
  | .neg _, _, h => execNeg_ok h _
  | .abs _, _, h => execAbs_ok h _
  | .andn _, _, h => execAndn_ok h _
  | .logNot _, _, h => execNot_ok h _
  | .rol _, _, h => execRol_ok h _
  | .ror _, _, h => execRor_ok h _
  | .clz _, _, h => execClz_ok h _
  | .ctz _, _, h => execCtz_ok h _
  | .popc _, _, h => execPopc_ok h _
  | .brev _, _, h => execBrev_ok h _
  | .ext _, _, h => execExt_ok h _
  | .bfx _, _, h => execBfx_ok h _
  | .bfi _, _, h => execBfi_ok h _
  | .pack _, _, h => execPack_ok h _
  | .movi _, _, h => execMovi_ok h _
  | .tst _, _, h => execTst_ok h _
  | .fadd _, _, h => execFadd_ok h _
  | .fsub _, _, h => execFsub_ok h _
  | .fmul _, _, h => execFmul_ok h _
  | .fma _, _, h => execFma_ok h _
  | .fmin _, _, h => execFmin_ok h _
  | .fmax _, _, h => execFmax_ok h _
  | .fsgn _, _, h => execFsgn_ok h _
  | .fcmp _, _, h => execFcmp_ok h _
  | .fcvt _, _, h => execFcvt_ok h _
  | .frcp _, _, h => execFrcp_ok h _
  | .frsq _, _, h => execFrsq_ok h _
  | .topk _, _, h => execTopk_ok h _
  | .topkc _, _, h => execTopkc_ok h _
  | .ldl _, _, h => execLdl_ok h _
  | .stu _, _, h => execStu_ok h _
  | .spill _, _, h => execSpill_ok h _
  | .fill _, _, h => execFill_ok h _
  | .push _, _, h => execPush_ok h _
  | .pop _, _, h => execPop_ok h _
  | .hfld _, _, h => execHfld_ok h _
  | .hfset _, _, h => execHfset_ok h _
  | .sld _, _, h => execSld_ok h _
  | .sst _, _, h => execSst_ok h _
  | .scp _, _, h => execScp_ok h _
  | .sga _, _, h => execSga_ok h _
  | .ssc _, _, h => execSsc_ok h _
  | .srec _, _, h => execSrec_ok h _
  | .smc _, _, h => execSmc_ok h _
  | .sfil _, _, h => execSfil_ok h _
  | .scfg _ _ _ _, _, h => execScfg_ok h _ _ _ _
  | .sbar _ _ _ _, _, h => execSbar_ok h _ _ _ _
  | .skil _ _ _, _, h => execSkil_ok h _ _ _
  | .ssta _ _ _, _, h => execSsta_ok h _ _ _
  | .sig _ _ _ _, _, h => execSig_ok h _ _ _ _
  | .sigm _ _ _ _, _, h => execSigm_ok h _ _ _ _
  | .bind _ _ _, _, h => execBind_ok h _ _ _
  | .unbind _ _, _, h => execUnbind_ok h _ _
  | .dcset _ _ _, _, h => execDcset_ok h _ _ _
  | .dcdec _ _, _, h => execDcdec_ok h _ _
  | .draw _, _, h => execDraw_ok h _
  | .fput _, _, h => execFput_ok h _
  | .resv _, _, h => execResv_ok h _
  | .publ _, _, h => execPubl_ok h _
  | .rtake _ _, _, h => execRtake_ok h _ _
  | .aadd _, _, h => execAadd_ok h _
  | .amin _, _, h => execAmin_ok h _
  | .amax _, _, h => execAmax_ok h _
  | .aminu _, _, h => execAminu_ok h _
  | .amaxu _, _, h => execAmaxu_ok h _
  | .aand _, _, h => execAand_ok h _
  | .aor _, _, h => execAor_ok h _
  | .axor _, _, h => execAxor_ok h _
  | .aswp _, _, h => execAswp_ok h _
  | .acas _, _, h => execAcas_ok h _
  | .ald _, _, h => execAld_ok h _
  | .ast _, _, h => execAst_ok h _
  | .mpost _, _, h => execMpost_ok h _
  | .msend _, _, h => execMsend_ok h _
  | .mprobe _, _, h => execMprobe_ok h _
  | .mcancel _, _, h => execMcancel_ok h _
  | .mtest _, _, h => execMtest_ok h _
  | .hld _, _, h => execHld_ok h _
  | .hst _, _, h => execHst_ok h _
  | .hmov _ _ _, _, h => execHmov_ok h _ _ _
  | .rsyn _, _, h => execRsyn_ok h _
  | .tinv _ _ _, _, h => execTinv_ok h _ _ _
  | .nop _, _, h => execNop_ok h _
  | .br _ _, _, h => execBr_ok h _ _
  | .brl _ _ _, _, h => execBrl_ok h _ _ _
  | .jmp _ _, _, h => execJmp_ok h _ _
  | .loop _ _ _, _, h => execLoop_ok h _ _ _
  | .loopi _ _ _, _, h => execLoopi_ok h _ _ _
  | .lind _ _ _ _ _, _, h => execLind_ok h _ _ _ _ _
  | .lbrk _ _, _, h => execLbrk_ok h _ _
  | .endTask _, _, h => execEnd_ok h _
  | .yield _, _, h => execYield_ok h _
  | .waitc _ _, _, h => execWaitc_ok h _ _
  | .waitf _ _ _ _, _, h => execWaitf_ok h _ _ _ _
  | .fence _ _ _, _, h => execFence_ok h _ _ _
  | .trap _ _, _, h => execTrap_ok h _ _
  | .bkpt _ _, _, h => execBkpt_ok h _ _
  | .prio _ _, _, h => execPrio_ok h _ _
  | .mfs _ _ _, _, h => execMfs_ok h _ _ _
  | .mts _ _ _, _, h => execMts_ok h _ _ _
  | .eret _ _ _, _, h => execEret_ok h _ _ _
  | .ipage _ _, _, h => execIpage_ok h _ _
  | .hold _ _, _, h => execHold_ok h _ _
  | .illegalBundle _, _, h => execIllegalBundle_ok h _
  | .ifetchMiss _, _, h => execIfetchMiss_ok h _
  | .fixedLatencyLanding _, _, h => execFixedLatencyLanding_ok h _
  | .landingBufferWrite _ _, _, h => execLandingBufferWrite_ok h _ _
  | .replayEntryLanding _, _, h => execReplayEntryLanding_ok h _
  | .asyncTaskFault _, _, h => execAsyncTaskFault_ok h _
  | .taskMarkedDead _, _, h => execTaskMarkedDead_ok h _
  | .vcWordArrival _, _, h => execVcWordArrival_ok h _
  | .lockBitGrant _, _, h => execLockBitGrant_ok h _
  | .lockHeldTimeout _, _, h => execLockHeldTimeout_ok h _
  | .cellLockHeldTimeout _, _, h => execCellLockHeldTimeout_ok h _
  | .queueCommandStart _, _, h => execQueueCommandStart_ok h _
  | .streamBeat _, _, h => execStreamBeat_ok h _
  | .translationWalk _, _, h => execTranslationWalk_ok h _
  | .streamComplete _, _, h => execStreamComplete_ok h _
  | .sbarComplete _, _, h => execSbarComplete_ok h _
  | .fqRequestSend _, _, h => execFqRequestSend_ok h _
  | .fqResponse _, _, h => execFqResponse_ok h _
  | .messageArrival _, _, h => execMessageArrival_ok h _
  | .matchEligibleMessage _, _, h => execMatchEligibleMessage_ok h _
  | .matchPost _, _, h => execMatchPost_ok h _
  | .matchProbe _, _, h => execMatchProbe_ok h _
  | .matchCancel _, _, h => execMatchCancel_ok h _
  | .matchTest _, _, h => execMatchTest_ok h _
  | .receiveComplete _, _, h => execReceiveComplete_ok h _
  | .msendComplete _, _, h => execMsendComplete_ok h _
  | .cellLoad _, _, h => execCellLoad_ok h _
  | .imageReadComplete _, _, h => execImageReadComplete_ok h _
  | .configCompleteWave _, _, h => execConfigCompleteWave_ok h _
  | .cellFire _, _, h => execCellFire_ok h _
  | .cellResultLanding _, _, h => execCellResultLanding_ok h _
  | .linkWordArrival _, _, h => execLinkWordArrival_ok h _
  | .binPortPerform _ _, _, h => execBinPortPerform_ok h _ _
  | .twinCompare _, _, h => execTwinCompare_ok h _
  | .notify _ _, _, h => execNotify_ok h _ _
  | .hostApertureAccess _ _ _, _, h => execHostApertureAccess_ok h _ _ _
  | .registerWrite _ _, _, h => execRegisterWrite_ok h _ _
  | .queueMap _ _, _, h => execQueueMap_ok h _ _
  | .queueUnmap _, _, h => execQueueUnmap_ok h _
  | .intakeDecision, _, h => execIntakeDecision_ok h
  | .intakeAging _, _, h => execIntakeAging_ok h _
  | .launch _, _, h => execLaunch_ok h _
  | .unload _, _, h => execUnload_ok h _
  | .launchNop _, _, h => execLaunchNop_ok h _
  | .seedInject _, _, h => execSeedInject_ok h _
  | .launchComplete _, _, h => execLaunchComplete_ok h _
  | .pcieLinkDown, _, h => execPcieLinkDown_ok h
  | .powerOn, _, h => execPowerOn_ok h
  | .ready _, _, h => execReady_ok h _
  | .halt _, _, h => execHalt_ok h _
  | .attreq _ _, _, h => execAttreq_ok h _ _
  | .attestationComplete _, _, h => execAttestationComplete_ok h _
  | .stepselCeiling _ _, _, h => execStepselCeiling_ok h _ _
  | .junction100C _, _, h => execJunction100C_ok h _
  | .powerCapExceeded, _, h => execPowerCapExceeded_ok h
  | .stepRecovery, _, h => execStepRecovery_ok h
  | .junction110C, _, h => execJunction110C_ok h
  | .faultRecordWrite _, _, h => execFaultRecordWrite_ok h _
  | .preempt _ _, _, h => execPreempt_ok h _ _
  | .evict _ _, _, h => execEvict_ok h _ _
  | .resume _ _, _, h => execResume_ok h _ _
  | .restore _ _, _, h => execRestore_ok h _ _
  | .teardown _ _, _, h => execTeardown_ok h _ _
  | .attach _ _, _, h => execAttach_ok h _ _
  | .detach _ _, _, h => execDetach_ok h _ _
  | .arm _ _, _, h => execArm_ok h _ _
  | .disarm _ _, _, h => execDisarm_ok h _ _
  | .dumpLimitExpiry _, _, h => execDumpLimitExpiry_ok h _
  | .debugStop _, _, h => execDebugStop_ok h _
  | .strctlResume _ _, _, h => execStrctlResume_ok h _ _
  | .strctlKill _ _, _, h => execStrctlKill_ok h _ _
  | .dwdataAccess _ _, _, h => execDwdataAccess_ok h _ _
  | .migrelh _ _, _, h => execMigrelh_ok h _ _
  | .cycleRead _, _, h => execCycleRead_ok h _
  | .hctlSnap, _, h => execHctlSnap_ok h
  | .hctlClr, _, h => execHctlClr_ok h
  | .applyTable, _, h => execApply_ok h
  | .key, _, h => execKey_ok h
  | .lock, _, h => execLock_ok h
  | .openFabric, _, h => execOpen_ok h
  | .drain, _, h => execDrain_ok h
  | .dark, _, h => execDark_ok h
  | .lockComplete, _, h => execLockComplete_ok h
  | .rotorSlot _ _, _, h => execRotorSlot_ok h _ _
  | .rotorCycleBoundary, _, h => execRotorCycleBoundary_ok h
  | .flitReceive _ _ _, _, h => execFlitReceive_ok h _ _ _
  | .packetResendTimeout _ _, _, h => execPacketResendTimeout_ok h _ _
  | .memberUnreachable _, _, h => execMemberUnreachable_ok h _
  | .keyActivation, _, h => execKeyActivation_ok h
  | .oldKeyErase, _, h => execOldKeyErase_ok h
  | .wavelengthDegrade _, _, h => execWavelengthDegrade_ok h _
  | .pcieLinkRetrain, _, h => execPcieLinkRetrain_ok h
  | .fibreGoesDead _, _, h => execFibreGoesDead_ok h _
theorem step_ok {s : State} (h : s.Ok) : OutOk (step s) := stepWith_ok exec_ok h

/-- Settles O4: a step runs meanings that each keep the invariant, in turns that do. -/
theorem everyStepKeepsTheInvariant : Obligations.EveryStepKeepsTheInvariant := by
  intro s t hs ht
  have h := step_ok ((State.ok_iff_inv s).2 hs)
  rw [ht] at h
  exact (State.ok_iff_inv t).1 h

end Sys2Proof.Machine
end

section
/-! Floating-point codes: what a code holds (R113), and rounding that value to the code again (R126, R128, R129). -/

namespace Sys2Proof.Machine

/-! ## The sign and the magnitude of a code -/

theorem b2n_bitB (c i : Nat) : b2n (bitB c i) = c / 2 ^ i % 2 := by
  rcases Nat.mod_two_eq_zero_or_one (c / 2 ^ i) with h | h <;> rw [bitB, h] <;> rfl

theorem sign_add_magnitude {c w : Nat} (hw : 0 < w) (hc : c < 2 ^ w) :
    b2n (bitB c (w - 1)) * 2 ^ (w - 1) + c % 2 ^ (w - 1) = c := by
  have htop : c / 2 ^ (w - 1) < 2 := by
    rw [Nat.div_lt_iff_lt_mul (Nat.two_pow_pos _), ← Nat.pow_succ', Nat.succ_eq_add_one, Nat.sub_add_cancel hw]
    exact hc
  rw [b2n_bitB, Nat.mod_eq_of_lt htop, Nat.mul_comm, Nat.div_add_mod]

/-- The value v of the code with the given sign and magnitude, case by case as R113's table has them. A normal code's exponent
field is ex + 1. -/
inductive FFmt.HasValue (f : FFmt) (neg : Bool) : Nat → FVal → Prop
  | inf {mag : Nat} : f.inf = some mag → f.HasValue neg mag (.inf neg)
  | nan {mag : Nat} : f.maxc < mag → f.HasValue neg mag .nan
  | subnormal {fr : Nat} : fr ≤ f.maxc → fr < 2 ^ f.m → f.HasValue neg fr (.num neg fr f.qmin)
  | normal {ex fr : Nat} : (ex + 1) * 2 ^ f.m + fr ≤ f.maxc → fr < 2 ^ f.m →
      f.HasValue neg ((ex + 1) * 2 ^ f.m + fr) (.num neg (2 ^ f.m + fr) (f.qmin + ex))

theorem fdec_hasValue (f : FFmt) (c : Nat) : f.HasValue (bitB c (f.w - 1)) (c % 2 ^ (f.w - 1)) (fdec f c) := by
  simp only [fdec]
  generalize c % 2 ^ (f.w - 1) = mag
  have hfr := Nat.mod_lt mag (Nat.two_pow_pos f.m)
  have hmag := Nat.div_add_mod' mag (2 ^ f.m)
  by_cases hinf : f.inf = some mag
  · rw [if_pos hinf]
    exact .inf hinf
  rw [if_neg hinf]
  by_cases hmax : f.maxc < mag
  · rw [if_pos hmax]
    exact .nan hmax
  rw [if_neg hmax]
  by_cases hex : mag / 2 ^ f.m = 0
  · rw [hex, Nat.zero_mul, Nat.zero_add] at hmag
    rw [if_pos hex]
    rw [hmag] at hfr ⊢
    exact .subnormal (Nat.le_of_not_lt hmax) hfr
  · rw [if_neg hex]
    obtain ⟨ex, hex⟩ := Nat.exists_eq_add_one_of_ne_zero hex
    rw [hex] at hmag ⊢
    have hval := FFmt.HasValue.normal (f := f) (neg := bitB c (f.w - 1)) (Nat.le_trans (Nat.le_of_eq hmag) (Nat.le_of_not_lt hmax)) hfr
    rw [hmag] at hval
    rwa [Int.natCast_add, Int.natCast_one, ← Int.add_assoc, Int.add_sub_cancel]

/-! ## Rounding a value of the format -/

/-- A value that is a multiple of the unit it is rounded to stays as it is. -/
@[simp] theorem quantize_self (rz : Bool) (m : Nat) (e : Int) : quantize rz m e e = m := by
  rw [quantize, if_pos (Int.le_refl e), Int.sub_self, Int.toNat_zero, Nat.pow_zero, Nat.mul_one]

/-- No subnormal is flushed to zero (R128). -/
theorem magCode_subnormal (f : FFmt) (rz : Bool) {fr : Nat} (h0 : fr ≠ 0) (hfr : fr < 2 ^ f.m) : magCode f rz fr f.qmin = fr := by
  have hlog := (Nat.log2_lt h0).2 hfr
  have hunit : max ((fr.log2 : Int) + f.qmin - f.m) f.qmin = f.qmin := by omega
  simp only [magCode, hunit, quantize_self]
  rw [Int.sub_self, Int.toNat_zero, Nat.zero_mul, Nat.zero_add]

theorem magCode_normal (f : FFmt) (rz : Bool) (ex : Nat) {fr : Nat} (hfr : fr < 2 ^ f.m) :
    magCode f rz (2 ^ f.m + fr) (f.qmin + ex) = (ex + 1) * 2 ^ f.m + fr := by
  have hpos := Nat.two_pow_pos f.m
  have hlog : (2 ^ f.m + fr).log2 = f.m := (Nat.log2_eq_iff (by omega)).2 ⟨by omega, by rw [Nat.pow_succ]; omega⟩
  have hunit : max (((2 ^ f.m + fr).log2 : Int) + (f.qmin + ex) - f.m) f.qmin = f.qmin + ex := by omega
  have hsteps : (f.qmin + (ex : Int) - f.qmin).toNat = ex := by omega
  simp only [magCode, hunit, quantize_self, hsteps]
  rw [Nat.succ_mul, Nat.add_assoc]

/-- A zero keeps its sign (R113). -/
theorem fenc_zero (f : FFmt) (rz sat neg : Bool) (e : Int) : fenc f rz sat (.num neg 0 e) = b2n neg * 2 ^ (f.w - 1) := by
  rw [fenc, if_pos rfl]

theorem fenc_of_magCode_le {f : FFmt} {rz : Bool} {m : Nat} {e : Int} (sat neg : Bool) (hm : m ≠ 0) (hle : magCode f rz m e ≤ f.maxc) :
    fenc f rz sat (.num neg m e) = b2n neg * 2 ^ (f.w - 1) + magCode f rz m e := by
  simp only [fenc, if_neg hm, if_neg (Nat.not_lt.2 hle)]

/-- Rounding the value of a code that is not a NaN gives its sign and magnitude. -/
theorem FFmt.HasValue.fenc_eq {f : FFmt} {neg : Bool} {mag : Nat} {v : FVal} (h : f.HasValue neg mag v) (rz : Bool) (hv : v.isNan = false) :
    fenc f rz false v = b2n neg * 2 ^ (f.w - 1) + mag := by
  cases h with
  | inf hinf => simp only [fenc, hinf, Bool.false_eq_true, if_false]
  | nan => cases hv
  | subnormal hmax hfr =>
    by_cases h0 : mag = 0
    · rw [h0, fenc_zero, Nat.add_zero]
    · have hcode := magCode_subnormal f rz h0 hfr
      rw [fenc_of_magCode_le false neg h0 (Nat.le_trans (Nat.le_of_eq hcode) hmax), hcode]
  | @normal ex fr hmax hfr =>
    have hcode := magCode_normal f rz ex hfr
    have h0 : 2 ^ f.m + fr ≠ 0 := Nat.ne_of_gt (Nat.add_pos_left (Nat.two_pow_pos _) _)
    rw [fenc_of_magCode_le false neg h0 (Nat.le_trans (Nat.le_of_eq hcode) hmax), hcode]

/-! ## NaNs -/

/-- A code is a NaN only above the largest finite one. -/
theorem FFmt.HasValue.of_isNan {f : FFmt} {neg : Bool} {mag : Nat} {v : FVal} (h : f.HasValue neg mag v) (hv : v.isNan = true) :
    f.maxc < mag ∧ v = .nan := by
  cases h with
  | nan hmax => exact ⟨hmax, rfl⟩
  | inf | subnormal | normal => cases hv

/-- A format with no canonical NaN has no code that is one: its largest finite code is the largest magnitude. -/
def FFmt.NanCoded (f : FFmt) : Prop := f.nan = none → 2 ^ (f.w - 1) ≤ f.maxc + 1

theorem fenc_fdec_of_isNan {f : FFmt} (hf : f.NanCoded) (rz sat : Bool) {c : Nat} (hn : (fdec f c).isNan = true) :
    some (fenc f rz sat (fdec f c)) = f.nan := by
  obtain ⟨hmax, hval⟩ := (fdec_hasValue f c).of_isNan hn
  have hmag := Nat.mod_lt c (Nat.two_pow_pos (f.w - 1))
  have hcoded : f.nan ≠ none := fun h => by have := hf h; omega
  obtain ⟨n, hnan⟩ := Option.ne_none_iff_exists'.1 hcoded
  simp only [hval, fenc, hnan, Option.getD_some]

/-- The formats of R113 whose codes are sign and magnitude. -/
theorem signMagnitude_formats : ∀ f ∈ [fp32, fp16, bf16, e4m3, e5m2, e2m1], 0 < f.w ∧ f.NanCoded := by
  unfold FFmt.NanCoded
  decide

/-- Settles O13: the value of a code is a multiple of the unit it is rounded to, so rounding leaves it as it is. -/
theorem codesSurviveDecodingAndRounding : Obligations.CodesSurviveDecodingAndRounding := by
  intro f hf c hc rz
  obtain ⟨hw, hcoded⟩ := signMagnitude_formats f hf
  split
  next hnan => exact fenc_fdec_of_isNan hcoded rz false hnan
  next hnan => rw [(fdec_hasValue f c).fenc_eq rz (Bool.eq_false_iff.2 hnan), sign_add_magnitude hw hc]

end Sys2Proof.Machine
end

section
/-! The receive engine's operations as they are issued (R193, R232). -/

namespace Sys2Proof.Machine

theorem State.Canonical.tasks {s : State} (h : s.Canonical) : Sparse.wf ({} : Task) s.tasks = true := h.2.1

theorem State.Canonical.cmds {s : State} (h : s.Canonical) : Sparse.wf ({} : Cmd) s.cmds = true := h.2.2.2.2.1

theorem State.rxSend_modTask {s : State} (hs : s.Canonical) {f : Task → Task} (hf : ∀ t : Task, (f t).port = t.port) (op : RxOp) :
    (s.modTask s.me f).rxSend op =
      { s.modTask s.me f with rx := { s.rx with ops := s.rx.ops ++ [⟨s.me, (s.task s.me).port.length, op⟩] } } := by
  rw [State.rxSend, State.modTask_me, State.task_modTask_self hs.tasks, hf, State.modTask_rx]

theorem exec_mtest {s : State} {o : OpS} (ha : s.acts o.lc Pred.always = true) : exec (.mtest o) s =
    .next ((s.modTask s.me fun t => t.addRet (some (o.s, 8)) none none).rxSend (.test (s.rd o.s 32) (s.task s.me).nextRet)) := by
  change execMtest o s = _
  rw [execMtest, ha, slot_true]

/-- Settles O28: each slot that acts and has no cause is `State.rxSend` of its operation; MTEST opens its return first, which leaves the port. -/
theorem matchOperationsAreSent : Obligations.MatchOperationsAreSent := by
  intro s hs n sends
  refine ⟨fun o ha hc => ?_, fun o ha => ⟨fun hc => ?_, ?_, ?_⟩⟩
  · change execMpost o s = _
    rw [execMpost, ha, hc, slotOr_none]
    rfl
  · change execMprobe o s = _
    rw [execMprobe, ha, hc, slotOr_none]
    rfl
  · change execMcancel o s = _
    rw [execMcancel, ha, slot_true]
    rfl
  · refine ⟨_, ?_, State.modTask_onlyTask hs s.me fun t => t.addRet (some (o.s, 8)) none none, State.task_modTask_self hs.tasks _ _⟩
    rw [exec_mtest ha, State.rxSend_modTask hs (f := fun t => t.addRet (some (o.s, 8)) none none) fun _ => rfl]
    rfl

end Sys2Proof.Machine
end

section
/-! The matching unit: what its counter, its monitor and the engine's own tables lie apart from (R183, R427), status records (R192), and the
match operations (R184, R186, R187, R193-R196). -/

namespace Sys2Proof.Machine

/-! ## The engine's own tables -/

/-- The state with the match counter, the monitors and the engine's tables as given. -/
def State.withEngine (s : State) (n : Word32) (h : Health) (r : Rx) : State := { s with pkg := { s.pkg with mmatch := n }, health := h, rx := r }

theorem State.withEngine_eq {s u : State} (hu : u.pkg = s.pkg) (n : Word32) (h : Health) (r : Rx) :
    u.withEngine n h r = { u with pkg := { s.pkg with mmatch := n }, health := h, rx := r } := by rw [State.withEngine, hu]

@[simp] theorem State.withEngine_rx (s : State) (n : Word32) (h : Health) (r : Rx) : (s.withEngine n h r).rx = r := rfl
@[simp] theorem State.withEngine_rxOn (s : State) (n : Word32) (h : Health) (r : Rx) : (s.withEngine n h r).rxOn = s.rxOn := rfl
@[simp] theorem State.withEngine_entry (s : State) (n : Word32) (h : Health) (r : Rx) (e : Nat) :
    (s.withEngine n h r).entry e = Sparse.get {} r.entries e := rfl
@[simp] theorem State.withEngine_fieldOf (s : State) (n : Word32) (h : Health) (r : Rx) (c : Nat) : (s.withEngine n h r).fieldOf c = s.fieldOf c := rfl
@[simp] theorem State.withEngine_headAddr (s : State) (n : Word32) (h : Health) (r : Rx) (m : Msg) :
    (s.withEngine n h r).headAddr m = s.headAddr m := rfl

/-- A translation reads memory and the root pointer only. -/
@[simp] theorem State.withEngine_rxPlace (s : State) (n : Word32) (h : Health) (r : Rx) (va : Nat) (wr : Bool) :
    (s.withEngine n h r).rxPlace va wr = s.rxPlace va wr := rfl

@[simp] theorem State.withEngine_descr (s : State) (n : Word32) (h : Health) (r : Rx) (c a : Nat) :
    (s.withEngine n h r).descr c a = s.descr c a := rfl

/-- No watchpoint of the core's die is enabled (R380). -/
def State.WatchesOff (s : State) (core : Nat) : Prop := ∀ w, w < 8 → bitB ((s.die (dieOf core)).reg (0x132 + 4 * w)) 0 = false

theorem State.withEngine_watchLocal {s : State} {core : Nat} (hoff : s.WatchesOff core)
    (n : Word32) (h : Health) (r : Rx) (ctx : Nat) (tk : Option Nat) (a k : Nat) (rd wr : Bool) :
    (s.withEngine n h r).watchLocal core ctx tk a k rd wr = s.withEngine n h r :=
  State.watchLocal_off (s := s.withEngine n h r) hoff ..

/-- A write marks dirty what the fields and tiles say (R375). -/
theorem State.withEngine_writeLE (s : State) (n : Word32) (h : Health) (r : Rx) (sp : Space) (o k v : Nat) :
    (s.withEngine n h r).writeLE sp o k v = (s.writeLE sp o k v).withEngine n h r := by
  have hmark (u : State) (j : Nat) : (u.withEngine n h r).markDirty sp o j = (u.markDirty sp o j).withEngine n h r := by
    cases sp with
    | bin c =>
      simp only [State.markDirty, State.withEngine_fieldOf]
      cases u.fieldOf c <;> rfl
    | _ => rfl
  exact hmark { s with mem := s.mem.putLE (place sp o) k v } _

theorem State.withEngine_writeLocal (s : State) (n : Word32) (h : Health) (r : Rx) (c a k v : Nat) :
    (s.withEngine n h r).writeLocal c a k v = (s.writeLocal c a k v).withEngine n h r := State.withEngine_writeLE ..

theorem State.writeLocal_pkg (s : State) (c a n v : Nat) : (s.writeLocal c a n v).pkg = s.pkg := by rw [State.writeLocal, State.writeLE_eq]

theorem State.writeLocal_rx (s : State) (c a n v : Nat) : (s.writeLocal c a n v).rx = s.rx := by rw [State.writeLocal, State.writeLE_eq]

theorem State.writeLocal_cmds (s : State) (c a n v : Nat) : (s.writeLocal c a n v).cmds = s.cmds := by rw [State.writeLocal, State.writeLE_eq]

theorem State.writeLocal_cmd (s : State) (c a n v j : Nat) : (s.writeLocal c a n v).cmd j = s.cmd j := by
  rw [State.cmd, State.writeLocal_cmds]
  rfl

/-! ## Status records -/

theorem State.report_none {s : State} {core : Nat} (hoff : s.WatchesOff core) {p : Pattern}
    (hk : p.tkind = 0) (rid st got : Nat) :
    s.report core p rid st none got = s.writeLocal core p.stat 32 (statusRecord rid st p.ctx false p.src p.tag 0 got) := by
  rw [State.report, State.watchLocal_off hoff, hk]
  rfl

theorem State.report_some {s : State} {core : Nat} (hoff : s.WatchesOff core) {p : Pattern}
    (hk : p.tkind = 0) (rid st : Nat) (m : Msg) (got : Nat) :
    s.report core p rid st (some m) got = s.writeLocal core p.stat 32 (statusRecord rid st m.ctx m.rts m.src m.tag m.len got) := by
  rw [State.report, State.watchLocal_off hoff, hk]
  rfl

/-! ## A turn of the matching unit -/

theorem any_take_eq_false {α : Type} {l : List α} {i : Nat} {p : α → Bool} (h : ∀ j x, j < i → l[j]? = some x → p x = false) :
    (l.take i).any p = false := by
  rw [List.any_eq_false]
  intro x hx
  obtain ⟨j, hj, rfl⟩ := List.mem_take_iff_getElem.1 hx
  exact Bool.eq_false_iff.1 (h j _ (by omega) (List.getElem?_eq_getElem (by omega)))

theorem State.rxTurn_eq_some {s : State} {i tk : Nat} {op : RxOp} (hi : s.rx.ops[i]? = some ⟨tk, 0, op⟩)
    (hfirst : ∀ j x, j < i → s.rx.ops[j]? = some x → x.task ≠ tk) (helig : ∀ m ∈ s.rx.eligible, s.cycle < m.cycle)
    (hlast : ∀ r, s.rx.lastMatch = some (s.cycle, r) → r ≤ RxReq.rank ⟨tk, 0, op⟩) : s.rxTurn i = some ⟨tk, 0, op⟩ := by
  have h1 : (s.rx.ops.take i).any (fun x => decide (x.task = tk)) = false :=
    any_take_eq_false fun j x hj hx => decide_eq_false (hfirst j x hj hx)
  have h2 : s.rx.eligible.any (fun m => decide (m.cycle ≤ s.cycle)) = false :=
    List.any_eq_false.2 fun m hm => by simpa using helig m hm
  have h3 : s.rx.lastMatch.any (fun x => decide (x.1 = s.cycle) && decide (RxReq.rank ⟨tk, 0, op⟩ < x.2)) = false := by
    rw [Option.any_eq_false]
    rintro ⟨c, r⟩ hr
    by_cases hc : c = s.cycle
    · have := hlast r (hc ▸ hr)
      simp [hc, this]
    · simp [hc]
  rw [State.rxTurn, hi]
  simp only [h1, h2, h3]
  rfl

/-- The engine's tables after a request that is operation o has been taken away. -/
def Rx.without (r : Rx) (cycle i : Nat) (o : RxReq) : Rx := { r with ops := r.ops.eraseIdx i, lastMatch := some (cycle, o.rank) }

theorem State.takeReq_eq {s : State} {i : Nat} {o : RxReq} (hi : s.rx.ops[i]? = some o) :
    ∃ h, s.takeReq i = s.withEngine (s.pkg.mmatch + 1) h (s.rx.without s.cycle i o) :=
  ⟨(s.takeReq i).health, by rw [State.takeReq, hi]; rfl⟩

theorem State.readHeads_health {s : State} {l : List Nat} (hl : ∀ a ∈ l, (s.rxPlace a false).isSome = true) :
    ∃ h, s.readHeads l = { s with health := h } := by
  induction l generalizing s with
  | nil => exact ⟨s.health, rfl⟩
  | cons a l ih =>
    obtain ⟨pa, hpa⟩ := Option.isSome_iff_exists.1 (hl a List.mem_cons_self)
    obtain ⟨h, hw⟩ := s.noteWalks_health a
    obtain ⟨h', hr⟩ := State.hbmRead_health { s with health := h } pa 64
    rw [State.readHeads, hpa, hw]
    dsimp only
    rw [hr]
    exact ih (s := { s with health := h' }) fun b hb => hl b (List.mem_cons_of_mem a hb)

/-- A search whose headers all translate changes the monitors only. -/
theorem State.search_health {s : State} {p : Pattern} {tile : Nat}
    (hfound : ∀ m ∈ s.rx.searched p tile, (s.rxPlace (s.headAddr m) false).isSome = true) : ∃ h, s.search p tile = { s with health := h } := by
  unfold State.search
  split
  · refine State.readHeads_health fun a ha => ?_
    obtain ⟨m, hm, rfl⟩ := List.mem_map.1 ha
    exact hfound m hm
  · exact ⟨s.health, rfl⟩

theorem State.freePost_eq_some {s : State} (hon : s.rxOn = true) {e : Nat} (he : e < 8192) (hfree : (s.entry e).busy = false)
    (hlow : ∀ j, j < e → (s.entry j).busy = true) : s.freePost = some e := by
  rw [State.freePost, if_pos hon, List.find?_range_eq_some]
  exact ⟨by rw [hfree]; rfl, List.mem_range.2 he, fun j hj => by rw [hlow j hj]; rfl⟩

theorem State.ridEntry_eq_some {s : State} {r e : Nat} (h : s.ridEntry r = some e) : s.rid e = r := by
  unfold State.ridEntry at h
  split at h
  · next hr =>
    cases h
    exact hr.2.2.2
  · cases h

@[simp] theorem State.freePost_without (s : State) (n : Word32) (h : Health) (c i : Nat) (o : RxReq) :
    (s.withEngine n h (s.rx.without c i o)).freePost = s.freePost := rfl

/-- A search after the request has been taken away finds what stands in the cistern, and only takes samples. -/
theorem State.search_without {s : State} {p : Pattern} {tile : Nat}
    (hfound : ∀ m ∈ s.rx.searched p tile, (s.rxPlace (s.headAddr m) false).isSome = true) (n : Word32) (h : Health) (c i : Nat) (o : RxReq) :
    ∃ h', (s.withEngine n h (s.rx.without c i o)).search p tile = s.withEngine n h' (s.rx.without c i o) := by
  obtain ⟨h', e⟩ := State.search_health (s := s.withEngine n h (s.rx.without c i o)) hfound
  exact ⟨h', e⟩

/-- The entry that a post by a task writes over the one it takes. -/
def State.postedEntry (s : State) (tk : Nat) (p : Pattern) (h : Handle) (e : Nat) : Entry :=
  { busy := true, gen := ((s.entry e).gen + 1) % 2 ^ 19, task := tk, fld := s.fieldOf (coreOf tk), order := s.rx.nextOrder, pat := p, h := h }

/-- The engine's tables with one more posted entry. -/
def Rx.posting (r : Rx) (e : Nat) (en : Entry) : Rx := { r with entries := Sparse.set {} r.entries e en, nextOrder := r.nextOrder + 1 }

/-- R177's receive ID of a post that has just taken entry e. -/
theorem State.rid_posting (s : State) (n : Word32) (hl : Health) (r : Rx) (tk : Nat) (p : Pattern) (h : Handle) (e : Nat) :
    (s.withEngine n hl (r.posting e (s.postedEntry tk p h e))).rid e = e + ((s.entry e).gen + 1) % 2 ^ 19 * 2 ^ 13 := by
  have hne : s.postedEntry tk p h e ≠ {} := fun hx => Bool.noConfusion (congrArg Entry.busy hx)
  rw [State.rid, State.withEngine_entry, Rx.posting, Sparse.get_set_listed _ _ hne, State.postedEntry, Nat.mod_mod]

/-- A descriptor without a fault (R175), on a die without watchpoints, whose search reads only headers that translate (R187). -/
structure Descr.Served (d : Descr) (s : State) (core : Nat) : Prop where
  stat : d.statOk = true
  src : d.srcOk = true
  target : d.targetOk = true
  off : s.WatchesOff core
  found : ∀ m ∈ s.rx.searched d.pat (moduleTile core), (s.rxPlace (s.headAddr m) false).isSome = true

/-- MATCH_POST into entry e, where no message of the cistern fits: the PENDING record is written, and the entry is posted. -/
theorem State.matchPost_eq {s : State} {i tk a : Nat} {h : Handle} {e : Nat} (hi : s.rx.ops[i]? = some ⟨tk, 0, .post a h⟩)
    (hturn : s.rxTurn i = some ⟨tk, 0, .post a h⟩) {d : Descr} (hd : s.descr (coreOf tk) a = d) (hserved : d.Served s (coreOf tk))
    (hfree : s.freePost = some e) (hnone : ∀ m ∈ s.rx.cistern, fits m d.pat (moduleTile (coreOf tk)) = false) :
    ∃ hl, s.matchPost i = (s.writeLocal (coreOf tk) d.pat.stat 32
        (statusRecord (e + ((s.entry e).gen + 1) % 2 ^ 19 * 2 ^ 13) 0xFF d.pat.ctx false d.pat.src d.pat.tag 0 0)).withEngine (s.pkg.mmatch + 1) hl
      ((s.rx.without s.cycle i ⟨tk, 0, .post a h⟩).posting e (s.postedEntry tk d.pat h e)) := by
  obtain ⟨hstat, hsrc, htarget, hoff, hfound⟩ := hserved
  have hfit : s.rx.cistern.find? (fun m => fits m d.pat (moduleTile (coreOf tk))) = none := List.find?_eq_none.2 fun m hm => by simp [hnone m hm]
  obtain ⟨h1, htake⟩ := State.takeReq_eq hi
  generalize hn : s.pkg.mmatch + 1 = n at htake ⊢
  obtain ⟨h2, hsearch⟩ := State.search_without hfound n h1 s.cycle i ⟨tk, 0, .post a h⟩
  refine ⟨h2, ?_⟩
  unfold State.matchPost
  rw [hturn]
  dsimp -zeta only
  extract_lets core s1 d1 _ s1'
  have hs1 : s1 = s.withEngine n h1 (s.rx.without s.cycle i ⟨tk, 0, .post a h⟩) :=
    (congrArg (State.watchLocal · ..) htake).trans (State.withEngine_watchLocal hoff ..)
  have hd1 : d1 = d := by rw [← hd, ← State.withEngine_descr s n h1, ← hs1]
  have hs1' : s1' = s.withEngine n h2 (s.rx.without s.cycle i ⟨tk, 0, .post a h⟩) := by
    rw [← hsearch, ← hs1, ← hd1]
    exact if_pos (by rw [hs1, State.freePost_without, hfree]; rfl)
  clear_value s1'
  subst hs1'
  rw [hd1, hstat, hsrc, htarget, if_neg (by decide), if_neg (by decide), State.freePost_without, hfree]
  dsimp -zeta only
  extract_lets s2 _ s3 s4 _
  have hs3 : s3 = s.withEngine n h2 ((s.rx.without s.cycle i ⟨tk, 0, .post a h⟩).posting e (s.postedEntry tk d.pat h e)) := rfl
  have hs4 : s4 = (s.writeLocal core d.pat.stat 32
      (statusRecord (e + ((s.entry e).gen + 1) % 2 ^ 19 * 2 ^ 13) 0xFF d.pat.ctx false d.pat.src d.pat.tag 0 0)).withEngine n h2
        ((s.rx.without s.cycle i ⟨tk, 0, .post a h⟩).posting e (s.postedEntry tk d.pat h e)) := by
    simp only [s4]
    rw [hs3, State.withEngine_watchLocal hoff, State.rid_posting, State.withEngine_writeLocal]
  clear_value s4
  subst hs4
  have hcis : ((s.rx.without s.cycle i ⟨tk, 0, .post a h⟩).posting e (s.postedEntry tk d.pat h e)).cistern = s.rx.cistern := rfl
  rw [State.withEngine_rx, hcis, hfit]

/-- The record that MATCH_PROBE writes of the oldest message that fits, if one does (R192, R194). -/
def Pattern.probed (p : Pattern) : Option Msg → Nat
  | some m => statusRecord 0xFFFFFFFF 0x10 m.ctx m.rts m.src m.tag m.len 0
  | none => statusRecord 0xFFFFFFFF 0x11 p.ctx false p.src p.tag 0 0

/-- MATCH_PROBE while the engine is in use. -/
theorem State.matchProbe_eq {s : State} {i tk a : Nat} (hi : s.rx.ops[i]? = some ⟨tk, 0, .probe a⟩) (hturn : s.rxTurn i = some ⟨tk, 0, .probe a⟩)
    {d : Descr} (hd : s.descr (coreOf tk) a = d) (hserved : d.Served s (coreOf tk)) (hk : d.pat.tkind = 0) (hon : s.rxOn = true) :
    ∃ hl, s.matchProbe i = (s.writeLocal (coreOf tk) d.pat.stat 32
        (d.pat.probed (s.rx.cistern.find? fun m => fits m d.pat (moduleTile (coreOf tk))))).withEngine (s.pkg.mmatch + 1) hl
      (s.rx.without s.cycle i ⟨tk, 0, .probe a⟩) := by
  obtain ⟨hstat, hsrc, htarget, hoff, hfound⟩ := hserved
  obtain ⟨h1, htake⟩ := State.takeReq_eq hi
  obtain ⟨h2, hsearch⟩ := State.search_without hfound (s.pkg.mmatch + 1) h1 s.cycle i ⟨tk, 0, .probe a⟩
  have hcis : (s.rx.without s.cycle i ⟨tk, 0, .probe a⟩).cistern = s.rx.cistern := rfl
  have hoff2 : (s.withEngine (s.pkg.mmatch + 1) h2 (s.rx.without s.cycle i ⟨tk, 0, .probe a⟩)).WatchesOff (coreOf tk) := hoff
  refine ⟨h2, ?_⟩
  unfold State.matchProbe
  rw [hturn]
  dsimp only
  rw [htake, State.withEngine_watchLocal hoff, State.withEngine_descr, hd, hstat, hsrc, htarget, hsearch, State.withEngine_rxOn, hon,
    if_neg (by decide), if_neg (by decide), if_pos rfl, State.withEngine_rx, hcis]
  cases s.rx.cistern.find? fun m => fits m d.pat (moduleTile (coreOf tk)) with
  | some m => exact (State.report_some hoff2 hk ..).trans (State.withEngine_writeLocal ..)
  | none => exact (State.report_none hoff2 hk ..).trans (State.withEngine_writeLocal ..)

theorem State.takeReq_ridEntry (s : State) (i r : Nat) : (s.takeReq i).ridEntry r = s.ridEntry r := rfl

/-- MATCH_CANCEL of an entry that is gone. -/
theorem State.matchCancel_of_gone {s : State} {i tk r : Nat} (hturn : s.rxTurn i = some ⟨tk, 0, .cancel r⟩) (hgone : s.ridEntry r = none) :
    s.matchCancel i = s.takeReq i := by
  unfold State.matchCancel
  rw [hturn]
  dsimp only
  rw [State.takeReq_ridEntry, hgone]

/-- The engine's tables with entry e free again; its generation stays. -/
def Rx.freeing (r : Rx) (e : Nat) : Rx := { r with entries := Sparse.set {} r.entries e { gen := (Sparse.get {} r.entries e).gen } }

theorem State.withEngine_freeEntry (s : State) (n : Word32) (h : Health) (r : Rx) (e : Nat) :
    (s.withEngine n h r).freeEntry e = (s.modCmd (landKey e) fun _ => {}).withEngine n h (r.freeing e) := rfl

/-- MATCH_CANCEL of a posted entry. -/
theorem State.matchCancel_of_posted {s : State} {i tk r e : Nat} (hi : s.rx.ops[i]? = some ⟨tk, 0, .cancel r⟩)
    (hturn : s.rxTurn i = some ⟨tk, 0, .cancel r⟩) (hent : s.ridEntry r = some e) (hposted : (s.entry e).delivering = false)
    (hk : (s.entry e).pat.tkind = 0) (hoff : s.WatchesOff (coreOf (s.entry e).task)) :
    ∃ hl, s.matchCancel i = ((s.writeLocal (coreOf (s.entry e).task) (s.entry e).pat.stat 32
          (statusRecord r 2 (s.entry e).pat.ctx false (s.entry e).pat.src (s.entry e).pat.tag 0 0)).modCmd (landKey e) fun _ => {}).withEngine
        (s.pkg.mmatch + 1) hl ((s.rx.without s.cycle i ⟨tk, 0, .cancel r⟩).freeing e) := by
  obtain ⟨h1, htake⟩ := State.takeReq_eq hi
  have hentry : (s.takeReq i).entry e = s.entry e := rfl
  have hrid : (s.takeReq i).rid e = r := State.ridEntry_eq_some hent
  refine ⟨h1, ?_⟩
  unfold State.matchCancel
  rw [hturn]
  dsimp only
  rw [State.takeReq_ridEntry, hent]
  dsimp only
  rw [hentry, hposted, hrid, if_neg (by decide), State.report_none (s := s.takeReq i) hoff hk, htake, State.withEngine_writeLocal,
    State.withEngine_freeEntry]

/-- What MTEST returns of the entry that a receive ID names: gone, posted or delivering (R196). -/
def State.tested (s : State) (r : Nat) : Nat :=
  match s.ridEntry r with
  | some e => if (s.entry e).delivering = true then 2 else 1
  | none => 0

theorem State.matchTest_eq {s : State} {i tk r ret : Nat} (hi : s.rx.ops[i]? = some ⟨tk, 0, .test r ret⟩)
    (hturn : s.rxTurn i = some ⟨tk, 0, .test r ret⟩) : ∃ hl, s.matchTest i =
      (s.modTask tk fun t => t.fillRet ret (s.tested r) false).withEngine (s.pkg.mmatch + 1) hl (s.rx.without s.cycle i ⟨tk, 0, .test r ret⟩) := by
  obtain ⟨h1, htake⟩ := State.takeReq_eq hi
  have hv : (s.takeReq i).tested r = s.tested r := rfl
  refine ⟨h1, ?_⟩
  unfold State.matchTest
  rw [hturn]
  change (s.takeReq i).modTask tk (fun t => t.fillRet ret ((s.takeReq i).tested r) false) = _
  rw [hv, htake]
  rfl

/-- Settles O49: an operation in its turn is taken away and counted, which leaves memory and every table but the engine's; the record of a post, a
probe or a cancel is a store. -/
theorem matchOperationsPerform : Obligations.MatchOperationsPerform := by
  intro s i tk op hs hi hfirst helig hlast core off found rest counted
  have hturn := State.rxTurn_eq_some hi hfirst helig hlast
  have hcount {u t : State} (hu : u.pkg = s.pkg) {hl : Health} {r : Rx} (ht : t = u.withEngine (s.pkg.mmatch + 1) hl r) (hops : r.ops = rest)
      (hel : r.eligible = s.rx.eligible) (hcis : r.cistern = s.rx.cistern) (hm : r.lastMatch = some (s.cycle, RxReq.rank ⟨tk, 0, op⟩)) :
      counted t u := by
    subst ht
    exact ⟨State.withEngine_eq hu .., hops, hel, hcis, hm⟩
  refine ⟨?_, ?_, ?_, ?_⟩
  · rintro a h e rfl hstat hsrc htarget hoff hfound hon he hfree hlow hnone p g en
    obtain ⟨hl, ht⟩ := State.matchPost_eq hi hturn rfl ⟨hstat, hsrc, htarget, hoff, hfound⟩ (State.freePost_eq_some hon he hfree hlow) hnone
    exact ⟨_, _, congrArg Host.Outcome.next ht, State.writeLocal_stores hs .., hcount (State.writeLocal_pkg ..) rfl rfl rfl rfl rfl, rfl, rfl⟩
  · rintro a rfl hstat hsrc htarget hk hon hoff hfound p v
    obtain ⟨hl, ht⟩ := State.matchProbe_eq hi hturn rfl ⟨hstat, hsrc, htarget, hoff, hfound⟩ hk hon
    exact ⟨_, _, congrArg Host.Outcome.next ht, State.writeLocal_stores hs .., hcount (State.writeLocal_pkg ..) rfl rfl rfl rfl rfl, rfl⟩
  · rintro r rfl
    refine ⟨fun hgone => ?_, fun e hent hposted hk hoff => ?_⟩
    · obtain ⟨hl, ht⟩ := State.takeReq_eq hi
      exact ⟨_, congrArg Host.Outcome.next ((State.matchCancel_of_gone hturn hgone).trans ht), hcount rfl rfl rfl rfl rfl rfl, rfl⟩
    · obtain ⟨hl, ht⟩ := State.matchCancel_of_posted hi hturn hent hposted hk hoff
      refine ⟨_, _, congrArg Host.Outcome.next ht, State.writeLocal_stores hs ..,
        hcount (hl := hl) (r := (s.rx.without s.cycle i ⟨tk, 0, .cancel r⟩).freeing e) (State.writeLocal_pkg ..) ?_ rfl rfl rfl rfl, rfl⟩
      exact congrArg (fun c => { State.withEngine _ _ hl _ with cmds := c }) (State.writeLocal_cmds s ..).symm
  · rintro r ret rfl
    obtain ⟨hl, ht⟩ := State.matchTest_eq hi hturn
    exact ⟨_, congrArg Host.Outcome.next ht, hcount (hl := hl) rfl rfl rfl rfl rfl rfl, rfl,
      fun j hj => State.task_modTask_ne hs.tasks hj fun t => t.fillRet ret (s.tested r) false,
      State.task_modTask_self hs.tasks tk fun t => t.fillRet ret (s.tested r) false⟩

end Sys2Proof.Machine
end

section
/-! A message from its send to its receive: MSEND's start and completion (R178, R233, R234), arrival (R178, R179, R182), matching (R184, R185),
a landing without payload (R188), and the completion of a receive (R192). -/

namespace Sys2Proof.Machine

/-! ## MSEND -/

theorem State.modCmd_modCmd {s : State} (h : s.Canonical) (k : Nat) (f g : Cmd → Cmd) :
    (s.modCmd k f).modCmd k g = s.modCmd k fun c => g (f c) := by
  unfold State.modCmd
  simp only [Sparse.modify_modify h.cmds]

/-- The command as it runs from a cycle on, and as an MSEND that has read its descriptor and taken its number. -/
def Cmd.started (c : Cmd) (cycle : Nat) : Cmd := { c with st := .running, start := cycle }
def Cmd.numbered (c : Cmd) (d : List Byte) (q : Nat) : Cmd := { c with mdesc := d, mseq := q, mkind := if 16384 < c.units then 1 else 0 }

/-- The next number of a sending tile's messages to a destination is taken (R178). -/
def State.takeSendSeq (s : State) (key : Nat) : State :=
  { s with rx := { s.rx with sendSeq := Sparse.set 0 s.rx.sendSeq key ((Sparse.get 0 s.rx.sendSeq key + 1) % 2 ^ 32) } }

theorem State.startSend_eq {s : State} {cm core : Nat} (hcore : coreOf (taskOfCmd cm) = core) (hoff : s.WatchesOff core) {d : List Byte}
    (hd : s.read (localPlace core (s.cmd cm).sop.toNat).1 (localPlace core (s.cmd cm).sop.toNat).2 16 = d) (hok : sdOk d = true)
    (hmod : sdMod d = s.fab.modid) : s.startSend cm = (s.takeSendSeq (sdMod d * 1024 + moduleTile core)).modCmd cm
      fun c => c.numbered d (Sparse.get 0 s.rx.sendSeq (sdMod d * 1024 + moduleTile core)) := by
  subst hcore
  have hown : s.ownModule (sdMod d) = true := decide_eq_true hmod
  rw [State.startSend, hd, State.watchLocal_off hoff]
  dsimp only
  rw [hok, hown, if_neg (by decide), if_neg (by simp)]
  rfl

/-- QUEUE_COMMAND_START of an MSEND to the own module that may read its descriptor. -/
theorem State.startCmd_send {s : State} (hs : s.Canonical) {cm core : Nat} (hcore : coreOf (taskOfCmd cm) = core) (hop : (s.cmd cm).op = 0x31)
    (hst : (s.cmd cm).st = .waiting) (hpump : s.pumpRuns core = true) (hrun : s.runningCount core < 64) (hnext : s.startsNext cm = true)
    (hoff : s.WatchesOff core) (hmay : (s.modCmd cm fun c => c.started s.cycle).maySend cm = true) {d : List Byte}
    (hd : s.read (localPlace core (s.cmd cm).sop.toNat).1 (localPlace core (s.cmd cm).sop.toNat).2 16 = d) (hok : sdOk d = true)
    (hmod : sdMod d = s.fab.modid) : s.startCmd cm = (s.takeSendSeq (sdMod d * 1024 + moduleTile core)).modCmd cm
      fun c => (c.started s.cycle).numbered d (Sparse.get 0 s.rx.sendSeq (sdMod d * 1024 + moduleTile core)) := by
  have hself : (s.modCmd cm fun c => c.started s.cycle).cmd cm = (s.cmd cm).started s.cycle := State.cmd_modCmd_self hs.cmds _ _
  have hsend := State.startSend_eq (s := s.modCmd cm fun c => c.started s.cycle) hcore hoff (by rw [hself]; exact hd) hok hmod
  calc s.startCmd cm = (s.modCmd cm fun c => c.started s.cycle).startSend cm := by
        unfold State.startCmd
        simp only [hcore]
        rw [if_neg (by simp [hst, hpump, hrun, hnext])]
        exact if_pos ⟨hop, hmay⟩
    _ = (s.takeSendSeq (sdMod d * 1024 + moduleTile core)).modCmd cm _ := by
        rw [hsend]
        exact State.modCmd_modCmd (s := s.takeSendSeq (sdMod d * 1024 + moduleTile core)) hs cm (fun c => c.started s.cycle)
          fun c => c.numbered d (Sparse.get 0 s.rx.sendSeq (sdMod d * 1024 + moduleTile core))

/-- The command after it has ended DONE, and its task. -/
def Cmd.endedDone (c : Cmd) : Cmd := { c with st := .done, count := c.elems c.pos, walk := none, xl := none, lines := [], under := [], stale := false }
def Task.oneMoreDone (t : Task) : Task := { t with qdone := t.qdone + 1 }

/-- A command that notifies nothing ends DONE: a latency sample apart, its entry and its task's count change (R217, R427). -/
theorem State.doneCmd_eq {s : State} (hs : s.Canonical) {cm : Nat} (hnk : (s.cmd cm).o.nk = false) :
    ∃ h, s.doneCmd cm = { (s.modCmd cm Cmd.endedDone).modTask (taskOfCmd cm) Task.oneMoreDone with health := h } := by
  have hself : ((s.modCmd cm Cmd.endedDone).modTask (taskOfCmd cm) Task.oneMoreDone).cmd cm = (s.cmd cm).endedDone :=
    State.cmd_modCmd_self hs.cmds _ _
  have hnotify : ((s.modCmd cm Cmd.endedDone).modTask (taskOfCmd cm) Task.oneMoreDone).notifyCmd cm =
      (s.modCmd cm Cmd.endedDone).modTask (taskOfCmd cm) Task.oneMoreDone := by
    unfold State.notifyCmd
    rw [hself]
    exact if_neg (Bool.eq_false_iff.1 hnk)
  have hdone : s.doneCmd cm = ((s.modCmd cm Cmd.endedDone).modTask (taskOfCmd cm) Task.oneMoreDone).sample (dieOf (coreOf (taskOfCmd cm)))
      (s.cycle - (s.cmd cm).start) := congrArg (State.sample · _ _) hnotify
  rw [hdone]
  exact State.sample_health ..

/-- MSEND_COMPLETE of a send that is over and names no target. -/
theorem State.sendComplete_eq {s : State} {cm : Nat} (hop : (s.cmd cm).op = 0x31) (hst : (s.cmd cm).st = .running) (hsent : (s.cmd cm).sent = true)
    (hover : (s.cmd cm).mkind = 0 ∨ (s.cmd cm).mdone = true ∧ (s.cmd cm).rel = 0) (hk : sdKind (s.cmd cm).mdesc = 0) :
    s.sendComplete cm = s.doneCmd cm := by
  have hcond : (decide ((s.cmd cm).op = 0x31) && (s.cmd cm).live && (s.cmd cm).sent &&
      (decide ((s.cmd cm).mkind = 0) || (s.cmd cm).mdone && decide ((s.cmd cm).rel = 0))) = true := by
    simpa [hop, Cmd.live, hst, hsent] using hover
  unfold State.sendComplete
  dsimp only
  rw [if_pos hcond, hk]
  rfl

/-! ## A landing without more to land -/

/-- A step of a landing that has ended does nothing (R190). -/
theorem State.landOne_of_fin {s : State} {e st : Nat} (hfin : (s.entry e).fin = some st) (hredo : (s.cmd (landKey e)).redo = []) :
    s.landOne e = (s, false) := by
  unfold State.landOne
  dsimp only
  split
  · rfl
  · rw [hredo, hfin]
    split <;> rfl

theorem State.landAll_of_stopped {s : State} {e : Nat} {u : State} (hfuel : (s.entry e).landFuel ≠ 0) (h : s.landOne e = (u, false)) :
    s.landAll e = u := by
  obtain ⟨n, hn⟩ := Nat.exists_eq_succ_of_ne_zero hfuel
  rw [State.landAll, hn, State.landLoop, h]
  rfl

theorem Entry.landFuel_ne_zero {en : Entry} {m : Msg} (h : en.msg = some m) : en.landFuel ≠ 0 := by
  rw [Entry.landFuel, h]
  exact Nat.succ_ne_zero _

/-- The landing of a message without payload is over at once, and asks nothing of its sender. -/
theorem State.landOne_of_empty {s : State} {e : Nat} {m : Msg} (hmsg : (s.entry e).msg = some m) (hlen : m.len = 0)
    (hdel : (s.entry e).delivering = true) (hpaused : (s.entry e).paused = false) (hredo : (s.cmd (landKey e)).redo = [])
    (hfin : (s.entry e).fin = none) : s.landOne e = (s.modEntry e fun en => { en with fin := some 0 }, false) := by
  have hbytes : (s.entry e).landBytes m = 0 := by rw [Entry.landBytes, hlen, Nat.zero_min]
  have hlanded : (s.entry e).landed m = true := by simp [Entry.landed, hbytes]
  unfold State.landOne
  simp only [hmsg, hdel, hpaused, hredo, hfin, hlanded, hbytes, hlen]
  rfl

theorem State.entry_modEntry_self {s : State} {e : Nat} {f : Entry → Entry} (hf : f (s.entry e) ≠ {}) : (s.modEntry e f).entry e = f (s.entry e) :=
  Sparse.get_set_listed _ _ hf

theorem State.modEntry_modEntry {s : State} {e : Nat} {f : Entry → Entry} (hf : f (s.entry e) ≠ {}) (g : Entry → Entry) :
    (s.modEntry e f).modEntry e g = s.modEntry e fun en => g (f en) := by
  have hget : Sparse.get {} (Sparse.modify {} s.rx.entries e f) e = f (s.entry e) := State.entry_modEntry_self hf
  have hset : Sparse.modify {} (Sparse.modify {} s.rx.entries e f) e g = Sparse.modify {} s.rx.entries e fun en => g (f en) := by
    rw [Sparse.modify, hget]
    exact Sparse.set_set _ _ _ hf
  exact congrArg (fun l => { s with rx := { s.rx with entries := l } }) hset

/-- The entry that a message has been delivered into, before anything has landed. -/
def Entry.delivered (en : Entry) (m : Msg) : Entry := { en with delivering := true, msg := some m, got := 0, paused := false, fin := none }

theorem Entry.delivered_ne_default (en : Entry) (m : Msg) : en.delivered m ≠ {} := fun h => Bool.noConfusion (congrArg Entry.delivering h)

/-- A message without payload that is delivered ends its landing at once, with nothing truncated (R188, R192). -/
theorem State.deliverMsg_empty {s : State} (hs : s.Canonical) {m : Msg} (hlen : m.len = 0) (e : Nat) :
    s.deliverMsg m e = (s.modCmd (landKey e) fun _ => { st := .running }).modEntry e fun en => { en.delivered m with fin := some 0 } := by
  have hne := (s.entry e).delivered_ne_default m
  have hentry : ((s.modEntry e fun en => en.delivered m).modCmd (landKey e) fun _ => { st := .running }).entry e = (s.entry e).delivered m :=
    State.entry_modEntry_self hne
  have hcmd : ((s.modEntry e fun en => en.delivered m).modCmd (landKey e) fun _ => { st := .running }).cmd (landKey e) = { st := .running } :=
    State.cmd_modCmd_self (s := s.modEntry e fun en => en.delivered m) hs.cmds _ _
  have hone := State.landOne_of_empty (m := m) (by rw [hentry]; rfl) hlen (by rw [hentry]; rfl) (by rw [hentry]; rfl) (by rw [hcmd])
    (by rw [hentry]; rfl)
  have hall := State.landAll_of_stopped (Entry.landFuel_ne_zero (m := m) (by rw [hentry]; rfl)) hone
  refine Eq.trans hall ?_
  exact congrArg (State.modCmd · (landKey e) fun _ => { st := .running }) (State.modEntry_modEntry hne fun en => { en with fin := some 0 })

/-! ## The place of a message -/

theorem State.withEngine_putRegion (s : State) (n : Word32) (h : Health) (r : Rx) (l : List (Nat × Byte)) :
    (s.withEngine n h r).putRegion l = (s.putRegion l).map (·.withEngine n h r) := by
  induction l generalizing s with
  | nil => rfl
  | cons x l ih =>
    rw [State.putRegion, State.putRegion, State.withEngine_rxPlace]
    cases s.rxPlace x.1 true with
    | some pa => exact ih { s with mem := s.mem.put (place .hbm pa) x.2 }
    | none => rfl

theorem State.withEngine_storeHead (s : State) (n : Word32) (h : Health) (r : Rx) (m : Msg) :
    (s.withEngine n h r).storeHead m = (s.storeHead m).map (·.withEngine n h r) := by
  rw [State.storeHead, State.storeHead, State.withEngine_rxPlace, State.withEngine_headAddr]
  split
  · rfl
  · cases s.rxPlace (s.headAddr m) true with
    | some pa => exact congrArg Except.ok (State.withEngine_writeLE ..)
    | none => rfl

theorem State.withEngine_roomBytes (s : State) (n : Word32) (h : Health) (r : Rx) (m : Msg) (q : Nat) (l : List Byte) :
    (s.withEngine n h r).roomBytes m q l = (s.roomBytes m q l).map (·.withEngine n h r) := s.withEngine_putRegion n h r _

theorem State.putRegion_pkg {s u : State} {l : List (Nat × Byte)} (h : s.putRegion l = .ok u) : u.pkg = s.pkg := by
  induction l generalizing s with
  | nil => cases h; rfl
  | cons x l ih =>
    rw [State.putRegion] at h
    split at h
    · exact (ih h).trans rfl
    · cases h

theorem State.storeHead_pkg {s u : State} {m : Msg} (h : s.storeHead m = .ok u) : u.pkg = s.pkg := by
  unfold State.storeHead at h
  split at h
  · cases h; rfl
  · split at h
    · rw [← Except.ok.inj h, State.writeLE_eq]
    · cases h

/-- The message as it stands in its place. -/
def Msg.placed (m : Msg) : Msg := { m with kept := true, stored := m.stored + m.payload.length, payload := [] }

/-- The addresses that a message's header and payload are stored at. -/
def State.storeAddrs (s : State) (m : Msg) : List Nat :=
  (if m.onChip || m.kept then [] else [s.headAddr m]) ++ (List.range m.payload.length).map fun i => s.payAddr m (m.stored + i)

theorem State.store_of_head_error {s : State} {m : Msg} {a : Nat} (hhead : s.storeHead m = .error a) : s.store m = .error a := by
  rw [State.store, hhead]

/-- A message takes its place (R179): its header is stored, then its payload. -/
theorem State.store_of_head {s s0 : State} {m : Msg} (hhead : s.storeHead m = .ok s0) :
    s.store m = ((s0.notePages (s.storeAddrs m)).roomBytes m m.stored m.payload).map fun u => (u, m.placed) := by
  rw [State.store, hhead]
  dsimp only
  change _ = Except.map _ ((s0.notePages ((if m.onChip || m.kept then [] else [s.headAddr m]) ++ _)).roomBytes m m.stored m.payload)
  cases (s0.notePages ((if m.onChip || m.kept then [] else [s.headAddr m]) ++ _)).roomBytes m m.stored m.payload with
  | error a => rfl
  | ok u => rfl

/-- What a message that has taken its place leaves, and that its place does not depend on the engine's own tables and counts; the monitors take
samples on the way. -/
theorem State.store_eq_ok {s : State} {m : Msg} {u : State} {x : Msg} (hstore : s.store m = .ok (u, x)) :
    u.pkg = s.pkg ∧ x = m.placed ∧ ∀ n h r, ∃ h', (s.withEngine n h r).store m = .ok (u.withEngine n h' r, x) := by
  cases hhead : s.storeHead m with
  | error a => rw [State.store_of_head_error hhead] at hstore; cases hstore
  | ok s0 =>
    obtain ⟨h0, e0⟩ := s0.notePages_health (s.storeAddrs m)
    rw [State.store_of_head hhead, e0] at hstore
    cases hroom : State.roomBytes { s0 with health := h0 } m m.stored m.payload with
    | error a => rw [hroom] at hstore; cases hstore
    | ok s2 =>
      rw [hroom] at hstore
      cases hstore
      have hpkg := State.putRegion_pkg hroom
      refine ⟨hpkg.trans (State.storeHead_pkg hhead :), rfl, fun n h r => ?_⟩
      have hhead' : (s.withEngine n h r).storeHead m = .ok (s0.withEngine n h r) := by rw [State.withEngine_storeHead, hhead]; rfl
      obtain ⟨h1, e1⟩ := (s0.withEngine n h r).notePages_health ((s.withEngine n h r).storeAddrs m)
      have hroom' : State.roomBytes { s0.withEngine n h r with health := h1 } m m.stored m.payload = .ok (u.withEngine n h1 r) :=
        (State.withEngine_roomBytes { s0 with health := h0 } n h1 r m m.stored m.payload).trans (by rw [hroom]; rfl)
      exact ⟨h1, by rw [State.store_of_head hhead', e1, hroom']; rfl⟩

/-! ## Arrival -/

theorem State.arrival_refused {s : State} {i : Nat} {m : Msg} (hi : s.rx.arrivals[i]? = some m) (hoff : s.rxOn = false) :
    s.arrival i = s.refuseMsg m := by
  simp [State.arrival, hi, State.takeIn, hoff]

theorem State.reserve_eq_some {s : State} {m m' : Msg} (h : s.reserve m = some m') : m'.seq = m.seq ∧ m'.src = m.src := by
  unfold State.reserve at h
  dsimp only at h
  split at h
  · cases h
    exact ⟨rfl, rfl⟩
  · cases h

theorem Rx.refused_of_nil {r : Rx} (h : r.refusing = []) (m : Msg) : r.refused m = false := by rw [Rx.refused, h]; rfl

theorem Rx.accepted_of_nil {r : Rx} (h : r.refusing = []) (m : Msg) : r.accepted m = r := by
  rw [Rx.accepted, h]
  exact congrArg (fun l => { r with refusing := l }) h.symm

/-- A message that may take a place is judged by the number expected of its source, which the engine reads. -/
theorem State.takeIn_eq {s : State} {m m' : Msg} {pa : Nat} (hon : s.rxOn = true) (hnone : s.rx.refusing = [])
    (hplace : s.rxPlace (s.seqAddr m.src) false = some pa) (hres : s.reserve m = some m') :
    ∃ h, s.takeIn m = ({ s with health := h } : State).placeMsg m' pa := by
  obtain ⟨h1, e1⟩ := s.noteWalks_health (s.seqAddr m.src)
  obtain ⟨h2, e2⟩ := State.hbmRead_health { s with health := h1 } pa 4
  refine ⟨h2, ?_⟩
  have hplace' : State.rxPlace { s with health := h1 } (State.seqAddr { s with health := h1 } m.src) false = some pa := hplace
  have hres' : State.reserve { s with health := h2 } m = some m' := hres
  rw [State.takeIn, hon, Rx.refused_of_nil hnone, e1]
  change State.takeSeq { s with health := h1 } m = _
  rw [State.takeSeq, hplace']
  dsimp only
  rw [e2, hres']

/-- MESSAGE_ARRIVAL ahead of sequence. -/
theorem State.arrival_held {s : State} {i pa : Nat} {m m' : Msg} (hi : s.rx.arrivals[i]? = some m) (hon : s.rxOn = true)
    (hnone : s.rx.refusing = []) (hplace : s.rxPlace (s.seqAddr m.src) false = some pa) (hres : s.reserve m = some m')
    (hseq : m.seq ≠ s.mem.le pa 4) (hroom : s.rx.hold.length < 2048) {u : State} {x : Msg} (hstore : s.store m' = .ok (u, x)) :
    ∃ h, s.arrival i = u.withEngine s.pkg.mmatch h { s.rx with arrivals := s.rx.arrivals.eraseIdx i, hold := s.rx.hold ++ [x] } := by
  obtain ⟨h1, htake⟩ := State.takeIn_eq hon hnone hplace hres
  obtain ⟨hseq', -⟩ := State.reserve_eq_some hres
  obtain ⟨-, -, hmoved⟩ := State.store_eq_ok hstore
  obtain ⟨h2, hstore⟩ : ∃ h2, State.store { s with health := h1 } m' = .ok (u.withEngine s.pkg.mmatch h2 s.rx, x) := hmoved s.pkg.mmatch h1 s.rx
  have hne : m'.seq ≠ State.readLE { s with health := h1 } .hbm pa 4 := by rw [hseq']; exact hseq
  have hplaced : State.placeMsg { s with health := h1 } m' pa = (true, u.withEngine s.pkg.mmatch h2 (s.rx.keep x)) := by
    unfold State.placeMsg
    dsimp only
    rw [if_pos hne, if_neg (Nat.not_le.2 hroom), Rx.accepted_of_nil hnone, hstore]
    rfl
  refine ⟨h2, ?_⟩
  unfold State.arrival
  rw [hi]
  dsimp only
  rw [htake, hplaced]
  rfl

theorem Rx.takeNext_of_nil {r : Rx} (h : r.hold = []) (m : Msg) (cyc : Nat) :
    r.takeNext m cyc = ({ r with eligible := r.eligible ++ [{ m with cycle := cyc }] }, (m.seq + 1) % 2 ^ 32) := by
  rw [Rx.takeNext, h]
  simp only [Rx.release, List.find?_nil]

/-- MESSAGE_ARRIVAL in sequence, with nothing held. -/
theorem State.arrival_eligible {s : State} {i pa : Nat} {m m' : Msg} (hi : s.rx.arrivals[i]? = some m) (hon : s.rxOn = true)
    (hnone : s.rx.refusing = []) (hplace : s.rxPlace (s.seqAddr m.src) false = some pa)
    (hwrite : (s.rxPlace (s.seqAddr m.src) true).isSome = true) (hres : s.reserve m = some m') (hseq : m.seq = s.mem.le pa 4)
    (hhold : s.rx.hold = []) :
    ∃ h, s.arrival i = (s.writeLE .hbm pa 4 ((m.seq + 1) % 2 ^ 32)).withEngine s.pkg.mmatch h { s.rx with
      arrivals := s.rx.arrivals.eraseIdx i, eligible := s.rx.eligible ++ [{ m' with cycle := s.eligibleCycle }] } := by
  obtain ⟨h1, htake⟩ := State.takeIn_eq hon hnone hplace hres
  obtain ⟨hseq', hsrc⟩ := State.reserve_eq_some hres
  have heq : ¬ m'.seq ≠ State.readLE { s with health := h1 } .hbm pa 4 := fun hne => hne (hseq'.trans hseq)
  have hthere : ¬ (State.rxPlace { s with health := h1 } (State.seqAddr { s with health := h1 } m'.src) true).isNone = true := by
    obtain ⟨pw, hpw⟩ := Option.isSome_iff_exists.1 hwrite
    rw [hsrc]
    change ¬ (s.rxPlace (s.seqAddr m.src) true).isNone = true
    rw [hpw]
    exact Bool.false_ne_true
  have hplaced : State.placeMsg { s with health := h1 } m' pa = (true, (s.writeLE .hbm pa 4 ((m.seq + 1) % 2 ^ 32)).withEngine s.pkg.mmatch h1
      { s.rx with eligible := s.rx.eligible ++ [{ m' with cycle := s.eligibleCycle }] }) := by
    unfold State.placeMsg
    dsimp only
    rw [if_neg heq, if_neg hthere, Rx.accepted_of_nil hnone, Rx.takeNext_of_nil hhold, hseq', ← State.withEngine_writeLE]
    rfl
  refine ⟨h1, ?_⟩
  unfold State.arrival
  rw [hi]
  dsimp only
  rw [htake, hplaced]
  rfl

/-! ## Matching -/

theorem State.nextEligible_eq_some {s : State} {i : Nat} {m : Msg} (hi : s.rx.eligible[i]? = some m)
    (hfirst : ∀ j x, j < i → s.rx.eligible[j]? = some x → x.src ≠ m.src) (hcyc : m.cycle ≤ s.cycle)
    (hnext : ∀ x ∈ s.rx.eligible, x.before m = false) : s.nextEligible i = some m := by
  have h1 : s.rx.eligible.any (·.before m) = false := List.any_eq_false.2 fun x hx => by simp [hnext x hx]
  have h2 : (s.rx.eligible.take i).any (fun x => decide (x.src = m.src)) = false :=
    any_take_eq_false fun j x hj hx => decide_eq_false (hfirst j x hj hx)
  rw [State.nextEligible, hi]
  simp [hcyc, h1, h2]

/-- The engine's tables after eligible message i has been taken to be matched. -/
def Rx.matching (r : Rx) (cycle i : Nat) : Rx := { r with eligible := r.eligible.eraseIdx i, lastMatch := some (cycle, 0) }

/-- MATCH_ELIGIBLE_MESSAGE of the next message: it is counted, then delivered or put into the cistern. -/
theorem State.matchMessage_eq {s : State} {i : Nat} {m : Msg} (hnext : s.nextEligible i = some m) :
    ∃ h, (s.rx.oldestFit m = none → s.matchMessage i = (s.withEngine (s.pkg.mmatch + 1) h (s.rx.matching s.cycle i)).toCistern m) ∧
      ∀ e, s.rx.oldestFit m = some e → s.matchMessage i = (s.withEngine (s.pkg.mmatch + 1) h (s.rx.matching s.cycle i)).deliverMsg m e := by
  refine ⟨(State.matchDone { s with rx := s.rx.matching s.cycle i }).health, ?_⟩
  generalize hh : (State.matchDone { s with rx := s.rx.matching s.cycle i }).health = h
  have hfit : (s.rx.matching s.cycle i).oldestFit m = s.rx.oldestFit m := rfl
  unfold State.matchMessage
  rw [hnext]
  dsimp -zeta only
  extract_lets _ s1
  have hs1 : s1 = s.withEngine (s.pkg.mmatch + 1) h (s.rx.matching s.cycle i) := by rw [← hh]; rfl
  clear_value s1
  subst hs1
  rw [State.withEngine_rx, hfit]
  exact ⟨fun hnone => by rw [hnone], fun e he => by rw [he]⟩

theorem State.toCistern_withEngine {s : State} {m : Msg} {u : State} {x : Msg} (hin : (if m.kept = true then .ok (s, m) else s.store m) = Except.ok (u, x))
    (n : Word32) (h : Health) (r : Rx) :
    u.pkg = s.pkg ∧ ∃ h', (s.withEngine n h r).toCistern m = u.withEngine n h' { r with cistern := r.cistern ++ [x] } := by
  unfold State.toCistern
  split at hin
  · next hk =>
    cases hin
    rw [if_pos hk]
    exact ⟨rfl, h, rfl⟩
  · next hk =>
    obtain ⟨hpkg, -, hmoved⟩ := State.store_eq_ok hin
    obtain ⟨h', hstore⟩ := hmoved n h r
    rw [if_neg hk, hstore]
    exact ⟨hpkg, h', rfl⟩

/-! ## The completion of a receive -/

/-- RECEIVE_COMPLETE of an ended landing that waits for nothing and names no target: the status record is written, and the entry is free. -/
theorem State.receiveComplete_eq {s : State} {e st : Nat} {m : Msg} (hfin : (s.entry e).fin = some st) (hmsg : (s.entry e).msg = some m)
    (howed : (s.cmd (landKey e)).owed = []) (hredo : (s.cmd (landKey e)).redo = []) (hruns : s.entryRuns (s.entry e) = true)
    (hsender : s.awaitsSender (s.entry e) = false) (hk : (s.entry e).pat.tkind = 0) (hoff : s.WatchesOff (coreOf (s.entry e).task)) :
    s.receiveComplete e = (s.writeLocal (coreOf (s.entry e).task) (s.entry e).pat.stat 32
      (statusRecord (s.rid e) st m.ctx m.rts m.src m.tag m.len (s.entry e).gotBytes)).freeEntry e := by
  have hland : s.landAll e = s := State.landAll_of_stopped (Entry.landFuel_ne_zero hmsg) (State.landOne_of_fin hfin hredo)
  unfold State.receiveComplete
  dsimp only
  rw [hland, hfin]
  dsimp only
  rw [howed, hredo, hruns, hsender, if_neg (by decide), hmsg, State.report_some hoff hk]

theorem State.freeEntry_cmd {s : State} (hs : s.Canonical) (e : Nat) {j : Nat} (hj : j ≠ landKey e) : (s.freeEntry e).cmd j = s.cmd j :=
  State.cmd_modCmd_ne (s := s.modEntry e fun en => { gen := en.gen }) hs.cmds hj _

/-- Freeing an entry after a change that left the engine's tables. -/
theorem State.freeEntry_eq {s u : State} (h : u.rx = s.rx) (e : Nat) : u.freeEntry e =
    { u with rx := { s.rx with entries := Sparse.set {} s.rx.entries e { gen := (s.entry e).gen } }, cmds := (u.freeEntry e).cmds } := by
  rw [State.entry, ← h]
  rfl

/-- Settles O48: each event in the case that the statement names, and what it leaves; the reads of the engine's region are samples of the monitors. -/
theorem messagesArriveAndMatch : Obligations.MessagesArriveAndMatch := by
  intro s hs off
  refine ⟨?_, ?_, ?_, ?_, ?_⟩
  · intro cm c core d key q hop hst hpump hrun hnext hoff hmay hok hmod
    have hcore : coreOf (taskOfCmd cm) = core := Nat.div_div_eq_div_mul cm 16 8
    have hwf : Sparse.wf ({} : Cmd) (s.takeSendSeq key).cmds = true := hs.cmds
    refine ⟨_, congrArg Host.Outcome.next (State.startCmd_send hs hcore hop hst hpump hrun hnext hoff hmay rfl hok hmod), rfl, fun j hj => ?_, ?_⟩
    · exact State.cmd_modCmd_ne hwf hj _
    · exact State.cmd_modCmd_self hwf _ _
  · intro i m hi gone
    refine ⟨fun hoff => ?_, fun pa m' hon hnone hplace hwrite hres => ⟨fun hseq hroom u x hstore => ?_, fun hseq hhold => ?_⟩⟩
    · exact ⟨_, congrArg Host.Outcome.next (State.arrival_refused hi hoff), rfl, rfl, rfl, rfl, rfl⟩
    · obtain ⟨h, ht⟩ := State.arrival_held hi hon hnone hplace hres hseq hroom hstore
      obtain ⟨hpkg, hx, -⟩ := State.store_eq_ok hstore
      exact ⟨_, congrArg Host.Outcome.next ht, by rw [← hpkg]; rfl, hx⟩
    · obtain ⟨h, ht⟩ := State.arrival_eligible hi hon hnone hplace hwrite hres hseq hhold
      refine ⟨_, congrArg Host.Outcome.next ht, rfl, ?_, State.writeLE_outside hs _ _ _ _⟩
      exact (State.readLE_writeLE hs .hbm pa 4 _).trans (Nat.mod_eq_of_lt (Nat.mod_lt _ (by decide)))
  · intro i m hi hfirst hcyc hbefore rest
    obtain ⟨h, hcistern, hdeliver⟩ := State.matchMessage_eq (State.nextEligible_eq_some hi hfirst hcyc hbefore)
    refine ⟨fun u x hnone hin => ?_, fun e he hlen => ?_⟩
    · obtain ⟨hpkg, h', ht⟩ := State.toCistern_withEngine hin (s.pkg.mmatch + 1) h (s.rx.matching s.cycle i)
      exact ⟨_, congrArg Host.Outcome.next ((hcistern hnone).trans ht), State.withEngine_eq hpkg ..⟩
    · have hland := State.deliverMsg_empty (s := s.withEngine (s.pkg.mmatch + 1) h (s.rx.matching s.cycle i)) hs hlen e
      exact ⟨_, congrArg Host.Outcome.next ((hdeliver e he).trans hland), rfl, rfl⟩
  · intro e st m en hfin hmsg howed hredo hruns hsender hk hoff
    refine ⟨_, _, congrArg Host.Outcome.next (State.receiveComplete_eq hfin hmsg howed hredo hruns hsender hk hoff), State.writeLocal_stores hs .., ?_,
      fun j hj => ?_⟩
    · exact State.freeEntry_eq (State.writeLocal_rx s ..) e
    · exact (State.freeEntry_cmd (State.writeLocal_canonical hs ..) e hj).trans (State.writeLocal_cmd ..)
  · intro cm c hop hst hsent hover hnk hk
    obtain ⟨h, hdone⟩ := State.doneCmd_eq hs hnk
    refine ⟨_, congrArg Host.Outcome.next ((State.sendComplete_eq hop hst hsent hover hk).trans hdone), rfl, ?_, ?_, ?_, ?_⟩
    · exact fun j hj => State.cmd_modCmd_ne hs.cmds hj Cmd.endedDone
    · exact State.cmd_modCmd_self hs.cmds cm Cmd.endedDone
    · exact fun j hj => State.task_modTask_ne (s := s.modCmd cm Cmd.endedDone) hs.tasks hj Task.oneMoreDone
    · exact State.task_modTask_self (s := s.modCmd cm Cmd.endedDone) hs.tasks (taskOfCmd cm) Task.oneMoreDone

end Sys2Proof.Machine
end

section
/-! A port whose oldest access waits: what it is given joins its end (R166, R295, R305); and which ports each scope includes (R290, R296). -/

namespace Sys2Proof.Machine

/-- The oldest access of a task's port waits, for a lock bit or for responses (R150, R166). -/
def Task.Stalled (t : Task) (b : Access) (l : List Access) : Prop := t.port = b :: l ∧ (t.waitLock.isSome = true ∨ t.held b = true)

/-- What LD, ST and FENCE leave at a stalled port: the task's own change g, and the access at the end of the port. -/
def State.queued (s : State) (g : Task → Task) (a : Access) : State := s.modTask s.me fun t => { g t with port := t.port ++ [a] }

theorem State.queued_task {s : State} (h : s.Canonical) {b : Access} {l : List Access} (hb : (s.task s.me).Stalled b l) (g : Task → Task) (a : Access) :
    (s.queued g a).task s.me = { g (s.task s.me) with port := b :: l ++ [a] } := by
  rw [State.queued, State.task_modTask_self h.tasks, hb.1]

theorem State.queued_onlyTask {s : State} (h : s.Canonical) (g : Task → Task) (a : Access) : OnlyTask s (s.queued g a) s.me :=
  State.modTask_onlyTask h _ _

/-- Nothing performs at a stalled port, however many accesses are tried. -/
theorem State.drainPort_of_stalled {s : State} {tk : Nat} {b : Access} {l : List Access} (hb : (s.task tk).Stalled b l) (n : Nat) :
    State.drainPort n tk s = s := by
  obtain ⟨hport, hwait⟩ := hb
  cases n with
  | zero => rfl
  | succ n =>
    have hstop : ((s.task tk).waitLock.isSome || s.accWaits tk b) = true := by
      rcases hwait with hlock | hheld
      · rw [hlock, Bool.true_or]
      · rw [State.accWaits, hheld, Bool.true_or, Bool.true_or, Bool.or_true]
    simp only [State.drainPort, hport, hstop, if_true]

theorem State.access_of_stalled {s : State} (h : s.Canonical) {b : Access} {l : List Access} (hb : (s.task s.me).Stalled b l) (a : Access) :
    s.access a = s.queued id a := by
  have hq : ((s.queued id a).task s.me).Stalled b (l ++ [a]) := by
    rw [State.queued_task h hb]
    exact ⟨rfl, hb.2⟩
  change (if (s.task s.me).lag = true then s.queued id a else
    State.drainPort ((s.queued id a).task s.me).port.length s.me (s.queued id a)) = s.queued id a
  rw [State.drainPort_of_stalled hq, ite_self]

/-- An access with a return waits at the end of the port, the return outstanding (R71). -/
theorem State.accessRet_of_stalled {s : State} (h : s.Canonical) {b : Access} {l : List Access} (hb : (s.task s.me).Stalled b l) (kind : AccKind)
    (addr d n : Nat) : s.accessRet kind addr d n =
      s.queued (fun t => t.addRet (some (d, n)) none none) ⟨kind, addr, some (s.task s.me).nextRet, []⟩ := by
  let u := s.modTask s.me fun t => t.addRet (some (d, n)) none none
  have hu : (u.task u.me).Stalled b l := by
    rw [State.modTask_me, State.task_modTask_self h.tasks]
    exact hb
  exact (State.access_of_stalled (State.modTask_canonical h _ _) hu _).trans (State.modTask_modTask h _ _ _)

/-! ## The instructions -/

theorem exec_ld {s : State} {o : OpI} (ha : s.acts o.lc o.p = true) (hc : s.chk s.myCore (s.memAddr o) (memBytes o) = none) :
    exec (.ld o) s = .next (s.accessRet (.ld (memBytes o)) (s.memAddr o) o.d (wBits o.w / 4)) := by
  change execLd o s = _
  rw [execLd, ldCause, State.chkCause, hc, ha, Option.map_none, slotOr_none]

theorem exec_st {s : State} {o : OpI} (ha : s.acts o.lc o.p = true) (hc : s.chk s.myCore (s.memAddr o) (memBytes o) = none) :
    exec (.st o) s = .next (s.access ⟨.st (memBytes o) (s.rd o.d (wBits o.w)), s.memAddr o, none, []⟩) := by
  change execSt o s = _
  rw [execSt, ldCause, State.chkCause, hc, ha, Option.map_none, slotOr_none]

/-! ## The ports that a scope includes -/

theorem sameHome_some (x : Nat) (b : Option Nat) : sameHome (some x) b = decide (some x = b) := rfl

theorem sameHome_some_some (x y : Nat) : sameHome (some x) (some y) = decide (x = y) :=
  decide_eq_decide.2 Option.some_inj

theorem State.inst_task_task (s : State) (t u : Nat) : s.inst (.task t) 0 (.task u) = decide (t = u) := by
  simp only [State.inst, PortId.task.injEq, Bool.or_false]

theorem State.inst_task_stream (s : State) (t cm : Nat) : s.inst (.task t) 0 (.stream cm) = decide (taskOfCmd cm = t) := by
  simp only [State.inst, reduceCtorEq, decide_false, Bool.false_or]

section
variable {s : State} {a b : PortId} (h : s.homeModule a = s.homeModule b)
include h

theorem State.inst_tile : s.inst a 1 b = sameHome (s.homeTile a) (s.homeTile b) := by simp only [State.inst, h, decide_true, Bool.true_and]
theorem State.inst_field : s.inst a 2 b = sameHome (s.homeField a) (s.homeField b) := by simp only [State.inst, h, decide_true, Bool.true_and]
theorem State.inst_die : s.inst a 3 b = sameHome (s.homeDie a) (s.homeDie b) := by simp only [State.inst, h, decide_true, Bool.true_and]
theorem State.inst_module : s.inst a 4 b = true := decide_eq_true h

end

/-- A port of this module homed in core c's tile, seen from a task's port. -/
theorem State.inst_of_core {s : State} {b : PortId} {c : Nat} (hm : s.homeModule b = s.fab.modid) (ht : s.homeTile b = some c)
    (hd : s.homeDie b = some (dieOf c)) (t : Nat) :
    s.inst (.task t) 1 b = decide (coreOf t = c) ∧ s.inst (.task t) 3 b = decide (dieOf (coreOf t) = dieOf c) ∧ s.inst (.task t) 4 b = true := by
  have hmod : s.homeModule (.task t) = s.homeModule b := hm.symm
  refine ⟨?_, ?_, State.inst_module hmod⟩
  · rw [State.inst_tile hmod, ht]
    exact sameHome_some_some _ _
  · rw [State.inst_die hmod, hd]
    exact sameHome_some_some _ _

/-- A port of this module, seen at field scope from a task of field f. -/
theorem State.inst_of_field {s : State} {b : PortId} {t f : Nat} (hm : s.homeModule b = s.fab.modid) (hf : s.fieldOf (coreOf t) = some f) :
    s.inst (.task t) 2 b = decide (s.homeField b = some f) := by
  have ha : s.homeField (.task t) = some f := hf
  rw [State.inst_field (a := .task t) hm.symm, ha, sameHome_some]
  exact decide_eq_decide.2 eq_comm

theorem State.homeField_remote_self (s : State) (w a : Nat) : s.homeField (.remote s.fab.modid w a) = s.fieldOf (coreOf w) := if_pos rfl

/-- The port of another module is outside module scope, and in group scope exactly when the applied table names that module. -/
theorem State.inst_of_otherModule {s : State} {m : Nat} (hm : m ≠ s.fab.modid) (t w a : Nat) :
    s.inst (.task t) 4 (.remote m w a) = false ∧ s.inst (.task t) 5 (.remote m w a) = (s.fab.applied && s.fab.ports.contains m) := by
  refine ⟨decide_eq_false hm.symm, ?_⟩
  change (s.inGroup s.fab.modid && s.inGroup m) = _
  simp only [State.inGroup, hm, decide_true, decide_false, Bool.true_or, Bool.true_and, Bool.false_or]

theorem State.synchronises_comm (s : State) (a : PortId) (x : Nat) (b : PortId) (y : Nat) : s.synchronises a x b y = s.synchronises b y a x :=
  Bool.and_comm _ _

/-- Settles O34: each instruction is an access given to a stalled port; each scope is read off the homes of the two ports. -/
theorem accessesKeepTheirOrder : Obligations.AccessesKeepTheirOrder := by
  refine ⟨?_, ?_⟩
  · intro s b l hs k hport hwait
    have hb : k.Stalled b l := ⟨hport, hwait⟩
    have hleft (g : Task → Task) (a : Access) : OnlyTask s (s.queued g a) s.me ∧ (s.queued g a).task s.me = { g k with port := b :: l ++ [a] } :=
      ⟨State.queued_onlyTask hs g a, State.queued_task hs hb g a⟩
    refine ⟨?_, fun x kind scope ha => ?_⟩
    · intro o ha addr n hc
      exact ⟨⟨_, (exec_ld ha hc).trans (congrArg _ (State.accessRet_of_stalled hs hb ..)), hleft _ _⟩,
        _, (exec_st ha hc).trans (congrArg _ (State.access_of_stalled hs hb _)), hleft _ _⟩
    · exact ⟨_, (exec_fence ha kind scope).trans (congrArg _ (State.access_of_stalled hs hb _)), hleft _ _⟩
  · intro s t u cm k me
    obtain ⟨htask1, htask3, htask4⟩ := State.inst_of_core (s := s) (b := .task u) rfl rfl rfl t
    obtain ⟨hstream1, -, -⟩ := State.inst_of_core (s := s) (b := .stream cm) rfl rfl rfl t
    obtain ⟨hbin1, -, -⟩ := State.inst_of_core (s := s) (b := .bin k) rfl rfl rfl t
    refine ⟨s.inst_task_task t u, s.inst_task_stream t cm, rfl, htask1, hstream1, hbin1, fun f hf => ⟨State.inst_of_field rfl hf, fun g => ?_⟩,
      htask3, State.inst_die rfl, htask4, State.inst_module rfl, fun m w a hm => State.inst_of_otherModule hm t w a, fun w a => ?_,
      s.synchronises_comm⟩
    · exact (State.inst_of_field rfl hf).trans (decide_eq_decide.2 (Option.some_inj.trans eq_comm))
    · obtain ⟨hself1, hself3, hself4⟩ := State.inst_of_core (s := s) (b := .remote s.fab.modid w a) rfl rfl rfl t
      exact ⟨hself1, hself3, hself4, fun f hf => by rw [State.inst_of_field rfl hf, State.homeField_remote_self]⟩

end Sys2Proof.Machine
end

section
/-! TRANSLATION_WALK: a walk that is over, the leaf it brings, and how it pauses a stream or ends a field (R53, R218, R359-R362). -/

namespace Sys2Proof.Machine

/-! ## How a walk ends -/

/-- A leaf that permits the access and does not migrate, or migrates under a read, is taken (R361, R365). -/
theorem Walk.judge_of_permits {w : Walk} {l : Leaf} {wr : Bool} (hw : w = .ok l ∨ w = .mig l) (hwrite : wr = true → bitB l.entry 2 = true)
    (hmig : bitB l.entry 5 = false ∨ wr = false) : w.judge wr .stream = .ok l ∨ w.judge wr .stream = .mig l ∧ wr = false := by
  have hjudge : w.judge wr .stream = l.judge wr .stream := by
    rcases hw with rfl | rfl
    · rfl
    · rfl
  have hprot : (wr && !bitB l.entry 2) = false := by
    cases wr with
    | false => rfl
    | true => simp [hwrite rfl]
  rw [hjudge]
  cases h5 : bitB l.entry 5 with
  | false => exact .inl (by simp [Leaf.judge, hprot, h5])
  | true => exact .inr ⟨by simp [Leaf.judge, hprot, h5], hmig.resolve_left (by simp [h5])⟩

/-- No page, or a page to be written that migrates (R361, R365). -/
theorem Walk.judge_of_absent {w : Walk} {wr : Bool}
    (hw : w = .notPresent ∨ ∃ l, (w = .ok l ∨ w = .mig l) ∧ wr = true ∧ bitB l.entry 2 = true ∧ bitB l.entry 5 = true) :
    w.judge wr .stream = .notPresent ∨ ∃ l, w.judge wr .stream = .mig l ∧ wr = true := by
  rcases hw with rfl | ⟨l, rfl | rfl, rfl, h2, h5⟩
  · exact .inl rfl
  · exact .inr ⟨l, by simp [Walk.judge, Leaf.judge, h2, h5], rfl⟩
  · exact .inr ⟨l, by simp [Walk.judge, Leaf.judge, h2, h5], rfl⟩

/-- A protection condition of the walk, or a write to a page that is not writable, whether it migrates or not (R361). -/
theorem Walk.judge_of_protected {w : Walk} {wr : Bool}
    (hw : w = .prot ∨ ∃ l, (w = .ok l ∨ w = .mig l) ∧ wr = true ∧ bitB l.entry 2 = false) : w.judge wr .stream = .prot := by
  rcases hw with rfl | ⟨l, rfl | rfl, rfl, h2⟩
  · rfl
  · simp [Walk.judge, Leaf.judge, h2]
  · simp [Walk.judge, Leaf.judge, h2]

/-- The walk of a command of a core for an address, as the die's walker makes it now. -/
def State.dieWalk (s : State) (core dva : Nat) : Walk := (s.walk (s.die (dieOf core)).walker dva).1

/-- The walker has read table entries: it caches them (R362). -/
def Die.walked (d : Die) (seen : List (Nat × Nat)) : Die := { d with walker := seen.foldl (fun m x => Sparse.set 0 m x.1 x.2) d.walker }

/-- The state with a leaf in the tile's cache and in the command's own entry, and the tables walked for it in the walker's (R362). -/
def State.leafTaken (s : State) (core key dva : Nat) (l : Leaf) : State :=
  ({ s.modDie (dieOf core) fun d => d.walked (s.walk (s.die (dieOf core)).walker dva).2 with fresh := s.fresh + 1 }.modTile core fun t =>
    { t with tlb := cachePut 512 (s.leafHeld core) (Config.victim s.fresh) l t.tlb }).modCmd key fun c => { c with xl := some l }

theorem State.walkIn_of_permits {s : State} {core key dva : Nat} {wr : Bool} {l : Leaf}
    (h : (s.dieWalk core dva).judge wr .stream = .ok l ∨ (s.dieWalk core dva).judge wr .stream = .mig l ∧ wr = false) :
    s.walkIn core key dva wr = .ok (s.leafTaken core key dva l) := by
  simp only [State.dieWalk] at h
  unfold State.walkIn
  dsimp only
  rcases h with h | ⟨h, rfl⟩
  · rw [h]
    rfl
  · rw [h]
    rfl

theorem State.walkIn_of_absent {s : State} {core key dva : Nat} {wr : Bool}
    (h : (s.dieWalk core dva).judge wr .stream = .notPresent ∨ ∃ l, (s.dieWalk core dva).judge wr .stream = .mig l ∧ wr = true) :
    s.walkIn core key dva wr = .error 1 := by
  simp only [State.dieWalk] at h
  unfold State.walkIn
  dsimp only
  rcases h with h | ⟨l, h, rfl⟩
  · rw [h]
  · rw [h]
    rfl

theorem State.walkIn_of_prot {s : State} {core key dva : Nat} {wr : Bool} (h : (s.dieWalk core dva).judge wr .stream = .prot) :
    s.walkIn core key dva wr = .error 2 := by
  simp only [State.dieWalk] at h
  unfold State.walkIn
  dsimp only
  rw [h]

/-- A cache with room takes a leaf and keeps those it has. -/
theorem mem_cachePut {n pick : Nat} {keep : Leaf → Bool} {l : Leaf} {c : List Leaf} (h : c.length < n) :
    l ∈ cachePut n keep pick l c ∧ ∀ x ∈ c, x ∈ cachePut n keep pick l c := by
  have hroom : (c.filter fun x => decide (x ≠ l)).length < n := Nat.lt_of_le_of_lt (List.length_filter_le _ _) h
  have hput : cachePut n keep pick l c = (c.filter fun x => decide (x ≠ l)) ++ [l] := if_pos hroom
  rw [hput]
  refine ⟨by simp, fun x hx => ?_⟩
  by_cases hxl : x = l
  · simp [hxl]
  · simp [hx, hxl]

/-! ## A walk that is over -/

/-- The command waits for no walk, and the die's walker has one access fewer; the samples of the walk's reads are in the monitors (R362, R430). -/
def State.pastWalk (s : State) (core cm : Nat) (h : Health) : State :=
  ({ s with health := h }.modCmd cm fun c => { c with walk := none }).modDie (dieOf core) fun d =>
    { d with misses := d.misses.filter fun k => decide (k ≠ cm) }

theorem State.walkOver_eq (s : State) (core cm dva : Nat) : ∃ h, s.walkOver core cm dva = s.pastWalk core cm h := by
  obtain ⟨h, hh⟩ := s.noteWalk_health (s.die (dieOf core)).walker dva
  rw [State.walkOver, hh]
  exact ⟨h, rfl⟩

theorem State.Canonical.tiles {s : State} (h : s.Canonical) : Sparse.wf ({} : Tile) s.tiles = true := h.2.2.1

theorem State.Canonical.fields {s : State} (h : s.Canonical) : Sparse.wf ({} : Field) s.fields = true := h.2.2.2.2.2.2.1

theorem State.Canonical.dies {s : State} (h : s.Canonical) : Sparse.wf ({} : Die) s.dies = true := h.2.2.2.2.2.2.2

theorem State.modCmd_canonical {s : State} (hs : s.Canonical) (k : Nat) (f : Cmd → Cmd) : (s.modCmd k f).Canonical := by
  obtain ⟨hmem, htasks, htiles, hcells, hcmds, hlocks, hfields, hdies⟩ := hs
  exact ⟨hmem, htasks, htiles, hcells, Sparse.wf_modify hcmds _ _, hlocks, hfields, hdies⟩

theorem State.modDie_canonical {s : State} (hs : s.Canonical) (k : Nat) (f : Die → Die) : (s.modDie k f).Canonical := by
  obtain ⟨hmem, htasks, htiles, hcells, hcmds, hlocks, hfields, hdies⟩ := hs
  exact ⟨hmem, htasks, htiles, hcells, hcmds, hlocks, hfields, Sparse.wf_modify hdies _ _⟩

section
variable {s : State} (hs : s.Canonical) (core cm : Nat) (h : Health)
include hs

theorem State.pastWalk_canonical : (s.pastWalk core cm h).Canonical :=
  State.modDie_canonical (State.modCmd_canonical (s := { s with health := h }) hs _ _) _ _

theorem State.pastWalk_cmd (j : Nat) : (s.pastWalk core cm h).cmd j = if cm = j then { s.cmd cm with walk := none } else s.cmd j :=
  Sparse.get_modify hs.cmds cm j fun c => { c with walk := none }

theorem State.pastWalk_cmd_self : (s.pastWalk core cm h).cmd cm = { s.cmd cm with walk := none } :=
  (State.pastWalk_cmd hs core cm h cm).trans (if_pos rfl)

theorem State.pastWalk_cmd_ne {j : Nat} (hj : j ≠ cm) : (s.pastWalk core cm h).cmd j = s.cmd j :=
  (State.pastWalk_cmd hs core cm h j).trans (if_neg (Ne.symm hj))

theorem State.pastWalk_misses :
    ((s.pastWalk core cm h).die (dieOf core)).misses = (s.die (dieOf core)).misses.filter fun k => decide (k ≠ cm) := by
  rw [State.pastWalk, State.die_modDie_self (by exact hs.dies)]
  rfl

/-- Of each die, the end of a walk changes the accesses that wait. -/
theorem State.pastWalk_die (d : Nat) : ∃ l, (s.pastWalk core cm h).die d = { s.die d with misses := l } := by
  rw [State.pastWalk, State.die_modDie (by exact hs.dies)]
  split
  · next hd =>
    subst hd
    exact ⟨_, rfl⟩
  · exact ⟨_, rfl⟩

/-- The walker would walk again as it did. -/
theorem State.pastWalk_dieWalk (dva : Nat) : (s.pastWalk core cm h).dieWalk core dva = s.dieWalk core dva := by
  obtain ⟨l, hd⟩ := State.pastWalk_die hs core cm h (dieOf core)
  rw [State.dieWalk, hd]
  rfl

end

/-! ## The event -/

section
variable {s : State} {cm core : Nat} {r : WalkReq} (hs : s.Canonical) (hcore : coreOf (taskOfCmd cm) = core) (hst : (s.cmd cm).st = .running)
  (hpump : s.pumpRuns core = true) (hwalk : (s.cmd cm).walk = some r)
include hcore hst hpump

theorem exec_translationWalk_of_running : exec (.translationWalk cm) s = .next (s.walkFor cm) := by
  subst hcore
  exact congrArg Host.Outcome.next (if_pos ⟨hst, hpump⟩)

include hwalk

theorem exec_translationWalk_of_waiting (hb : s.walkBegun core cm = false) : exec (.translationWalk cm) s = .next s := by
  rw [exec_translationWalk_of_running hcore hst hpump, State.walkFor, hwalk, hcore]
  dsimp only
  rw [hb]
  rfl

variable (hb : s.walkBegun core cm = true)
include hs hb

/-- A walk under way that gives a leaf. -/
theorem exec_translationWalk_of_permits {l : Leaf}
    (hj : (s.dieWalk core r.dva).judge r.wr .stream = .ok l ∨ (s.dieWalk core r.dva).judge r.wr .stream = .mig l ∧ r.wr = false) :
    ∃ h, exec (.translationWalk cm) s = .next ((s.pastWalk core cm h).leafTaken core cm r.dva l) := by
  obtain ⟨h, hover⟩ := s.walkOver_eq core cm r.dva
  rw [← State.pastWalk_dieWalk hs core cm h] at hj
  refine ⟨h, ?_⟩
  rw [exec_translationWalk_of_running hcore hst hpump, State.walkFor, hwalk, hcore]
  dsimp only
  rw [hb, hover, State.walkIn_of_permits hj, if_neg (by decide)]

/-- A walk under way that ends with a fault kind. -/
theorem exec_translationWalk_of_fault {k : Nat}
    (hk : ∀ u : State, u.dieWalk core r.dva = s.dieWalk core r.dva → u.walkIn core cm r.dva r.wr = .error k) :
    ∃ h, exec (.translationWalk cm) s = .next ((s.pastWalk core cm h).hold cm (.fault k) r.elem r.va r.wr) := by
  obtain ⟨h, hover⟩ := s.walkOver_eq core cm r.dva
  have hsame := State.pastWalk_dieWalk hs core cm h r.dva
  refine ⟨h, ?_⟩
  rw [exec_translationWalk_of_running hcore hst hpump, State.walkFor, hwalk, hcore]
  dsimp only
  rw [hb, hover, hk _ hsame, if_neg (by decide)]

end

/-! ## A stream's record, and no trace -/

/-- The record of a stream that stops at an element (R368). -/
def State.streamFRec (s : State) (cm kind : Nat) (wr : Bool) (va count : Nat) : FRec :=
  ⟨3, .streamFault, dieOf (coreOf (taskOfCmd cm)), s.fieldNum (coreOf (taskOfCmd cm)), (s.cmd cm).ver, tileOf (coreOf (taskOfCmd cm)),
    ctxOf (taskOfCmd cm), entryOfCmd cm, 255, 255, kind + 256 * b2n wr, va, count, s.cycle⟩

theorem State.streamRec_eq (s : State) (cm kind : Nat) (wr : Bool) (va count : Nat) : s.streamRec cm kind wr va count =
    s.modDie (dieOf (coreOf (taskOfCmd cm))) fun d => { d with recs := d.recs ++ [s.streamFRec cm kind wr va count] } :=
  State.pushRec_of_kind (r := s.streamFRec cm kind wr va count) (show (3 : Nat) ≠ 5 by decide)

theorem State.traceEvent_off {s : State} {dn : Nat} (h : (s.die dn).traceOn = false) (k info tile fld ver : Nat) :
    s.traceEvent dn k info tile fld ver = s := by
  simp [State.traceEvent, State.traceWrite, h]

/-- A record that joins a die's leaves tracing as it was. -/
theorem State.traceOn_addRec {s : State} (hs : s.Canonical) (d : Nat) (r : FRec) (k : Nat) :
    ((s.modDie d fun x => { x with recs := x.recs ++ [r] }).die k).traceOn = (s.die k).traceOn := by
  rw [State.die_modDie hs.dies]
  split
  · next hd =>
    subst hd
    rfl
  · rfl

/-! ## A pause -/

/-- The stream's command as it pauses at an element (R218). -/
def Cmd.pausedAt (c : Cmd) (n : Nat) : Cmd := { c.beatOver with st := .paused, fault := 1, count := n, walk := none }

theorem State.pauseCmd_eq {s : State} (hs : s.Canonical) {cm : Nat} (htrace : (s.die (dieOf (coreOf (taskOfCmd cm)))).traceOn = false)
    (wr : Bool) (va n : Nat) : s.pauseCmd cm wr va n = (s.modCmd cm fun c => c.pausedAt n).modDie (dieOf (coreOf (taskOfCmd cm))) fun d =>
      { d with recs := d.recs ++ [s.streamFRec cm 1 wr va n] } := by
  have hver : ((s.modCmd cm fun c => c.pausedAt n).cmd cm).ver = (s.cmd cm).ver := by
    rw [State.cmd_modCmd_self hs.cmds]
    rfl
  have hrec : (s.modCmd cm fun c => c.pausedAt n).streamFRec cm 1 wr va n = s.streamFRec cm 1 wr va n := by
    simp only [State.streamFRec, hver]
    rfl
  have hrun : s.pauseCmd cm wr va n = ((s.modCmd cm fun c => c.pausedAt n).streamRec cm 1 wr va n).traceEvent (dieOf (coreOf (taskOfCmd cm))) 4
      (tileOf (coreOf (taskOfCmd cm)) + 256 * entryOfCmd cm) (tileOf (coreOf (taskOfCmd cm))) (s.fieldNum (coreOf (taskOfCmd cm))) (s.cmd cm).ver := rfl
  rw [hrun, State.streamRec_eq, hrec]
  refine State.traceEvent_off ?_ _ _ _ _ _
  rw [State.traceOn_addRec (State.modCmd_canonical hs _ _)]
  exact htrace

/-! ## A leaf taken -/

section
variable {s : State} (hs : s.Canonical) (core key dva : Nat) (l : Leaf)
include hs

theorem State.leafTaken_cmd (j : Nat) :
    (s.leafTaken core key dva l).cmd j = if key = j then { s.cmd key with xl := some l } else s.cmd j :=
  Sparse.get_modify hs.cmds key j fun c => { c with xl := some l }

theorem State.leafTaken_tile (j : Nat) : (s.leafTaken core key dva l).tile j =
    if core = j then { s.tile core with tlb := cachePut 512 (s.leafHeld core) (Config.victim s.fresh) l (s.tile core).tlb } else s.tile j :=
  Sparse.get_modify hs.tiles core j fun t => { t with tlb := cachePut 512 (s.leafHeld core) (Config.victim s.fresh) l t.tlb }

theorem State.leafTaken_misses : ((s.leafTaken core key dva l).die (dieOf core)).misses = (s.die (dieOf core)).misses := by
  change ((s.modDie (dieOf core) fun d => d.walked _).die (dieOf core)).misses = _
  rw [State.die_modDie_self hs.dies]
  rfl

end

/-! ## A fault that ends a field -/

theorem State.faultTasks_tasks (s : State) (k : Nat) : ∃ l, s.faultTasks k = { s with tasks := l } :=
  foldl_tasks (fun u _ => foldl_tasks (fun _ _ => ⟨_, rfl⟩) _ u) _ s

theorem State.dropBeats_cmd {s : State} (hs : s.Canonical) (k j : Nat) :
    (s.dropBeats k).cmd j = if s.fieldOf (j / 128) = some k then (s.cmd j).beatOver else s.cmd j :=
  Sparse.get_mapAll hs.cmds (fun _ => by split <;> rfl) j

/-- A field as a fault that ends it freezes it. -/
def Field.endedBy (x : Field) (cause : Cause) (cycle : Nat) : Field := { x.frozenBy cause cycle with ended := true }

/-- A field that a fault ends at once, its die tracing nothing: besides the field, its tasks and its commands' beats change (R22, R53). -/
theorem State.freezeNow_ends {s : State} (hs : s.Canonical) {k : Nat} (htrace : (s.die (k / 256)).traceOn = false) (c : Cause) :
    ∃ l, s.freezeNow k c true = { s.dropBeats k with tasks := l }.modField k fun x => x.endedBy c s.cycle := by
  obtain ⟨l, hland⟩ := s.landField_tasks k
  obtain ⟨l', hfault⟩ := State.faultTasks_tasks ({ s.dropBeats k with tasks := l }.modField k fun x => x.frozenBy c s.cycle) k
  have htwice : Sparse.modify {} (Sparse.modify {} s.fields k fun x => x.frozenBy c s.cycle) k (fun x => { x with ended := true }) =
      Sparse.modify {} s.fields k fun x => x.endedBy c s.cycle := Sparse.modify_modify hs.fields _ _ _
  refine ⟨l', ?_⟩
  simp only [State.freezeNow, if_true, hland]
  rw [State.traceEvent_off (by exact htrace)]
  refine (congrArg (State.modField · k fun x => { x with ended := true }) hfault).trans ?_
  exact congrArg (fun m => { s.dropBeats k with tasks := l', fields := m }) htwice

/-- Nothing completes where no launch is of the field. -/
theorem State.completeAll_of_none {s : State} {f : Nat} (h : ∀ x ∈ s.intake.launches, x.fld ≠ some f) (status detail : Nat) (p : Launch → Bool) :
    s.completeAll f status detail p = s := by
  have hnone : s.launchesOf f p = [] := by
    rw [State.launchesOf, List.filter_eq_nil_iff.2 fun x hx => by simp [h x hx], List.map_nil]
  rw [State.completeAll, hnone]
  rfl

/-- A protection fault ends a field that nothing is closing, with no return and no launch outstanding (R53, R55, R73). -/
theorem State.endField_of_closed {s : State} (hs : s.Canonical) {f : Nat} (hst : (s.field f).st ≠ .unloaded) (hclosing : (s.field f).closing = none)
    (hopen : s.returnsOpen f = false) (htrace : (s.die (f / 256)).traceOn = false) (hlaunch : ∀ x ∈ s.intake.launches, x.fld ≠ some f) :
    ∃ l, s.endField f = { s.dropBeats f with tasks := l }.modField f fun x => x.endedBy .streamFault s.cycle := by
  obtain ⟨l, hfreeze⟩ := State.freezeNow_ends hs htrace .streamFault
  refine ⟨l, ?_⟩
  rw [State.endField, if_neg hst, hclosing]
  dsimp only
  rw [State.freeze, hopen, if_neg (by decide), hfreeze]
  exact State.completeAll_of_none (by exact hlaunch) _ _ _

/-- The command as a fault ends it at an element (R203). -/
def Cmd.faultedAt (c : Cmd) (kind n : Nat) : Cmd :=
  { c with st := .faulted, fault := kind, count := n, walk := none, xl := none, lines := [], under := [], stale := false, owed := [], redo := [] }

/-- The state with a stream of a field's core ended by a fault, and its record (R53, R203, R368). -/
def State.streamFaulted (s : State) (cm kind : Nat) (wr : Bool) (va n : Nat) : State :=
  (s.modCmd cm fun c => c.faultedAt kind n).modDie (dieOf (coreOf (taskOfCmd cm))) fun d =>
    { d with recs := d.recs ++ [s.streamFRec cm kind wr va n] }

theorem State.faultCmd_of_field {s : State} (hs : s.Canonical) {cm f : Nat} (hmgmt : isMgmt (coreOf (taskOfCmd cm)) = false)
    (hf : s.fieldOf (coreOf (taskOfCmd cm)) = some f) (kind : Nat) (wr : Bool) (va n : Nat) :
    s.faultCmd cm kind wr va n = (s.streamFaulted cm kind wr va n).endField f := by
  have hfail : ((s.failCmd cm kind).modCmd cm fun c => { c with count := n }) = s.modCmd cm fun c => c.faultedAt kind n :=
    State.modCmd_modCmd hs cm _ _
  have hver : ((s.modCmd cm fun c => c.faultedAt kind n).cmd cm).ver = (s.cmd cm).ver := by
    rw [State.cmd_modCmd_self hs.cmds]
    rfl
  have hrec : (s.modCmd cm fun c => c.faultedAt kind n).streamRec cm kind wr va n = s.streamFaulted cm kind wr va n := by
    rw [State.streamRec_eq, State.streamFRec, hver]
    rfl
  have hcore : (s.streamFaulted cm kind wr va n).fieldOf (coreOf (taskOfCmd cm)) = some f := hf
  rw [State.faultCmd, hfail, hmgmt, if_neg (by decide), hrec, State.endCore, hcore]

theorem State.streamFaulted_cmd {s : State} (hs : s.Canonical) (cm kind : Nat) (wr : Bool) (va n j : Nat) :
    (s.streamFaulted cm kind wr va n).cmd j = if cm = j then (s.cmd cm).faultedAt kind n else s.cmd j :=
  Sparse.get_modify hs.cmds cm j fun c => c.faultedAt kind n

/-- What a stream of a field's core that faults leaves, its field ended at once: memory, the field, the commands, and the record. -/
theorem State.faultCmd_ends {s : State} (hs : s.Canonical) {cm f : Nat} (hmgmt : isMgmt (coreOf (taskOfCmd cm)) = false)
    (hf : s.fieldOf (coreOf (taskOfCmd cm)) = some f) (hst : (s.field f).st ≠ .unloaded) (hclosing : (s.field f).closing = none)
    (hopen : s.returnsOpen f = false) (htrace : (s.die (f / 256)).traceOn = false) (hlaunch : ∀ x ∈ s.intake.launches, x.fld ≠ some f)
    (kind : Nat) (wr : Bool) (va n : Nat) :
    ∃ t, s.faultCmd cm kind wr va n = t ∧ t.mem = s.mem ∧ t.field f = (s.field f).endedBy .streamFault s.cycle ∧
      (∀ j, t.cmd j = if s.fieldOf (j / 128) = some f then ((s.streamFaulted cm kind wr va n).cmd j).beatOver
        else (s.streamFaulted cm kind wr va n).cmd j) ∧
      (t.die (dieOf (coreOf (taskOfCmd cm)))).recs =
        (s.die (dieOf (coreOf (taskOfCmd cm)))).recs ++ [s.streamFRec cm kind wr va n] := by
  have hmod := State.modCmd_canonical hs cm fun c => c.faultedAt kind n
  have hcanon : (s.streamFaulted cm kind wr va n).Canonical := State.modDie_canonical hmod _ _
  have htrace' : ((s.streamFaulted cm kind wr va n).die (f / 256)).traceOn = false := (State.traceOn_addRec hmod _ _ _).trans htrace
  obtain ⟨l, hend⟩ := State.endField_of_closed hcanon hst hclosing hopen htrace' hlaunch
  refine ⟨_, (State.faultCmd_of_field hs hmgmt hf kind wr va n).trans hend, rfl, ?_, fun j => State.dropBeats_cmd hcanon f j, ?_⟩
  · exact State.field_modField_self (by exact hs.fields) _ _
  · exact congrArg Die.recs (State.die_modDie_self hmod.dies (dieOf (coreOf (taskOfCmd cm)))
      fun d => { d with recs := d.recs ++ [s.streamFRec cm kind wr va n] })

/-- The record of a stream whose walk is over. -/
theorem State.pastWalk_streamFRec {s : State} (hs : s.Canonical) {core cm : Nat} (hcore : coreOf (taskOfCmd cm) = core) (h : Health)
    (kind : Nat) (wr : Bool) (va n : Nat) : (s.pastWalk core cm h).streamFRec cm kind wr va n =
      ⟨3, .streamFault, dieOf core, s.fieldNum core, (s.cmd cm).ver, core % 256, cm / 16 % 8, cm % 16, 255, 255, kind + 256 * b2n wr, va, n,
        s.cycle⟩ := by
  subst hcore
  rw [State.streamFRec, State.pastWalk_cmd_self hs]
  rfl

/-- A field whose engines run is loaded (R22). -/
theorem State.loaded_of_pumpRuns {s : State} {core f : Nat} (hpump : s.pumpRuns core = true) (hf : s.fieldOf core = some f) :
    (s.field f).st ≠ .unloaded := by
  intro hst
  rw [State.pumpRuns, hf] at hpump
  simp [Field.runs, hst] at hpump

/-- Settles O46: a walk under way ends with its leaf taken, with the stream paused, or with the stream's field ended, as R361 judges the access. -/
theorem walksTranslateOrPause : Obligations.WalksTranslateOrPause := by
  intro s cm r hs c core w hst hpump hwalk
  have hcore : coreOf (taskOfCmd cm) = core := Nat.div_div_eq_div_mul cm 16 8
  refine ⟨fun hb => exec_translationWalk_of_waiting hcore hst hpump hwalk hb, fun hb l hw hwrite hmig hroom => ?_, fun hb hw htrace => ?_,
    fun f hmgmt hf hclosing hopen htrace htrace' hlaunch hb hw => ?_⟩
  · obtain ⟨h, hexec⟩ := exec_translationWalk_of_permits hs hcore hst hpump hwalk hb (Walk.judge_of_permits hw hwrite hmig)
    have hp := State.pastWalk_canonical hs core cm h
    have htile := State.leafTaken_tile hp core cm r.dva l
    have hcmd := State.leafTaken_cmd hp core cm r.dva l
    obtain ⟨hin, hkeep⟩ := mem_cachePut (pick := Config.victim s.fresh) (keep := (s.pastWalk core cm h).leafHeld core) (l := l) hroom
    refine ⟨_, hexec, rfl, rfl, rfl, fun j hj => ?_, ?_, fun j hj => ?_, ?_, fun x hx => ?_, ?_⟩
    · rw [hcmd, if_neg (Ne.symm hj), State.pastWalk_cmd_ne hs core cm h hj]
    · rw [hcmd, if_pos rfl, State.pastWalk_cmd_self hs]
    · exact (htile j).trans (if_neg (Ne.symm hj))
    · rw [htile, if_pos rfl]
      exact hin
    · rw [htile, if_pos rfl]
      exact hkeep x hx
    · rw [State.leafTaken_misses hp, State.pastWalk_misses hs]
  · have hjudge := Walk.judge_of_absent hw
    obtain ⟨h, hexec⟩ := exec_translationWalk_of_fault hs hcore hst hpump hwalk hb (k := 1)
      fun u hu => State.walkIn_of_absent (by rw [hu]; exact hjudge)
    have hp := State.pastWalk_canonical hs core cm h
    obtain ⟨l, hdie⟩ := State.pastWalk_die hs core cm h (dieOf core)
    have hpause := State.pauseCmd_eq hp (cm := cm) (by rw [hcore, hdie]; exact htrace) r.wr r.va r.elem
    rw [hcore, State.pastWalk_streamFRec hs hcore] at hpause
    have hcmd (j : Nat) := State.cmd_modCmd hp.cmds cm j fun c => c.pausedAt r.elem
    refine ⟨_, hexec.trans (congrArg Host.Outcome.next hpause), rfl, fun j hj => ?_, ?_, ?_⟩
    · rw [State.modDie_cmd, hcmd, if_neg (Ne.symm hj), State.pastWalk_cmd_ne hs core cm h hj]
    · rw [State.modDie_cmd, hcmd, if_pos rfl, State.pastWalk_cmd_self hs]
      rfl
    · rw [State.die_modDie_self (State.modCmd_canonical hp _ _).dies, State.modCmd_die, hdie]
  · have hjudge := Walk.judge_of_protected hw
    obtain ⟨h, hexec⟩ := exec_translationWalk_of_fault hs hcore hst hpump hwalk hb (k := 2)
      fun u hu => State.walkIn_of_prot (by rw [hu]; exact hjudge)
    have hp := State.pastWalk_canonical hs core cm h
    obtain ⟨l, hdie⟩ := State.pastWalk_die hs core cm h (f / 256)
    obtain ⟨l', hdie'⟩ := State.pastWalk_die hs core cm h (dieOf core)
    obtain ⟨t, hfault, hmem, hfield, hcmd, hrecs⟩ := State.faultCmd_ends hp (cm := cm) (f := f) (by rw [hcore]; exact hmgmt)
      (by rw [hcore]; exact hf) (State.loaded_of_pumpRuns (s := s) hpump hf) hclosing hopen (by rw [hdie]; exact htrace') hlaunch 2 r.wr r.va r.elem
    rw [hcore, State.pastWalk_streamFRec hs hcore, hdie'] at hrecs
    have hcm : t.cmd cm = ({ s.cmd cm with walk := none }.faultedAt 2 r.elem).beatOver := by
      refine (hcmd cm).trans ((if_pos hf).trans ?_)
      rw [State.streamFaulted_cmd hp, if_pos rfl, State.pastWalk_cmd_self hs]
    refine ⟨t, hexec.trans (congrArg Host.Outcome.next hfault), hmem, congrArg Field.st hfield, congrArg Field.ended hfield, congrArg Cmd.st hcm,
      congrArg Cmd.fault hcm, congrArg Cmd.count hcm, fun j hj => ?_, hrecs⟩
    rw [hcmd, State.streamFaulted_cmd hp, if_neg (Ne.symm hj), State.pastWalk_cmd_ne hs core cm h hj]
    rfl

end Sys2Proof.Machine
end

section
/-! A field whose rectangle reaches off its die: when its tile is cleared, a gap record of the tile goes into the trace of the other die (R259, R379). -/

namespace Sys2Proof.Machine

/-- A state that no premise of O57 and O58 shuts out, and no launch makes, as R10 has a field's rectangle on its die.
Field 0 of die 0, frozen, its dump limit past, at row 22: its one tile is tile 8 of die 1. A cell of that tile holds a gap record; die 1 traces
gap records from device virtual address 0x2000 up, which the page table maps to HBM 0x2000. -/
def offDieField : State :=
  { State.reset with
    mem := [(0, 1), (1, 0x10), (0x1000, 7)]
    cells := [(264 * 256, { gap := some ⟨0, 0, 0, 0, 0⟩ })]
    fields := [(0, { st := .frozen, y0 := 22, w := 1, h := 1, dump := some 0 })]
    dies := [(1, { regs := [(0x150, 0x2000), (0x152, 0x80080001)] })]
    cycle := 72000000000 }

theorem offDieField_canonical : offDieField.Canonical := Tests.canonical_of (by decide +kernel)

theorem offDieField_fieldCores : offDieField.fieldCores 0 = [264] := by decide +kernel

/-- A byte of HBM, once an instruction has answered a state. -/
def hbmByteAfter (o : Host.Outcome State Fault Refusal) (a : Nat) : Byte :=
  match o with
  | .next t => t.mem.byte a
  | _ => 0

theorem offDieField_teardown : hbmByteAfter (exec (.teardown 0 0) offDieField) 0x2002 = 0xFF := by decide +kernel

theorem offDieField_dumpLimitExpiry : hbmByteAfter (exec (.dumpLimitExpiry 0) offDieField) 0x2002 = 0xFF := by decide +kernel

/-- An instruction that writes the trace record of that tile does not leave the memory as it was. -/
theorem offDieField_mem_ne {i : Instr} {t : State} (hi : hbmByteAfter (exec i offDieField) 0x2002 = 0xFF) (ht : exec i offDieField = .next t) :
    t.mem ≠ offDieField.mem := by
  intro hmem
  rw [ht] at hi
  have hsame : t.mem.byte 0x2002 = 0 := by
    rw [hmem]
    rfl
  exact absurd (hsame.symm.trans hi) (by decide)

/-- Refutes O57: TEARDOWN of a field whose rectangle reaches off its die writes a trace record of the other die, where the statement keeps memory. -/
theorem not_fieldCommandsAct : ¬ Obligations.FieldCommandsAct := by
  intro h
  obtain ⟨-, -, -, -, -, -, -, hteardown, -⟩ :=
    h offDieField 0 0 offDieField_canonical (by decide) (by decide) (by decide +kernel) (by decide +kernel)
  obtain ⟨t, ht, hmem, -⟩ := hteardown (by decide +kernel) (by decide +kernel)
  exact offDieField_mem_ne offDieField_teardown ht hmem

/-- Refutes O58: DUMP_LIMIT_EXPIRY unloads such a field too, and writes that trace record, where the statement keeps memory. -/
theorem not_ringStopsStreamsAndWindowAct : ¬ Obligations.RingStopsStreamsAndWindowAct := by
  intro h
  obtain ⟨-, hdump, -⟩ := h offDieField 0 0 0 offDieField_canonical (by decide)
  obtain ⟨t, ht, hmem, -⟩ := hdump (by decide +kernel) (by decide +kernel) (by decide +kernel)
  exact offDieField_mem_ne offDieField_dumpLimitExpiry ht hmem

end Sys2Proof.Machine
end
